-- ==== Sys2Proof/Word.lean ====
section
/-! DEFINITION. The word types of the machine and the sorted table `Tab`, the one
container the state uses for sparse data keyed by a number (registers by lane, crews by
slot, cores by physical number). -/
namespace Sys2Proof

/-- A byte of memory (R5). -/
abbrev Byte := BitVec 8
/-- One lane of a vector register (R96). -/
abbrev W32 := BitVec 32
/-- A system register, an instruction word or a register pair (R99). -/
abbrev W64 := BitVec 64

/-- A finite table from numbers to values, kept in rising order of the key without
repeats. -/
structure Tab (α : Type) where
  cells : List (Nat × α)
deriving DecidableEq, Repr

namespace Tab
variable {α : Type}

/-- The table with no entry. -/
def empty : Tab α := ⟨[]⟩

/-- The first entry of a list under a key. -/
def findIn (k : Nat) : List (Nat × α) → Option α
  | [] => none
  | (j, v) :: r => if j = k then some v else findIn k r

/-- The value under a key, if there is one. -/
def get? (t : Tab α) (k : Nat) : Option α := findIn k t.cells

/-- The value under a key, or the default. -/
def getD (t : Tab α) (k : Nat) (d : α) : α := (t.get? k).getD d

/-- Insertion into a rising list, replacing an equal key. -/
def putIn (k : Nat) (v : α) : List (Nat × α) → List (Nat × α)
  | [] => [(k, v)]
  | (j, u) :: r =>
    if k < j then (k, v) :: (j, u) :: r
    else if j = k then (k, v) :: r
    else (j, u) :: putIn k v r

/-- The table with `v` under `k`. -/
def put (t : Tab α) (k : Nat) (v : α) : Tab α := ⟨putIn k v t.cells⟩

/-- The table without the key. -/
def del (t : Tab α) (k : Nat) : Tab α := ⟨t.cells.filter fun c => c.1 != k⟩

/-- The keys, rising. -/
def keys (t : Tab α) : List Nat := t.cells.map (·.1)

/-- The values in order of their keys. -/
def vals (t : Tab α) : List α := t.cells.map (·.2)

/-- Every value changed by a function of its key and itself. -/
def mapKV {β : Type} (f : Nat → α → β) (t : Tab α) : Tab β :=
  ⟨t.cells.map fun c => (c.1, f c.1 c.2)⟩

/-- The entries that a test keeps. -/
def keep (f : Nat → α → Bool) (t : Tab α) : Tab α := ⟨t.cells.filter fun c => f c.1 c.2⟩

/-- The number of entries. -/
def size (t : Tab α) : Nat := t.cells.length

end Tab
end Sys2Proof
end

