-- ==== Sys2Proof/Syntax.lean ====
section
/-! DEFINITION. The instructions and the events of the machine: one constructor for each
row of spec/opcode_table.json, with the operand types they carry. -/
namespace Sys2Proof

/-- The guard of an instruction word (R61): enable, negate, predicate index. -/
structure Guard where
  en : Bool
  neg : Bool
  idx : BitVec 4
deriving DecidableEq, Repr

/-- A 9-bit source field (R64). -/
inductive Src where
  | reg (r : BitVec 8)
  | latch (j : BitVec 2)
  | zero
deriving DecidableEq, Repr

/-- A 9-bit destination field (R64): written, suppressed but naming a register, or 0x1FF. -/
inductive Dst where
  | reg (r : BitVec 8)
  | sup (r : BitVec 8)
  | none
deriving DecidableEq, Repr

/-- The integer types (R65, R74). -/
inductive ITy where
  | s32 | n32 | s64 | n64 | s16 | n16 | s8 | n8
deriving DecidableEq, Repr

/-- The floating-point types (R65, R75). -/
inductive FTy where
  | f32 | f16 | bf16 | f8e4 | f8e5
deriving DecidableEq, Repr

/-- A type that `cvt` takes: type codes 0 to 12 (R147). -/
inductive NTy where
  | int (t : ITy)
  | flt (t : FTy)
deriving DecidableEq, Repr

/-- The rounding modes (R79). -/
inductive Rm where
  | rn | rz | ru | rd
deriving DecidableEq, Repr

/-- The integer conditions (R121). -/
inductive Cond where
  | eq | ne | lt | le | gt | ge
deriving DecidableEq, Repr

/-- The floating-point conditions (R140). -/
inductive FCond where
  | eq | ne | lt | le | gt | ge | un
deriving DecidableEq, Repr

/-- The access sizes of format M (R63). -/
inductive Size where
  | b1 | b2 | b4 | b8 | b16
deriving DecidableEq, Repr

/-- The scopes of format M (R63). -/
inductive Scope where
  | crew | core | cluster | die | package | domain
deriving DecidableEq, Repr

/-- The order of an atomic (R180). -/
inductive AOrd where
  | relaxed | acq | rel | acqrel
deriving DecidableEq, Repr

/-- The arithmetic of an atomic (R195). -/
inductive AtomOp where
  | add | min | max | and | or | xor | xchg | cas
deriving DecidableEq, Repr

/-- The operations of `ared` (R198). -/
inductive AredOp where
  | add | fadd | smin | smax | umin | umax | or | and
deriving DecidableEq, Repr

/-- The operations of `red` (R133). -/
inductive RedOp where
  | add | min | max | and | or | xor
deriving DecidableEq, Repr

/-- The modes of `vote` (R131). -/
inductive VoteMode where
  | every | none | split | mask
deriving DecidableEq, Repr

/-- The modes of `shfl` (R132). -/
inductive ShflMode where
  | from | rot | flip | edge
deriving DecidableEq, Repr

/-- The highest cache level that a prefetch fills (R180). -/
inductive PrfLevel where
  | l1 | l2 | llc
deriving DecidableEq, Repr

/-- The address operands of format M (R181). -/
structure MAddr where
  base : Src
  index : Src
  off : BitVec 13
deriving DecidableEq, Repr

/-- The place operand of format P (R26, R63). -/
structure PlaceOp where
  dx : BitVec 6
  dy : BitVec 6
  dd : BitVec 3
deriving DecidableEq, Repr

/-- The condition of format C (R63). -/
structure CCond where
  cond : Bool
  neg : Bool
  idx : BitVec 4
deriving DecidableEq, Repr

/-- The operand types of `red`: every integer type and three float types (R133). -/
abbrev RedTy := NTy

/-- What the host answers to a page request (R406). -/
inductive PrqResult where
  | success | invalid | failure | noResponse
deriving DecidableEq, Repr

/-- Who writes a device register (R403). -/
inductive Requester where
  | host
  | keeper (core : Nat)
  | crew
deriving DecidableEq, Repr

/-- What becomes of a message sent to another domain (R410). -/
inductive MsgResult where
  | delivered | refused | noRoute
deriving DecidableEq, Repr

/-- What the reply of another module or of the host shows: the bytes at physical addresses outside
this module that others have written (R199); empty for a location of this module. -/
abbrev Reply := List (Nat × Byte)

/-- The instructions and events of the machine. An event's operands name the unit it
happens in and carry what comes from outside the module. -/
inductive Instr where
  -- integer arithmetic (R117)
  | iadd (g : Guard) (t : ITy) (sat : Bool) (d : Dst) (a b : Src)
  | isub (g : Guard) (t : ITy) (sat : Bool) (d : Dst) (a b : Src)
  | imul (g : Guard) (t : ITy) (d : Dst) (a b : Src)
  | imulh (g : Guard) (t : ITy) (d : Dst) (a b : Src)
  | imad (g : Guard) (t : ITy) (d : Dst) (a b c : Src)
  | idiv (g : Guard) (t : ITy) (d : Dst) (a b : Src)
  | irem (g : Guard) (t : ITy) (d : Dst) (a b : Src)
  | ineg (g : Guard) (t : ITy) (sat : Bool) (d : Dst) (a : Src)
  | iabs (g : Guard) (t : ITy) (sat : Bool) (d : Dst) (a : Src)
  | imin (g : Guard) (t : ITy) (d : Dst) (a b : Src)
  | imax (g : Guard) (t : ITy) (d : Dst) (a b : Src)
  | icmp (g : Guard) (c : Cond) (t : ITy) (d : Dst) (a b : Src)
  | and (g : Guard) (t : ITy) (d : Dst) (a b : Src)
  | or (g : Guard) (t : ITy) (d : Dst) (a b : Src)
  | xor (g : Guard) (t : ITy) (d : Dst) (a b : Src)
  | andn (g : Guard) (t : ITy) (d : Dst) (a b : Src)
  | not (g : Guard) (t : ITy) (d : Dst) (a : Src)
  | shl (g : Guard) (t : ITy) (d : Dst) (a b : Src)
  | shr (g : Guard) (t : ITy) (d : Dst) (a b : Src)
  | sar (g : Guard) (t : ITy) (d : Dst) (a b : Src)
  | rot (g : Guard) (t : ITy) (d : Dst) (a b : Src)
  | bfx (g : Guard) (t : ITy) (d : Dst) (a spec : Src)
  | bfi (g : Guard) (t : ITy) (d : Dst) (a b spec : Src)
  | popc (g : Guard) (t : ITy) (d : Dst) (a : Src)
  | clz (g : Guard) (t : ITy) (d : Dst) (a : Src)
  | ctz (g : Guard) (t : ITy) (d : Dst) (a : Src)
  | brev (g : Guard) (t : ITy) (d : Dst) (a : Src)
  | mov (g : Guard) (t : ITy) (d : Dst) (a : Src)
  | sel (g : Guard) (t : ITy) (p : BitVec 4) (d : Dst) (a b : Src)
  | lea (g : Guard) (wide : Bool) (sh : BitVec 4) (d : Dst) (a i : Src)
  | aadd (g : Guard) (wide : Bool) (d : Dst) (a b : Src)
  | asub (g : Guard) (wide : Bool) (d : Dst) (a b : Src)
  | acmp (g : Guard) (c : Cond) (d : Dst) (a b : Src)
  | iaddImm32 (g : Guard) (d : Dst) (a : Src) (imm : BitVec 31)
  | isubImm32 (g : Guard) (d : Dst) (a : Src) (imm : BitVec 31)
  | imulImm32 (g : Guard) (d : Dst) (a : Src) (imm : BitVec 31)
  | andImm32 (g : Guard) (d : Dst) (a : Src) (imm : BitVec 31)
  | orImm32 (g : Guard) (d : Dst) (a : Src) (imm : BitVec 31)
  | xorImm32 (g : Guard) (d : Dst) (a : Src) (imm : BitVec 31)
  | shlImm32 (g : Guard) (d : Dst) (a : Src) (n : BitVec 5)
  | shrImm32 (g : Guard) (d : Dst) (a : Src) (n : BitVec 5)
  | sarImm32 (g : Guard) (d : Dst) (a : Src) (n : BitVec 5)
  | aaddImm32 (g : Guard) (d : Dst) (a : Src) (imm : BitVec 31)
  | asubImm32 (g : Guard) (d : Dst) (a : Src) (imm : BitVec 31)
  | movi (g : Guard) (d : Dst) (imm : BitVec 31)
  | iaddImm64 (g : Guard) (d : Dst) (a : Src) (imm : BitVec 31)
  | isubImm64 (g : Guard) (d : Dst) (a : Src) (imm : BitVec 31)
  | imulImm64 (g : Guard) (d : Dst) (a : Src) (imm : BitVec 31)
  | andImm64 (g : Guard) (d : Dst) (a : Src) (imm : BitVec 31)
  | orImm64 (g : Guard) (d : Dst) (a : Src) (imm : BitVec 31)
  | xorImm64 (g : Guard) (d : Dst) (a : Src) (imm : BitVec 31)
  | shlImm64 (g : Guard) (d : Dst) (a : Src) (n : BitVec 6)
  | shrImm64 (g : Guard) (d : Dst) (a : Src) (n : BitVec 6)
  | sarImm64 (g : Guard) (d : Dst) (a : Src) (n : BitVec 6)
  | aaddImm64 (g : Guard) (d : Dst) (a : Src) (imm : BitVec 31)
  | asubImm64 (g : Guard) (d : Dst) (a : Src) (imm : BitVec 31)
  | moviPair (g : Guard) (d : Dst) (imm : BitVec 31)
  | movw (g : Guard) (d : Dst) (imm : BitVec 32)
  -- predicates and control (R121, R124 to R129)
  | pset (g : Guard) (c : Cond) (t : ITy) (pd : BitVec 4) (a b : Src)
  | pand (g : Guard) (pd pa pb : BitVec 4) (na nb : Bool)
  | por (g : Guard) (pd pa pb : BitVec 4) (na nb : Bool)
  | pxor (g : Guard) (pd pa pb : BitVec 4) (na nb : Bool)
  | pnot (g : Guard) (pd pa : BitVec 4)
  | br (c : CCond) (disp : BitVec 33)
  | brx (g : Guard) (a : Src)
  | call (c : CCond) (disp : BitVec 33) (link : BitVec 8)
  | ret (g : Guard) (a : Src)
  | fork (c : CCond) (disp : BitVec 33) (d : Option (BitVec 8))
  | quit (g : Guard)
  | yield (g : Guard)
  | cont (c : CCond) (disp : BitVec 33)
  -- rendezvous and barriers (R130 to R134)
  | vote (g : Guard) (m : VoteMode) (cnt narrow : Bool) (p : BitVec 4) (d : Dst) (mask : Src)
  | shfl (g : Guard) (m : ShflMode) (t : ITy) (d : Dst) (a b mask : Src)
  | red (g : Guard) (op : RedOp) (t : RedTy) (d : Dst) (a mask : Src)
  | bar (g : Guard) (grp : BitVec 8)
  | arrive (g : Guard) (grp : BitVec 8)
  | await (g : Guard) (grp : BitVec 8)
  | nop (g : Guard)
  -- floating point and conversion (R136)
  | fadd (g : Guard) (rm : Rm) (t : FTy) (d : Dst) (a b : Src)
  | fsub (g : Guard) (rm : Rm) (t : FTy) (d : Dst) (a b : Src)
  | fmul (g : Guard) (rm : Rm) (t : FTy) (d : Dst) (a b : Src)
  | fma (g : Guard) (rm : Rm) (t : FTy) (d : Dst) (a b c : Src)
  | fmin (g : Guard) (t : FTy) (d : Dst) (a b : Src)
  | fmax (g : Guard) (t : FTy) (d : Dst) (a b : Src)
  | fabs (g : Guard) (t : FTy) (d : Dst) (a : Src)
  | fneg (g : Guard) (t : FTy) (d : Dst) (a : Src)
  | fcmp (g : Guard) (c : FCond) (t : FTy) (d : Dst) (a b : Src)
  | fclass (g : Guard) (t : FTy) (d : Dst) (a : Src)
  | frcp (g : Guard) (rm : Rm) (t : FTy) (d : Dst) (a : Src)
  | frsq (g : Guard) (rm : Rm) (t : FTy) (d : Dst) (a : Src)
  | fsqrt (g : Guard) (rm : Rm) (t : FTy) (d : Dst) (a : Src)
  | fexp2 (g : Guard) (rm : Rm) (d : Dst) (a : Src)
  | flog2 (g : Guard) (rm : Rm) (d : Dst) (a : Src)
  | fsin (g : Guard) (rm : Rm) (d : Dst) (a : Src)
  | fcos (g : Guard) (rm : Rm) (d : Dst) (a : Src)
  | fround (g : Guard) (rm : Rm) (t : FTy) (d : Dst) (a : Src)
  | fdiv (g : Guard) (rm : Rm) (t : FTy) (d : Dst) (a b : Src)
  | dp4 (g : Guard) (rm : Rm) (ta tb : NTy) (d : Dst) (a b c : Src)
  | hfma2 (g : Guard) (rm : Rm) (t : FTy) (d : Dst) (a b c : Src)
  | sclq (g : Guard) (near : Bool) (d : Dst) (a b : Src)
  | cvt (g : Guard) (rm : Rm) (sat : Bool) (td ts : NTy) (d : Dst) (a : Src)
  | cvtEf (g : Guard) (sat : Bool) (td : FTy) (d : Dst) (a : Src) (comp : BitVec 8)
  | cbenc (g : Guard) (nib : BitVec 3) (d : Dst) (a : Src) (scale : BitVec 8) (c : Src)
  | cbdec (g : Guard) (nib : BitVec 3) (d : Dst) (a : Src) (scale : BitVec 8)
  -- memory (R179)
  | ldG (g : Guard) (d : Dst) (m : MAddr) (sz : Size) (sx ev : Bool)
  | ldS (g : Guard) (d : Dst) (m : MAddr) (sz : Size) (sx : Bool)
  | ldW (g : Guard) (d : Dst) (m : MAddr) (sz : Size) (sx : Bool)
  | ldP (g : Guard) (d : Dst) (m : MAddr) (sz : Size) (sx ev : Bool)
  | ldGIo (g : Guard) (d : Dst) (m : MAddr) (sz : Size)
  | stG (g : Guard) (a : Src) (m : MAddr) (sz : Size) (ev : Bool)
  | stS (g : Guard) (a : Src) (m : MAddr) (sz : Size)
  | stW (g : Guard) (a : Src) (m : MAddr) (sz : Size)
  | stP (g : Guard) (a : Src) (m : MAddr) (sz : Size) (ev : Bool)
  | ldAcq (g : Guard) (d : Dst) (m : MAddr) (sz : Size) (sc : Scope)
  | stRel (g : Guard) (a : Src) (m : MAddr) (sz : Size) (sc : Scope)
  | atomAdd (g : Guard) (d : BitVec 8) (m : MAddr) (sz : Size) (sc : Scope) (o : AOrd)
  | atomMin (g : Guard) (d : BitVec 8) (m : MAddr) (sz : Size) (sc : Scope) (o : AOrd) (sgn : Bool)
  | atomMax (g : Guard) (d : BitVec 8) (m : MAddr) (sz : Size) (sc : Scope) (o : AOrd) (sgn : Bool)
  | atomAnd (g : Guard) (d : BitVec 8) (m : MAddr) (sz : Size) (sc : Scope) (o : AOrd)
  | atomOr (g : Guard) (d : BitVec 8) (m : MAddr) (sz : Size) (sc : Scope) (o : AOrd)
  | atomXor (g : Guard) (d : BitVec 8) (m : MAddr) (sz : Size) (sc : Scope) (o : AOrd)
  | atomXchg (g : Guard) (d : BitVec 8) (m : MAddr) (sz : Size) (sc : Scope) (o : AOrd)
  | atomCas (g : Guard) (d : BitVec 8) (m : MAddr) (sz : Size) (sc : Scope) (o : AOrd)
  | atomFireAndForget (g : Guard) (op : AtomOp) (sgn : Bool) (d : BitVec 8) (m : MAddr) (sz : Size)
  | ared (g : Guard) (op : AredOp) (a : Src) (m : MAddr) (sz : Size)
  | phase (g : Guard) (sc : Scope)
  | fence (g : Guard)
  | prfD (g : Guard) (lvl : PrfLevel) (m : MAddr)
  | prfI (g : Guard) (m : MAddr)
  | invD (g : Guard) (sc : Scope) (m : MAddr)
  | invI (g : Guard) (sc : Scope) (m : MAddr)
  | invIall (g : Guard) (sc : Scope)
  | invTlb (g : Guard) (sc : Scope) (m : MAddr)
  | wbk (g : Guard) (mem : Bool) (m : MAddr)
  -- records, accumulators, gangs (R246 to R252)
  | orsv (g : Guard) (k : BitVec 4) (q mask : Src) (pl : PlaceOp)
  | orel (g : Guard) (k : BitVec 4) (mask : Src)
  | omap (g : Guard) (k : BitVec 4) (m mask : Src) (pl : PlaceOp)
  | mma (g : Guard) (ra rb : BitVec 4) (spec mask : Src)
  | mmaJoint (g : Guard) (ra rb : BitVec 4) (spec mask : Src)
  | mmaz (g : Guard) (ra rb : BitVec 4) (spec mask : Src)
  | aclr (g : Guard) (spec mask : Src)
  | ard (g : Guard) (lg : BitVec 3) (d : Dst) (spec mask : Src)
  | awr (g : Guard) (lg : BitVec 3) (spec mask a : Src)
  | ascl (g : Guard) (spec mask a : Src)
  | gang (g : Guard) (c : BitVec 3) (key mask : Src)
  | gangLeave (g : Guard) (key mask : Src)
  -- copies, nodes, streams (R276 to R283)
  | cpy (g : Guard) (nw : Bool) (d : Dst) (off mask : Src) (pl : PlaceOp)
  | cpyT (g : Guard) (nw : Bool) (d : Dst) (off mask : Src) (pl : PlaceOp)
  | cwait (g : Guard) (poll : Bool) (d : Dst) (h mask : Src)
  | node (g : Guard) (kind : BitVec 2) (keep : Bool) (d : Dst) (off mask : Src)
  | nlink (g : Guard) (from_ mask to_ : Src)
  | narm (g : Guard) (h mask : Src)
  | sbind (g : Guard) (store : Bool) (q : BitVec 2) (d : Dst) (off mask : Src) (pl : PlaceOp)
  | srun (g : Guard) (h mask : Src)
  | sstop (g : Guard) (h mask : Src)
  | rfill (g : Guard) (ring : Bool) (r : BitVec 4) (d : Dst) (a mask : Src)
  | rdrain (g : Guard) (r : BitVec 4) (d : Dst) (a mask : Src)
  -- queues (R308 to R315)
  | spawn (g : Guard) (f : BitVec 5) (t arg : Src)
  | launch (g : Guard) (p : Src)
  | qbind (g : Guard) (q : BitVec 2) (d : BitVec 8) (spec : Src)
  | qpop (g : Guard) (q : BitVec 2)
  | qpush (g : Guard) (q : BitVec 2)
  | sigPut (g : Guard) (r : BitVec 4) (n : Src)
  | sigTake (g : Guard) (r : BitVec 4) (n : Src)
  | sigFill (g : Guard) (w : Bool) (r : BitVec 4) (d : Dst) (n : Src)
  | sigRoom (g : Guard) (w : Bool) (r : BitVec 4) (d : Dst) (n : Src)
  | gate (g : Guard) (k : BitVec 4)
  | rel (g : Guard) (k : BitVec 4)
  -- tables, coolant, counters (R328 to R334, R355 to R362)
  | tbrd (g : Guard) (n : BitVec 3) (d : Dst) (i : Src)
  | tbwr (g : Guard) (n : BitVec 3) (i w : Src)
  | tbwrSwap (g : Guard) (i j : Src)
  | ccreq (g : Guard) (z f : Src)
  | ccrel (g : Guard) (z : Src)
  | bread (g : Guard) (mb : Bool) (d : Dst)
  | bgive (g : Guard) (mb : Bool) (c a : Src)
  | btopAdd (g : Guard) (mb : Bool) (c a : Src)
  | btopSet (g : Guard) (mb : Bool) (c a : Src)
  | tick (g : Guard) (d : Dst)
  | tkt (g : Guard) (k : BitVec 5) (d : Dst)
  | wdogSet (g : Guard) (a : Src)
  | wdogPet (g : Guard)
  | wdogBeat (g : Guard)
  | pcr (g : Guard) (k : BitVec 4) (d : Dst)
  | crsv (g : Guard) (k : BitVec 4) (a : Src)
  -- traps, system registers, migration (R385 to R390)
  | trap (g : Guard) (code : BitVec 16)
  | brk (g : Guard) (code : BitVec 16)
  | eretRetry (g : Guard) (slot mask : Src)
  | eretNext (g : Guard) (slot mask : Src)
  | eretCont (g : Guard) (slot mask : Src)
  | eretQuit (g : Guard) (slot mask : Src)
  | halt (g : Guard) (code : Src)
  | haltLaunch (g : Guard) (idx : Src)
  | sysrd (g : Guard) (n : BitVec 16) (sel : BitVec 7) (d : Dst)
  | syswr (g : Guard) (n : BitVec 16) (sel : BitVec 7) (a : Src)
  | migMove (g : Guard) (pl : PlaceOp)
  | migSave (g : Guard) (slot addr : Src)
  | migLoad (g : Guard) (addr : Src) (pl : PlaceOp)
  | migLsave (g : Guard) (idx addr : Src)
  | migLload (g : Guard) (org addr : Src)
  -- events of boot, of the queue unit and of launch
  | moduleReset (failed : List (BitVec 16)) (badKeys : List Nat) (trained : Bool)
  | bootGoTimeout
  | bootctlGo (stage : BitVec 24) (src : Bool)
  | bootctlProg
  | bootctlLock
  | attctlGo
  | attestationDone
  | bistctlRun
  | bistDone (failed : List (BitVec 16))
  | qdoorWrite (size : Nat) (w : W64)
  | controlBlockReread (walker : Nat)
  | walkerSlotAssign
  | packetRead (walker : Nat)
  | packetBarRelease (walker : Nat)
  | launchPost (walker : Nat)
  | waitPacketPoll (walker : Nat)
  | pendingFaultServed (queue : Nat)
  | launchCheck (core : Nat) (ticket : Nat)
  | activeLaunchEntry
  | crewPlace (core : Nat)
  | launchComplete (idx : Nat)
  | dependantEviction (core : Nat)
  -- events of the front end
  | binAgeReady (core bin : Nat)
  | gatherTimeout (core bin : Nat)
  | batchIssue (core : Nat)
  | instructionFillDone (core : Nat)
  | clauseEnd
  | regionOpenAtIssue (core : Nat) (idx : Nat)
  | quietRegionOpen (core : Nat) (idx : Nat)
  | resultWriteback (core slot flight : Nat)
  | rendezvousComplete (core slot idx : Nat)
  -- quarantine, the lodge, staging and the homes
  | regionClear (core slot : Nat)
  | sensorReport (sensor : Nat)
  | restartReissue (core slot : Nat)
  | lodgeGrant (core : Nat)
  | lodgeStallBreak (core : Nat)
  | stagingArrival (core die : Nat)
  | stagingSpaceFree (core die : Nat)
  | stagingAck (core : Nat) (entry : Nat)
  | clearMessage (core die : Nat)
  | squashMessage (core die : Nat)
  | passSensorReport (sensor : Nat)
  | translationWalk (cluster : Nat)
  | homeAccessArrival (core die : Nat)
  | loadDataReturn (core slot flight : Nat) (reply : Reply)
  | barrierArrivalMessage (launch group level unit : Nat)
  | barrierRelease (launch group : Nat)
  | barrierDeparture (launch group level unit : Nat)
  | dequeReserve (core : Nat)
  | dequeOwnerTake (core : Nat)
  | droverProbe (core : Nat)
  | registerCompaction (core : Nat)
  | operandBufferCompaction (core : Nat)
  -- the matrix unit and gangs
  | operandFill (core : Nat)
  | matrixQueueEntry (core : Nat)
  | currentGrant (cluster : Nat)
  | matrixEntryExecute (core : Nat)
  | matrixEntryComplete (core : Nat)
  | gangForm (core : Nat)
  | gangTimeout (core : Nat) (slot : Nat)
  | jointLatchRelease (core : Nat)
  | linkedRegionClear (core : Nat) (slot : Nat)
  -- the stream engine and the graph
  | contextAllocate (core : Nat)
  | engineChunk (core : Nat)
  | engineUnitRelease (core : Nat)
  | copyRelease (core ctx : Nat)
  | contextFault (core : Nat) (isStream : Bool) (idx : Nat)
  | contextResume (core : Nat) (isStream : Bool) (idx : Nat) (served : Bool)
  | streamStep (core idx : Nat)
  | ringStreamStep (core idx : Nat)
  | nodeStart (core node : Nat)
  | nodeComplete (core node : Nat)
  -- budgets, heartbeats, traps, heat, moves
  | budgetYieldEnter (core slot : Nat)
  | budgetYieldLeave (core slot : Nat)
  | heartbeatMissed (core : Nat)
  | watchdog (core slot : Nat)
  | trapDelivery (core : Nat)
  | trappopWrite (core : Nat)
  | wakeableRestore (core : Nat) (idx : Nat)
  | thermalSample (core : Nat) (temp : BitVec 8)
  | emergencySave (core : Nat)
  | moveForce (core slot : Nat)
  | moveTransfer (core : Nat)
  | coolantLowFlow (zone : Nat)
  | coolantHighDt (zone : Nat)
  | coolantGas (zone : Nat)
  | evacuationStep (zone : Nat)
  | flowMeasure (zone : Nat) (flow tin tout : BitVec 16)
  -- the host, other modules, power
  | hostCxlMemWrite (pa : Nat) (bytes : List Byte)
  | hostCxlMemRead (pa len : Nat)
  | hostAtsInvalidation (pasid : BitVec 20) (va len : Nat)
  | prqWrite (core : Nat) (w : W64)
  | pageRequestResult (core : Nat) (res : PrqResult)
  | cxlLinkChange (up : Bool) (speed : BitVec 4) (width : BitVec 8)
  | cxlLinkDownTimeout
  | caravanPortTrain (port : Nat) (up : Bool)
  | cvcfgWrite (w : W64)
  | msgtxWrite (w : W64)
  | messageArrival (bytes : List Byte)
  | messageSendDone (res : MsgResult)
  | pwrctlWrite (by_ : Requester) (w : W64)
  | powerStateChange (cluster : Nat) (state : BitVec 3)
  | nearThresholdEntry (cluster : Nat)
  | quiescePoint (cluster : Nat)
  | quiesceTimeout (cluster : Nat)
  | powerStaggerStep
  | manifoldLeak
  -- system registers with a rule of their own
  | fectlWrite (core : Nat) (w : W64)
  | trmodeWrite (core : Nat) (w : W64)
  | l2quotaWrite (core : Nat) (w : W64)
  | qwinWrite (core : Nat) (w : W64)
  | qstormWrite (core : Nat) (w : W64)
  | curcapWrite (core : Nat) (w : W64)
  | coolctlWrite (core : Nat) (w : W64)
  | hbctlWrite (core : Nat) (w : W64)
  | thctlWrite (core : Nat) (w : W64)
  | esctlWrite (core : Nat) (w : W64)
  | dbgctlWrite (core slot : Nat) (w : W64)
  | dbgkillWrite (core slot : Nat) (w : W64)
  | tblstatClear (core : Nat) (w : W64)
  | systemRegisterWrite (core : Nat) (n : BitVec 16) (sel : Nat) (w : W64)
  -- events of the boundary added at the end of the table
  | leakValveClose
  | modcoolHot (hot : Bool)
  | cxlCacheSnoop (line : Nat) (inval : Bool)
  | nodeTableEntry (core : Nat)
deriving DecidableEq, Repr

end Sys2Proof
end

