-- ==== Sys2Proof/WellFormed.lean ====
section
/-! DEFINITION. Which terms of `Instr` stand for a word of the instruction set: the field
values that an entry admits beyond what the operand types already fix. The events of the
machine are well formed by their own guards and hold no word. -/
namespace Sys2Proof

/-- A guard with GEN = 0 holds zero in its other fields (R61). -/
def Guard.wf (g : Guard) : Bool := g.en || (!g.neg && g.idx == 0)

/-- A condition with COND = 0 holds zero in its other fields (R63). -/
def CCond.wf (c : CCond) : Bool := c.cond || (!c.neg && c.idx == 0)

/-- A suppressed destination names v0 to v254: the field 0x1FF is no destination (R64). -/
def Dst.wf : Dst → Bool
  | .sup r => r != 255
  | _ => true

/-- The float types of arithmetic: codes 8 to 10 (R136). -/
def FTy.arith : FTy → Bool
  | .f32 | .f16 | .bf16 => true
  | _ => false

/-- The packed float types: codes 9 and 10 (R136). -/
def FTy.packed : FTy → Bool
  | .f16 | .bf16 => true
  | _ => false

/-- The sizes of 1 or 2 bytes, which alone take a sign extension (R180). -/
def Size.small : Size → Bool
  | .b1 | .b2 => true
  | _ => false

/-- The sizes of 4 or 8 bytes (R179). -/
def Size.word : Size → Bool
  | .b4 | .b8 => true
  | _ => false

/-- The operand types of `red` (R133). -/
def redTyOk (op : RedOp) (t : NTy) : Bool :=
  match t, op with
  | .int _, _ => true
  | .flt f, .add | .flt f, .min | .flt f, .max => f.arith
  | _, _ => false

/-- The types and the mode of `dp4` (R146). -/
def dp4Ok (rm : Rm) (ta tb : NTy) : Bool :=
  match ta, tb with
  | .int a, .int b => (a == .s8 || a == .n8) && (b == .s8 || b == .n8) && rm == .rn
  | .flt a, .flt b => (a == .f8e4 || a == .f8e5) && (b == .f8e4 || b == .f8e5)
  | _, _ => false

/-- The companion of `cvt.ef` (R83, R147): it differs from the register that DST names by
bits [7:0] and from the register of SA. -/
def efCompOk (d : Dst) (a : Src) (c : BitVec 8) : Bool :=
  (match d with | .reg r | .sup r => r != c | .none => c != 255) &&
  (match a with | .reg r => r != c | _ => true)

/-- The sizes of an atomic (R179). -/
def atomSizeOk (op : AtomOp) (sz : Size) : Bool := sz.word || (op == .cas && sz == .b16)

/-- The scopes of an atomic (R180). -/
def atomScopeOk (o : AOrd) (sc : Scope) : Bool :=
  if o = .relaxed then sc == .crew else sc != .crew

/-- The sizes of `ared` (R198). -/
def aredOk (op : AredOp) (sz : Size) : Bool := sz.word && (op != .fadd || sz == .b4)

/-- log2 of the columns of `ard` and `awr` (R250). -/
def lgOk (lg : BitVec 3) : Bool := lg.toNat ≤ 4

/-- The crew count of `gang` (R251). -/
def gangOk (c : BitVec 3) : Bool := 2 ≤ c.toNat && c.toNat ≤ 6

/-- The fraction code of `spawn` (R308), and the counters of `tkt` (R355). -/
def spawnOk (f : BitVec 5) : Bool := f.toNat ≤ 16

/-- The table numbers (R316). -/
def tableOk (n : BitVec 3) : Bool := n.toNat ≤ 5

/-- What holds a system register (R389). -/
inductive Holder where
  | fibre | crew | launch | tenant | core | cluster | module
deriving DecidableEq, Repr

/-- A row of the table of system registers (R389): holder, whether it is 64 bits wide,
readable by `sysrd` only with Keeper privilege, writable by `syswr` (always a Keeper), and
whether the Keeper must be that of die 0 to read it, to write it. -/
structure SysReg where
  holder : Holder
  wide : Bool
  keeper : Bool
  write : Bool
  lead : Bool
deriving DecidableEq, Repr

/-- The system registers (R108, R389). -/
def sysReg (n : BitVec 16) : Option SysReg :=
  let k := n.toNat
  if k = 0x0000 then some ⟨.fibre, false, false, false, false⟩
  else if k = 0x0001 ∨ k = 0x0002 ∨ k = 0x0005 then some ⟨.crew, false, false, false, false⟩
  else if k = 0x0003 ∨ k = 0x0004 ∨ k = 0x0006 ∨ k = 0x0007 then
    some ⟨.crew, true, false, false, false⟩
  else if k = 0x0008 then some ⟨.core, true, false, false, false⟩
  else if k = 0x0009 then some ⟨.crew, true, true, false, false⟩
  else if k = 0x0040 ∨ k = 0x0041 ∨ k = 0x0048 ∨ k = 0x0049 ∨ k = 0x0058 ∨ k = 0x005E then
    some ⟨.core, true, false, true, false⟩
  else if k = 0x0042 then some ⟨.core, true, false, false, false⟩
  else if k = 0x0043 then some ⟨.tenant, true, true, true, false⟩
  else if k = 0x0044 ∨ k = 0x004D then some ⟨.cluster, true, false, true, false⟩
  else if k = 0x004A ∨ k = 0x0051 ∨ k = 0x0053 ∨ k = 0x0059 then
    some ⟨.crew, true, false, false, false⟩
  else if k = 0x004B ∨ k = 0x004C then some ⟨.crew, true, true, false, false⟩
  else if k = 0x0050 ∨ k = 0x0052 then some ⟨.launch, true, false, false, false⟩
  else if k = 0x0054 ∨ k = 0x005F then some ⟨.module, true, false, true, false⟩
  else if k = 0x0055 ∨ k = 0x005D then some ⟨.fibre, true, true, false, false⟩
  else if k = 0x0056 then some ⟨.module, true, true, true, true⟩
  else if k = 0x0057 then some ⟨.core, true, true, true, false⟩
  else if k = 0x005A then some ⟨.core, true, true, true, false⟩
  else if k = 0x005B then some ⟨.crew, true, true, true, false⟩
  else if k = 0x005C then some ⟨.crew, true, true, true, false⟩
  else if 0x0060 ≤ k ∧ k ≤ 0x007F then some ⟨.crew, true, true, false, false⟩
  else if 0x0080 ≤ k ∧ k ≤ 0x0083 then some ⟨.crew, true, false, false, false⟩
  else if 0x0090 ≤ k ∧ k ≤ 0x0092 then some ⟨.core, true, true, false, false⟩
  else if k = 0x0093 then some ⟨.core, true, true, true, false⟩
  else if k = 0x0094 then some ⟨.module, true, true, false, true⟩
  else none

/-- Whether the selector may name another holder (R388). -/
def Holder.selectable : Holder → Bool
  | .core | .cluster | .module => false
  | _ => true

/-- Whether a `sysrd` word is legal (R388). -/
def sysReadOk (n : BitVec 16) (sel : BitVec 7) : Bool :=
  match sysReg n with
  | some r => sel == 0x7F || r.holder.selectable
  | none => false

/-- Whether a `syswr` word is legal (R388). -/
def sysWriteOk (n : BitVec 16) (sel : BitVec 7) : Bool :=
  match sysReg n with
  | some r => r.write && (sel == 0x7F || r.holder.selectable)
  | none => false

/-- The guard of an instruction form, if it has one. -/
def Instr.guard? : Instr → Option Guard
  | .iadd g .. | .isub g .. | .imul g .. | .imulh g .. | .imad g .. | .idiv g .. | .irem g ..
  | .ineg g .. | .iabs g .. | .imin g .. | .imax g .. | .icmp g .. | .and g .. | .or g ..
  | .xor g .. | .andn g .. | .not g .. | .shl g .. | .shr g .. | .sar g .. | .rot g ..
  | .bfx g .. | .bfi g .. | .popc g .. | .clz g .. | .ctz g .. | .brev g .. | .mov g ..
  | .sel g .. | .lea g .. | .aadd g .. | .asub g .. | .acmp g .. | .iaddImm32 g ..
  | .isubImm32 g .. | .imulImm32 g .. | .andImm32 g .. | .orImm32 g .. | .xorImm32 g ..
  | .shlImm32 g .. | .shrImm32 g .. | .sarImm32 g .. | .aaddImm32 g .. | .asubImm32 g ..
  | .movi g .. | .iaddImm64 g .. | .isubImm64 g .. | .imulImm64 g .. | .andImm64 g ..
  | .orImm64 g .. | .xorImm64 g .. | .shlImm64 g .. | .shrImm64 g .. | .sarImm64 g ..
  | .aaddImm64 g .. | .asubImm64 g .. | .moviPair g .. | .movw g .. | .pset g .. | .pand g ..
  | .por g .. | .pxor g .. | .pnot g .. | .brx g .. | .ret g .. | .quit g | .yield g
  | .vote g .. | .shfl g .. | .red g .. | .bar g .. | .arrive g .. | .await g .. | .nop g
  | .fadd g .. | .fsub g .. | .fmul g .. | .fma g .. | .fmin g .. | .fmax g .. | .fabs g ..
  | .fneg g .. | .fcmp g .. | .fclass g .. | .frcp g .. | .frsq g .. | .fsqrt g ..
  | .fexp2 g .. | .flog2 g .. | .fsin g .. | .fcos g .. | .fround g .. | .fdiv g ..
  | .dp4 g .. | .hfma2 g .. | .sclq g .. | .cvt g .. | .cvtEf g .. | .cbenc g .. | .cbdec g ..
  | .ldG g .. | .ldS g .. | .ldW g .. | .ldP g .. | .ldGIo g .. | .stG g .. | .stS g ..
  | .stW g .. | .stP g .. | .ldAcq g .. | .stRel g .. | .atomAdd g .. | .atomMin g ..
  | .atomMax g .. | .atomAnd g .. | .atomOr g .. | .atomXor g .. | .atomXchg g ..
  | .atomCas g .. | .atomFireAndForget g .. | .ared g .. | .phase g .. | .fence g
  | .prfD g .. | .prfI g .. | .invD g .. | .invI g .. | .invIall g .. | .invTlb g ..
  | .wbk g .. | .orsv g .. | .orel g .. | .omap g .. | .mma g .. | .mmaJoint g .. | .mmaz g ..
  | .aclr g .. | .ard g .. | .awr g .. | .ascl g .. | .gang g .. | .gangLeave g .. | .cpy g ..
  | .cpyT g .. | .cwait g .. | .node g .. | .nlink g .. | .narm g .. | .sbind g .. | .srun g ..
  | .sstop g .. | .rfill g .. | .rdrain g .. | .spawn g .. | .launch g .. | .qbind g ..
  | .qpop g .. | .qpush g .. | .sigPut g .. | .sigTake g .. | .sigFill g .. | .sigRoom g ..
  | .gate g .. | .rel g .. | .tbrd g .. | .tbwr g .. | .tbwrSwap g .. | .ccreq g ..
  | .ccrel g .. | .bread g .. | .bgive g .. | .btopAdd g .. | .btopSet g .. | .tick g ..
  | .tkt g .. | .wdogSet g .. | .wdogPet g | .wdogBeat g | .pcr g .. | .crsv g .. | .trap g ..
  | .brk g .. | .eretRetry g .. | .eretNext g .. | .eretCont g .. | .eretQuit g .. | .halt g ..
  | .haltLaunch g .. | .sysrd g .. | .syswr g .. | .migMove g .. | .migSave g ..
  | .migLoad g .. | .migLsave g .. | .migLload g .. => some g
  | _ => none

/-- The destination field of an instruction form, if it has one. -/
def Instr.dst? : Instr → Option Dst
  | .iadd _ _ _ d _ _ | .isub _ _ _ d _ _ | .imul _ _ d _ _ | .imulh _ _ d _ _
  | .imad _ _ d _ _ _ | .idiv _ _ d _ _ | .irem _ _ d _ _ | .ineg _ _ _ d _ | .iabs _ _ _ d _
  | .imin _ _ d _ _ | .imax _ _ d _ _ | .icmp _ _ _ d _ _ | .and _ _ d _ _ | .or _ _ d _ _
  | .xor _ _ d _ _ | .andn _ _ d _ _ | .not _ _ d _ | .shl _ _ d _ _ | .shr _ _ d _ _
  | .sar _ _ d _ _ | .rot _ _ d _ _ | .bfx _ _ d _ _ | .bfi _ _ d _ _ _ | .popc _ _ d _
  | .clz _ _ d _ | .ctz _ _ d _ | .brev _ _ d _ | .mov _ _ d _ | .sel _ _ _ d _ _
  | .lea _ _ _ d _ _ | .aadd _ _ d _ _ | .asub _ _ d _ _ | .acmp _ _ d _ _
  | .iaddImm32 _ d _ _ | .isubImm32 _ d _ _ | .imulImm32 _ d _ _ | .andImm32 _ d _ _
  | .orImm32 _ d _ _ | .xorImm32 _ d _ _ | .shlImm32 _ d _ _ | .shrImm32 _ d _ _
  | .sarImm32 _ d _ _ | .aaddImm32 _ d _ _ | .asubImm32 _ d _ _ | .movi _ d _
  | .iaddImm64 _ d _ _ | .isubImm64 _ d _ _ | .imulImm64 _ d _ _ | .andImm64 _ d _ _
  | .orImm64 _ d _ _ | .xorImm64 _ d _ _ | .shlImm64 _ d _ _ | .shrImm64 _ d _ _
  | .sarImm64 _ d _ _ | .aaddImm64 _ d _ _ | .asubImm64 _ d _ _ | .moviPair _ d _
  | .movw _ d _ | .vote _ _ _ _ _ d _ | .shfl _ _ _ d _ _ _ | .red _ _ _ d _ _
  | .fadd _ _ _ d _ _ | .fsub _ _ _ d _ _ | .fmul _ _ _ d _ _ | .fma _ _ _ d _ _ _
  | .fmin _ _ d _ _ | .fmax _ _ d _ _ | .fabs _ _ d _ | .fneg _ _ d _ | .fcmp _ _ _ d _ _
  | .fclass _ _ d _ | .frcp _ _ _ d _ | .frsq _ _ _ d _ | .fsqrt _ _ _ d _ | .fexp2 _ _ d _
  | .flog2 _ _ d _ | .fsin _ _ d _ | .fcos _ _ d _ | .fround _ _ _ d _ | .fdiv _ _ _ d _ _
  | .dp4 _ _ _ _ d _ _ _ | .hfma2 _ _ _ d _ _ _ | .sclq _ _ d _ _ | .cvt _ _ _ _ _ d _
  | .cvtEf _ _ _ d _ _ | .cbenc _ _ d _ _ _ | .cbdec _ _ d _ _ | .ldG _ d _ _ _ _
  | .ldS _ d _ _ _ | .ldW _ d _ _ _ | .ldP _ d _ _ _ _ | .ldGIo _ d _ _ | .ldAcq _ d _ _ _
  | .ard _ _ d _ _ | .cpy _ _ d _ _ _ | .cpyT _ _ d _ _ _ | .cwait _ _ d _ _
  | .node _ _ _ d _ _ | .sbind _ _ _ d _ _ _ | .rfill _ _ _ d _ _ | .rdrain _ _ d _ _
  | .sigFill _ _ _ d _ | .sigRoom _ _ _ d _ | .tbrd _ _ d _ | .bread _ _ d | .tick _ d
  | .tkt _ _ d | .pcr _ _ d | .sysrd _ _ _ d => some d
  | _ => none

/-- The condition of a format C instruction. -/
def Instr.ccond? : Instr → Option CCond
  | .br c _ | .call c _ _ | .fork c _ _ | .cont c _ => some c
  | _ => none

/-- The checks that belong to one constructor. -/
def Instr.fieldsOk : Instr → Bool
  | .red _ op t _ _ _ => redTyOk op t
  | .shfl _ _ t _ _ _ _ => t == .s32 || t == .n32 || t == .s64 || t == .n64
  | .fadd _ _ t _ _ _ | .fsub _ _ t _ _ _ | .fmul _ _ t _ _ _ | .fma _ _ t _ _ _ _
  | .fmin _ t _ _ _ | .fmax _ t _ _ _ | .fcmp _ _ t _ _ _ | .frcp _ _ t _ _
  | .frsq _ _ t _ _ | .fsqrt _ _ t _ _ | .fround _ _ t _ _ | .fdiv _ _ t _ _ _ => t.arith
  | .hfma2 _ _ t _ _ _ _ => t.packed
  | .dp4 _ rm ta tb _ _ _ _ => dp4Ok rm ta tb
  | .cvtEf _ _ td d a c => td != .f32 && efCompOk d a c
  | .ldG _ _ _ sz sx _ | .ldS _ _ _ sz sx | .ldW _ _ _ sz sx | .ldP _ _ _ sz sx _ =>
    !sx || sz.small
  | .ldGIo _ _ _ sz => sz.word
  | .ldAcq _ _ _ sz sc | .stRel _ _ _ sz sc => sz.word && sc != .crew
  | .atomAdd _ _ _ sz sc o => atomSizeOk .add sz && atomScopeOk o sc
  | .atomMin _ _ _ sz sc o _ => atomSizeOk .min sz && atomScopeOk o sc
  | .atomMax _ _ _ sz sc o _ => atomSizeOk .max sz && atomScopeOk o sc
  | .atomAnd _ _ _ sz sc o => atomSizeOk .and sz && atomScopeOk o sc
  | .atomOr _ _ _ sz sc o => atomSizeOk .or sz && atomScopeOk o sc
  | .atomXor _ _ _ sz sc o => atomSizeOk .xor sz && atomScopeOk o sc
  | .atomXchg _ _ _ sz sc o => atomSizeOk .xchg sz && atomScopeOk o sc
  | .atomCas _ _ _ sz sc o => atomSizeOk .cas sz && atomScopeOk o sc
  | .atomFireAndForget _ op s _ _ sz =>
    atomSizeOk op sz && (!s || op == .min || op == .max)
  | .ared _ op _ _ sz => aredOk op sz
  | .invD _ sc _ | .invI _ sc _ | .invIall _ sc => sc != .crew
  | .invTlb _ sc _ => sc != .crew && sc != .domain
  | .ard _ lg _ _ _ | .awr _ lg _ _ _ => lgOk lg
  | .gang _ c _ _ => gangOk c
  | .cpy _ nw d _ _ _ | .cpyT _ nw d _ _ _ => nw || d != .none
  | .spawn _ f _ _ => spawnOk f
  | .sigFill _ w _ _ n | .sigRoom _ w _ _ n => w || n == .zero
  | .tbrd _ n _ _ | .tbwr _ n _ _ => tableOk n
  | .tkt _ k _ => spawnOk k
  | .crsv _ k _ => k.toNat ≤ 7
  | .sysrd _ n s _ => sysReadOk n s
  | .syswr _ n s _ => sysWriteOk n s
  | _ => true

/-- A term that stands for a word of the instruction set, or an event. -/
def Instr.wf (i : Instr) : Bool :=
  (match i.guard? with | some g => g.wf | none => true) &&
  (match i.dst? with | some d => d.wf | none => true) &&
  (match i.ccond? with | some c => c.wf | none => true) && i.fieldsOk

end Sys2Proof
end

