-- ==== Sys2Proof/Decode.lean ====
section
/-! DEFINITION. Decoding one instruction word (R61 to R65, R70 and each entry's field
table), total on any 64 bits and refusing ILLEGAL_INSTRUCTION words, and the encoder written
from the same tables. The checks of R68 that need the crew or the other words of the clause
stand in Machine/Operands.lean and Machine/Clause.lean. -/
namespace Sys2Proof

/-! ### The fields of a word -/

/-- The common fields of an instruction word (R61). -/
structure RawWord where
  opc : BitVec 9
  gen : Bool
  gneg : Bool
  gidx : BitVec 4
  body : BitVec 49
deriving DecidableEq, Repr

/-- Format A (R63). -/
structure FmtA where
  dst : BitVec 9
  sa : BitVec 9
  sb : BitVec 9
  sc : BitVec 9
  md : BitVec 5
  ext : BitVec 8
deriving DecidableEq, Repr

/-- Format I (R63). -/
structure FmtI where
  dst : BitVec 9
  sa : BitVec 9
  imm : BitVec 31
deriving DecidableEq, Repr

/-- Format J (R63). -/
structure FmtJ where
  dst : BitVec 9
  md : BitVec 8
  imm : BitVec 32
deriving DecidableEq, Repr

/-- Format M (R63). -/
structure FmtM where
  data : BitVec 9
  base : BitVec 9
  index : BitVec 9
  off : BitVec 13
  size : BitVec 3
  scope : BitVec 3
  ord : BitVec 3
deriving DecidableEq, Repr

/-- Format P (R63). -/
structure FmtP where
  dst : BitVec 9
  sa : BitVec 9
  dx : BitVec 6
  dy : BitVec 6
  dd : BitVec 3
  sb : BitVec 9
  md : BitVec 7
deriving DecidableEq, Repr

/-- Format C (R63). -/
structure FmtC where
  disp : BitVec 33
  cidx : BitVec 4
  cneg : Bool
  cond : Bool
  cmod : BitVec 10
deriving DecidableEq, Repr

def RawWord.ofWord (w : W64) : RawWord :=
  ⟨w.extractLsb' 55 9, w.getLsbD 54, w.getLsbD 53, w.extractLsb' 49 4, w.extractLsb' 0 49⟩

def RawWord.toWord (r : RawWord) : W64 :=
  r.opc ++ (BitVec.ofBool r.gen ++ (BitVec.ofBool r.gneg ++ (r.gidx ++ r.body)))

def FmtA.ofBody (b : BitVec 49) : FmtA :=
  ⟨b.extractLsb' 40 9, b.extractLsb' 31 9, b.extractLsb' 22 9, b.extractLsb' 13 9,
    b.extractLsb' 8 5, b.extractLsb' 0 8⟩

def FmtA.toBody (f : FmtA) : BitVec 49 :=
  f.dst ++ (f.sa ++ (f.sb ++ (f.sc ++ (f.md ++ f.ext))))

def FmtI.ofBody (b : BitVec 49) : FmtI :=
  ⟨b.extractLsb' 40 9, b.extractLsb' 31 9, b.extractLsb' 0 31⟩

def FmtI.toBody (f : FmtI) : BitVec 49 := f.dst ++ (f.sa ++ f.imm)

def FmtJ.ofBody (b : BitVec 49) : FmtJ :=
  ⟨b.extractLsb' 40 9, b.extractLsb' 32 8, b.extractLsb' 0 32⟩

def FmtJ.toBody (f : FmtJ) : BitVec 49 := f.dst ++ (f.md ++ f.imm)

def FmtM.ofBody (b : BitVec 49) : FmtM :=
  ⟨b.extractLsb' 40 9, b.extractLsb' 31 9, b.extractLsb' 22 9, b.extractLsb' 9 13,
    b.extractLsb' 6 3, b.extractLsb' 3 3, b.extractLsb' 0 3⟩

def FmtM.toBody (f : FmtM) : BitVec 49 :=
  f.data ++ (f.base ++ (f.index ++ (f.off ++ (f.size ++ (f.scope ++ f.ord)))))

def FmtP.ofBody (b : BitVec 49) : FmtP :=
  ⟨b.extractLsb' 40 9, b.extractLsb' 31 9, b.extractLsb' 25 6, b.extractLsb' 19 6,
    b.extractLsb' 16 3, b.extractLsb' 7 9, b.extractLsb' 0 7⟩

def FmtP.toBody (f : FmtP) : BitVec 49 :=
  f.dst ++ (f.sa ++ (f.dx ++ (f.dy ++ (f.dd ++ (f.sb ++ f.md)))))

def FmtC.ofBody (b : BitVec 49) : FmtC :=
  ⟨b.extractLsb' 16 33, b.extractLsb' 12 4, b.getLsbD 11, b.getLsbD 10, b.extractLsb' 0 10⟩

def FmtC.toBody (f : FmtC) : BitVec 49 :=
  f.disp ++ (f.cidx ++ (BitVec.ofBool f.cneg ++ (BitVec.ofBool f.cond ++ f.cmod)))

/-! ### Codes of the operand types -/

/-- A source field (R64): 0x104 to 0x1FE are illegal. -/
def Src.dec (f : BitVec 9) : Option Src :=
  if f = 0x1FF then some .zero
  else if f.getLsbD 8 = false then some (.reg (f.extractLsb' 0 8))
  else if f.extractLsb' 2 7 = 0x40 then some (.latch (f.extractLsb' 0 2))
  else none

def Src.enc : Src → BitVec 9
  | .reg r => 0#1 ++ r
  | .latch j => 0x40#7 ++ j
  | .zero => 0x1FF

/-- A destination field (R64). -/
def Dst.dec (f : BitVec 9) : Dst :=
  if f = 0x1FF then .none
  else if f.getLsbD 8 = false then .reg (f.extractLsb' 0 8) else .sup (f.extractLsb' 0 8)

def Dst.enc : Dst → BitVec 9
  | .reg r => 0#1 ++ r
  | .sup r => 1#1 ++ r
  | .none => 0x1FF

/-- A field that must name a register. -/
def regField (f : BitVec 9) : Option (BitVec 8) :=
  if f.getLsbD 8 = false then some (f.extractLsb' 0 8) else none

/-- The type codes (R65). -/
def ITy.code : ITy → BitVec 5
  | .s32 => 0 | .n32 => 1 | .s64 => 2 | .n64 => 3 | .s16 => 4 | .n16 => 5 | .s8 => 6 | .n8 => 7

def ITy.ofCode (c : BitVec 5) : Option ITy :=
  if c = 0 then some .s32 else if c = 1 then some .n32 else if c = 2 then some .s64
  else if c = 3 then some .n64 else if c = 4 then some .s16 else if c = 5 then some .n16
  else if c = 6 then some .s8 else if c = 7 then some .n8 else none

def FTy.code : FTy → BitVec 5
  | .f32 => 8 | .f16 => 9 | .bf16 => 10 | .f8e4 => 11 | .f8e5 => 12

def FTy.ofCode (c : BitVec 5) : Option FTy :=
  if c = 8 then some .f32 else if c = 9 then some .f16 else if c = 10 then some .bf16
  else if c = 11 then some .f8e4 else if c = 12 then some .f8e5 else none

def NTy.code : NTy → BitVec 5
  | .int t => t.code
  | .flt t => t.code

def NTy.ofCode (c : BitVec 5) : Option NTy :=
  match ITy.ofCode c with
  | some t => some (.int t)
  | none => match FTy.ofCode c with
    | some t => some (.flt t)
    | none => none

def Rm.code : Rm → BitVec 3
  | .rn => 0 | .rz => 1 | .ru => 2 | .rd => 3

def Rm.ofCode (c : BitVec 3) : Option Rm :=
  if c = 0 then some .rn else if c = 1 then some .rz else if c = 2 then some .ru
  else if c = 3 then some .rd else none

def Cond.code : Cond → BitVec 3
  | .eq => 0 | .ne => 1 | .lt => 2 | .le => 3 | .gt => 4 | .ge => 5

def Cond.ofCode (c : BitVec 3) : Option Cond :=
  if c = 0 then some .eq else if c = 1 then some .ne else if c = 2 then some .lt
  else if c = 3 then some .le else if c = 4 then some .gt else if c = 5 then some .ge else none

def FCond.code : FCond → BitVec 3
  | .eq => 0 | .ne => 1 | .lt => 2 | .le => 3 | .gt => 4 | .ge => 5 | .un => 6

def FCond.ofCode (c : BitVec 3) : Option FCond :=
  if c = 0 then some .eq else if c = 1 then some .ne else if c = 2 then some .lt
  else if c = 3 then some .le else if c = 4 then some .gt else if c = 5 then some .ge
  else if c = 6 then some .un else none

def Size.code : Size → BitVec 3
  | .b1 => 0 | .b2 => 1 | .b4 => 2 | .b8 => 3 | .b16 => 4

def Size.ofCode (c : BitVec 3) : Option Size :=
  if c = 0 then some .b1 else if c = 1 then some .b2 else if c = 2 then some .b4
  else if c = 3 then some .b8 else if c = 4 then some .b16 else none

def Scope.code : Scope → BitVec 3
  | .crew => 0 | .core => 1 | .cluster => 2 | .die => 3 | .package => 4 | .domain => 5

def Scope.ofCode (c : BitVec 3) : Option Scope :=
  if c = 0 then some .crew else if c = 1 then some .core else if c = 2 then some .cluster
  else if c = 3 then some .die else if c = 4 then some .package
  else if c = 5 then some .domain else none

def AOrd.code : AOrd → BitVec 2
  | .relaxed => 0 | .acq => 1 | .rel => 2 | .acqrel => 3

def AOrd.ofCode (c : BitVec 2) : AOrd :=
  if c = 0 then .relaxed else if c = 1 then .acq else if c = 2 then .rel else .acqrel

def AredOp.code : AredOp → BitVec 3
  | .add => 0 | .fadd => 1 | .smin => 2 | .smax => 3 | .umin => 4 | .umax => 5 | .or => 6
  | .and => 7

def AredOp.ofCode (c : BitVec 3) : AredOp :=
  if c = 0 then .add else if c = 1 then .fadd else if c = 2 then .smin
  else if c = 3 then .smax else if c = 4 then .umin else if c = 5 then .umax
  else if c = 6 then .or else .and

def RedOp.code : RedOp → BitVec 3
  | .add => 0 | .min => 1 | .max => 2 | .and => 3 | .or => 4 | .xor => 5

def RedOp.ofCode (c : BitVec 3) : Option RedOp :=
  if c = 0 then some .add else if c = 1 then some .min else if c = 2 then some .max
  else if c = 3 then some .and else if c = 4 then some .or else if c = 5 then some .xor
  else none

def VoteMode.code : VoteMode → BitVec 2
  | .every => 0 | .none => 1 | .split => 2 | .mask => 3

def VoteMode.ofCode (c : BitVec 2) : VoteMode :=
  if c = 0 then .every else if c = 1 then .none else if c = 2 then .split else .mask

def ShflMode.code : ShflMode → BitVec 2
  | .from => 0 | .rot => 1 | .flip => 2 | .edge => 3

def ShflMode.ofCode (c : BitVec 2) : ShflMode :=
  if c = 0 then .from else if c = 1 then .rot else if c = 2 then .flip else .edge

def AtomOp.code : AtomOp → BitVec 9
  | .add => 0x110 | .min => 0x111 | .max => 0x112 | .and => 0x113 | .or => 0x114
  | .xor => 0x115 | .xchg => 0x116 | .cas => 0x117

/-- The bits of a Bool as a field. -/
abbrev b1 (b : Bool) : BitVec 1 := BitVec.ofBool b

/-- A field value that an entry fixes: any other gives ILLEGAL_INSTRUCTION (R63). -/
def must (b : Bool) : Option Unit := if b then some () else none

/-! ### The decoder, by format and group -/

/-- The integer and logic instructions of format A, 0x000 to 0x020 (R117 to R122). DEDUCED (log entry
76): the zero word of R72's last sentence has SC = 0, where R63 asks 0x1FF of the unused field, and
gives ILLEGAL_INSTRUCTION. -/
def decInt (g : Guard) (opc : Nat) (f : FmtA) : Option Instr :=
  let d := Dst.dec f.dst
  let no := fun (x : BitVec 9) => must (x == 0x1FF)
  let e0 := must (f.ext == 0)
  let sat := f.ext.getLsbD 0
  let eSat := must (f.ext.extractLsb' 1 7 == 0)
  let t3 := fun (k : ITy → Dst → Src → Src → Src → Instr) => do
    e0; some (k (← ITy.ofCode f.md) d (← Src.dec f.sa) (← Src.dec f.sb) (← Src.dec f.sc))
  let t2 := fun (k : ITy → Dst → Src → Src → Instr) => do
    e0; no f.sc; some (k (← ITy.ofCode f.md) d (← Src.dec f.sa) (← Src.dec f.sb))
  let t1 := fun (k : ITy → Dst → Src → Instr) => do
    e0; no f.sb; no f.sc; some (k (← ITy.ofCode f.md) d (← Src.dec f.sa))
  let wide := if f.md = 0 then some false else if f.md = 2 then some true else none
  match opc with
  | 0x000 => do eSat; no f.sc
                some (.iadd g (← ITy.ofCode f.md) sat d (← Src.dec f.sa) (← Src.dec f.sb))
  | 0x001 => do eSat; no f.sc
                some (.isub g (← ITy.ofCode f.md) sat d (← Src.dec f.sa) (← Src.dec f.sb))
  | 0x002 => t2 (.imul g)
  | 0x003 => t2 (.imulh g)
  | 0x004 => t3 (.imad g)
  | 0x005 => t2 (.idiv g)
  | 0x006 => t2 (.irem g)
  | 0x007 => do eSat; no f.sb; no f.sc
                some (.ineg g (← ITy.ofCode f.md) sat d (← Src.dec f.sa))
  | 0x008 => do eSat; no f.sb; no f.sc
                some (.iabs g (← ITy.ofCode f.md) sat d (← Src.dec f.sa))
  | 0x009 => t2 (.imin g)
  | 0x00A => t2 (.imax g)
  | 0x00B => do must (f.ext.extractLsb' 3 5 == 0); no f.sc
                some (.icmp g (← Cond.ofCode (f.ext.extractLsb' 0 3)) (← ITy.ofCode f.md) d
                  (← Src.dec f.sa) (← Src.dec f.sb))
  | 0x00C => t2 (.and g)
  | 0x00D => t2 (.or g)
  | 0x00E => t2 (.xor g)
  | 0x00F => t2 (.andn g)
  | 0x010 => t1 (.not g)
  | 0x011 => t2 (.shl g)
  | 0x012 => t2 (.shr g)
  | 0x013 => t2 (.sar g)
  | 0x014 => t2 (.rot g)
  | 0x015 => do e0; no f.sb
                some (.bfx g (← ITy.ofCode f.md) d (← Src.dec f.sa) (← Src.dec f.sc))
  | 0x016 => t3 (.bfi g)
  | 0x017 => t1 (.popc g)
  | 0x018 => t1 (.clz g)
  | 0x019 => t1 (.ctz g)
  | 0x01A => t1 (.brev g)
  | 0x01B => t1 (.mov g)
  | 0x01C => do must (f.ext.extractLsb' 4 4 == 0); no f.sc
                some (.sel g (← ITy.ofCode f.md) (f.ext.extractLsb' 0 4) d (← Src.dec f.sa)
                  (← Src.dec f.sb))
  | 0x01D => do must (f.ext.extractLsb' 4 4 == 0); no f.sc
                some (.lea g (← wide) (f.ext.extractLsb' 0 4) d (← Src.dec f.sa)
                  (← Src.dec f.sb))
  | 0x01E => do e0; no f.sc; some (.aadd g (← wide) d (← Src.dec f.sa) (← Src.dec f.sb))
  | 0x01F => do e0; no f.sc; some (.asub g (← wide) d (← Src.dec f.sa) (← Src.dec f.sb))
  | 0x020 => do must (f.ext.extractLsb' 3 5 == 0); must (f.md == 3); no f.sc
                some (.acmp g (← Cond.ofCode (f.ext.extractLsb' 0 3)) d (← Src.dec f.sa)
                  (← Src.dec f.sb))
  | _ => none

/-- The immediate forms of format I, 0x040 to 0x05F, and the barriers (R120, R123, R134,
R314, R315, R385, R388). -/
def decImm (g : Guard) (opc : Nat) (f : FmtI) : Option Instr :=
  let d := Dst.dec f.dst
  let no := fun (x : BitVec 9) => must (x == 0x1FF)
  let k := fun (c : Dst → Src → BitVec 31 → Instr) => do some (c d (← Src.dec f.sa) f.imm)
  let s5 := fun (c : Dst → Src → BitVec 5 → Instr) => do
    must (f.imm.extractLsb' 5 26 == 0); some (c d (← Src.dec f.sa) (f.imm.extractLsb' 0 5))
  let s6 := fun (c : Dst → Src → BitVec 6 → Instr) => do
    must (f.imm.extractLsb' 6 25 == 0); some (c d (← Src.dec f.sa) (f.imm.extractLsb' 0 6))
  let grp := fun (c : BitVec 8 → Instr) => do
    no f.dst; no f.sa; must (f.imm.extractLsb' 8 23 == 0); some (c (f.imm.extractLsb' 0 8))
  let gate := fun (c : BitVec 4 → Instr) => do
    no f.dst; no f.sa; must (f.imm.extractLsb' 4 27 == 0); some (c (f.imm.extractLsb' 0 4))
  let code := fun (c : BitVec 16 → Instr) => do
    no f.dst; no f.sa; must (f.imm.extractLsb' 16 15 == 0); some (c (f.imm.extractLsb' 0 16))
  match opc with
  | 0x040 => k (.iaddImm32 g)
  | 0x041 => k (.isubImm32 g)
  | 0x042 => k (.imulImm32 g)
  | 0x043 => k (.andImm32 g)
  | 0x044 => k (.orImm32 g)
  | 0x045 => k (.xorImm32 g)
  | 0x046 => s5 (.shlImm32 g)
  | 0x047 => s5 (.shrImm32 g)
  | 0x048 => s5 (.sarImm32 g)
  | 0x049 => k (.aaddImm32 g)
  | 0x04A => k (.asubImm32 g)
  | 0x04F => do no f.sa; some (.movi g d f.imm)
  | 0x050 => k (.iaddImm64 g)
  | 0x051 => k (.isubImm64 g)
  | 0x052 => k (.imulImm64 g)
  | 0x053 => k (.andImm64 g)
  | 0x054 => k (.orImm64 g)
  | 0x055 => k (.xorImm64 g)
  | 0x056 => s6 (.shlImm64 g)
  | 0x057 => s6 (.shrImm64 g)
  | 0x058 => s6 (.sarImm64 g)
  | 0x059 => k (.aaddImm64 g)
  | 0x05A => k (.asubImm64 g)
  | 0x05F => do no f.sa; some (.moviPair g d f.imm)
  | 0x077 => grp (.bar g)
  | 0x078 => grp (.arrive g)
  | 0x079 => grp (.await g)
  | 0x1C1 => gate (.gate g)
  | 0x1C2 => gate (.rel g)
  | 0x1F0 => code (.trap g)
  | 0x1F2 => code (.brk g)
  | 0x1F8 => do
    no f.sa; must (f.imm.extractLsb' 23 8 == 0)
    must (sysReadOk (f.imm.extractLsb' 0 16) (f.imm.extractLsb' 16 7))
    some (.sysrd g (f.imm.extractLsb' 0 16) (f.imm.extractLsb' 16 7) d)
  | 0x1F9 => do
    no f.dst; must (f.imm.extractLsb' 23 8 == 0)
    must (sysWriteOk (f.imm.extractLsb' 0 16) (f.imm.extractLsb' 16 7))
    some (.syswr g (f.imm.extractLsb' 0 16) (f.imm.extractLsb' 16 7) (← Src.dec f.sa))
  | _ => none

/-- The predicate, control and rendezvous instructions of format A, 0x064 to 0x07F (R121,
R124, R125, R127, R128, R131 to R133). -/
def decCtl (g : Guard) (opc : Nat) (f : FmtA) : Option Instr :=
  let d := Dst.dec f.dst
  let no := fun (x : BitVec 9) => must (x == 0x1FF)
  let pd := f.ext.extractLsb' 4 4
  let prd := fun (x : BitVec 9) =>
    if x.extractLsb' 4 5 = 0 then some (x.extractLsb' 0 4) else none
  let p2 := fun (c : BitVec 4 → BitVec 4 → BitVec 4 → Bool → Bool → Instr) => do
    no f.dst; no f.sc; must (f.md == 0); must (f.ext.extractLsb' 2 2 == 0)
    some (c pd (← prd f.sa) (← prd f.sb) (f.ext.getLsbD 0) (f.ext.getLsbD 1))
  let bare := fun (i : Instr) => do
    no f.dst; no f.sa; no f.sb; no f.sc; must (f.md == 0); must (f.ext == 0); some i
  let jump := fun (c : Src → Instr) => do
    no f.dst; no f.sb; no f.sc; must (f.md == 3); must (f.ext == 0); some (c (← Src.dec f.sa))
  match opc with
  | 0x064 => do
    no f.dst; no f.sc; must (f.ext.getLsbD 3 == false)
    some (.pset g (← Cond.ofCode (f.ext.extractLsb' 0 3)) (← ITy.ofCode f.md) pd
      (← Src.dec f.sa) (← Src.dec f.sb))
  | 0x065 => p2 (.pand g)
  | 0x066 => p2 (.por g)
  | 0x067 => p2 (.pxor g)
  | 0x068 => do
    no f.dst; no f.sb; no f.sc; must (f.md == 0); must (f.ext.extractLsb' 0 4 == 0)
    some (.pnot g pd (← prd f.sa))
  | 0x06B => jump (.brx g)
  | 0x06D => jump (.ret g)
  | 0x06F => bare (.quit g)
  | 0x070 => bare (.yield g)
  | 0x074 => do
    no f.sb; no f.sc; must (f.ext.getLsbD 3 == false)
    let narrow ← if f.md = 3 then some false else if f.md = 1 then some true else none
    some (.vote g (VoteMode.ofCode (f.ext.extractLsb' 0 2)) (f.ext.getLsbD 2) narrow pd d
      (← Src.dec f.sa))
  | 0x075 => do
    must (f.ext.extractLsb' 2 6 == 0); must (f.md.extractLsb' 2 3 == 0)
    some (.shfl g (ShflMode.ofCode (f.ext.extractLsb' 0 2)) (← ITy.ofCode f.md) d
      (← Src.dec f.sa) (← Src.dec f.sb) (← Src.dec f.sc))
  | 0x076 => do
    no f.sc; must (f.ext.extractLsb' 3 5 == 0)
    let op ← RedOp.ofCode (f.ext.extractLsb' 0 3)
    let t ← NTy.ofCode f.md
    must (redTyOk op t)
    some (.red g op t d (← Src.dec f.sa) (← Src.dec f.sb))
  | 0x07F => bare (.nop g)
  | _ => none

/-- The floating-point and conversion instructions, 0x080 to 0x0A2 (R136, R146, R147, R150
to R152). -/
def decFlt (g : Guard) (opc : Nat) (f : FmtA) : Option Instr :=
  let d := Dst.dec f.dst
  let no := fun (x : BitVec 9) => must (x == 0x1FF)
  let rm := do must (f.ext.extractLsb' 3 5 == 0); Rm.ofCode (f.ext.extractLsb' 0 3)
  let t3 := do let t ← FTy.ofCode f.md; must t.arith; some t
  let f3 := fun (c : Rm → FTy → Dst → Src → Src → Src → Instr) => do
    some (c (← rm) (← t3) d (← Src.dec f.sa) (← Src.dec f.sb) (← Src.dec f.sc))
  let f2 := fun (c : Rm → FTy → Dst → Src → Src → Instr) => do
    no f.sc; some (c (← rm) (← t3) d (← Src.dec f.sa) (← Src.dec f.sb))
  let f1 := fun (c : Rm → FTy → Dst → Src → Instr) => do
    no f.sb; no f.sc; some (c (← rm) (← t3) d (← Src.dec f.sa))
  let g2 := fun (c : FTy → Dst → Src → Src → Instr) => do
    no f.sc; must (f.ext == 0); some (c (← t3) d (← Src.dec f.sa) (← Src.dec f.sb))
  let g1 := fun (c : FTy → Dst → Src → Instr) => do
    no f.sb; no f.sc; must (f.ext == 0); some (c (← FTy.ofCode f.md) d (← Src.dec f.sa))
  let x1 := fun (c : Rm → Dst → Src → Instr) => do
    no f.sb; no f.sc; must (f.md == 8); some (c (← rm) d (← Src.dec f.sa))
  match opc with
  | 0x080 => f2 (.fadd g)
  | 0x081 => f2 (.fsub g)
  | 0x082 => f2 (.fmul g)
  | 0x083 => f3 (.fma g)
  | 0x084 => g2 (.fmin g)
  | 0x085 => g2 (.fmax g)
  | 0x086 => g1 (.fabs g)
  | 0x087 => g1 (.fneg g)
  | 0x088 => do
    no f.sc; must (f.ext.extractLsb' 3 5 == 0)
    some (.fcmp g (← FCond.ofCode (f.ext.extractLsb' 0 3)) (← t3) d (← Src.dec f.sa)
      (← Src.dec f.sb))
  | 0x089 => g1 (.fclass g)
  | 0x08A => f1 (.frcp g)
  | 0x08B => f1 (.frsq g)
  | 0x08C => f1 (.fsqrt g)
  | 0x08D => x1 (.fexp2 g)
  | 0x08E => x1 (.flog2 g)
  | 0x08F => x1 (.fsin g)
  | 0x090 => x1 (.fcos g)
  | 0x091 => f1 (.fround g)
  | 0x092 => f2 (.fdiv g)
  | 0x093 => do
    must (f.ext.getLsbD 3 == false)
    let ta ← NTy.ofCode f.md
    let tb ← NTy.ofCode (0#1 ++ f.ext.extractLsb' 4 4)
    let r ← Rm.ofCode (f.ext.extractLsb' 0 3)
    must (dp4Ok r ta tb)
    some (.dp4 g r ta tb d (← Src.dec f.sa) (← Src.dec f.sb) (← Src.dec f.sc))
  | 0x094 => do
    let t ← FTy.ofCode f.md
    must t.packed
    some (.hfma2 g (← rm) t d (← Src.dec f.sa) (← Src.dec f.sb) (← Src.dec f.sc))
  | 0x095 => do
    no f.sc; must (f.md == 8); must (f.ext.extractLsb' 5 3 == 0)
    must (f.ext.extractLsb' 0 4 == 0)
    some (.sclq g (f.ext.getLsbD 4) d (← Src.dec f.sa) (← Src.dec f.sb))
  | 0x0A0 => do
    no f.sb
    let ts ← NTy.ofCode (0#1 ++ f.ext.extractLsb' 4 4)
    if f.ext.extractLsb' 0 3 = 4 then do
      must (ts == .flt .f32)
      let td ← FTy.ofCode f.md
      must (td != .f32)
      let a ← Src.dec f.sa
      let c ← regField f.sc
      must (efCompOk d a c)
      some (.cvtEf g (f.ext.getLsbD 3) td d a c)
    else do
      no f.sc
      some (.cvt g (← Rm.ofCode (f.ext.extractLsb' 0 3)) (f.ext.getLsbD 3)
        (← NTy.ofCode f.md) ts d (← Src.dec f.sa))
  | 0x0A1 => do
    must (f.md == 13); must (f.ext.extractLsb' 0 4 == 0); must (f.ext.getLsbD 7 == false)
    some (.cbenc g (f.ext.extractLsb' 4 3) d (← Src.dec f.sa) (← regField f.sb)
      (← Src.dec f.sc))
  | 0x0A2 => do
    no f.sc
    must (f.md == 13); must (f.ext.extractLsb' 0 4 == 0); must (f.ext.getLsbD 7 == false)
    some (.cbdec g (f.ext.extractLsb' 4 3) d (← Src.dec f.sa) (← regField f.sb))
  | _ => none

/-- The memory instructions of format M, 0x100 to 0x12B (R179, R180). -/
def decMem (g : Guard) (opc : Nat) (f : FmtM) : Option Instr := do
  let no := fun (x : BitVec 9) => must (x == 0x1FF)
  let sz ← Size.ofCode f.size
  let sc ← Scope.ofCode f.scope
  let ma : Option MAddr := do
    some ⟨← Src.dec f.base, ← Src.dec f.index, f.off⟩
  let d := Dst.dec f.data
  let sx := f.ord.getLsbD 0
  let ev := f.ord.getLsbD 1
  let o2 := f.ord.getLsbD 2
  let crew := must (f.scope == 0)
  let bare := do
    no f.data; no f.base; no f.index; must (f.off == 0); must (f.size == 0); must (f.ord == 0)
  let addr : Option MAddr := do no f.data; must (f.size == 0); ma
  let atom := fun (sgn : Bool) (op : AtomOp)
      (c : BitVec 8 → MAddr → Size → Scope → AOrd → Instr) => do
    must (atomSizeOk op sz); must (sgn || !sx)
    let m ← ma
    let o := AOrd.ofCode (f.ord.extractLsb' 1 2)
    must (atomScopeOk o sc)
    if f.data.getLsbD 8 = false then some (c (f.data.extractLsb' 0 8) m sz sc o)
    else do
      must (o == .relaxed)
      some (.atomFireAndForget g op sx (f.data.extractLsb' 0 8) m sz)
  match opc with
  | 0x100 => do
    crew
    if f.ord = 7 then do must sz.word; some (.ldGIo g d (← ma) sz)
    else do must (!o2); must (!sx || sz.small); some (.ldG g d (← ma) sz sx ev)
  | 0x101 => do crew; must (!o2 && !ev); must (!sx || sz.small); some (.ldS g d (← ma) sz sx)
  | 0x102 => do crew; must (!o2 && !ev); must (!sx || sz.small); some (.ldW g d (← ma) sz sx)
  | 0x103 => do crew; must (!o2); must (!sx || sz.small); some (.ldP g d (← ma) sz sx ev)
  | 0x104 => do crew; must (!o2 && !sx); some (.stG g (← Src.dec f.data) (← ma) sz ev)
  | 0x105 => do crew; must (f.ord == 0); some (.stS g (← Src.dec f.data) (← ma) sz)
  | 0x106 => do crew; must (f.ord == 0); some (.stW g (← Src.dec f.data) (← ma) sz)
  | 0x107 => do crew; must (!o2 && !sx); some (.stP g (← Src.dec f.data) (← ma) sz ev)
  | 0x108 => do
    must (f.ord == 0); must sz.word; must (sc != .crew); some (.ldAcq g d (← ma) sz sc)
  | 0x109 => do
    must (f.ord == 0); must sz.word; must (sc != .crew)
    some (.stRel g (← Src.dec f.data) (← ma) sz sc)
  | 0x110 => atom false .add (.atomAdd g)
  | 0x111 => atom true .min (fun a b c d e => .atomMin g a b c d e sx)
  | 0x112 => atom true .max (fun a b c d e => .atomMax g a b c d e sx)
  | 0x113 => atom false .and (.atomAnd g)
  | 0x114 => atom false .or (.atomOr g)
  | 0x115 => atom false .xor (.atomXor g)
  | 0x116 => atom false .xchg (.atomXchg g)
  | 0x117 => atom false .cas (.atomCas g)
  | 0x118 => do
    crew; must sz.word; must (aredOk (AredOp.ofCode f.ord) sz)
    some (.ared g (AredOp.ofCode f.ord) (← Src.dec f.data) (← ma) sz)
  | 0x120 => do bare; some (.phase g sc)
  | 0x121 => do bare; crew; some (.fence g)
  | 0x128 => do
    crew
    let m ← addr
    let l ← if f.ord = 0 then some PrfLevel.l1 else if f.ord = 1 then some .l2
      else if f.ord = 2 then some .llc else none
    some (.prfD g l m)
  | 0x129 => do crew; must (f.ord == 0); some (.prfI g (← addr))
  | 0x12A => do
    let m ← addr
    must (sc != .crew)
    if f.ord = 0 then some (.invD g sc m)
    else if f.ord = 1 then some (.invI g sc m)
    else if f.ord = 2 then do must (sc != .domain); some (.invTlb g sc m)
    else if f.ord = 3 then do
      must (m == ⟨.zero, .zero, 0⟩); some (.invIall g sc)
    else none
  | 0x12B => do crew; must (!ev && !o2); some (.wbk g sx (← addr))
  | _ => none

/-- The format P instructions (R246, R276, R281, R390). -/
def decPlace (g : Guard) (opc : Nat) (f : FmtP) : Option Instr :=
  let d := Dst.dec f.dst
  let no := fun (x : BitVec 9) => must (x == 0x1FF)
  let pl : PlaceOp := ⟨f.dx, f.dy, f.dd⟩
  let rec_ := do no f.dst; must (f.md.extractLsb' 4 3 == 0)
  let copy := fun (c : Bool → Dst → Src → Src → PlaceOp → Instr) => do
    must (f.md.extractLsb' 1 6 == 0)
    must (f.md.getLsbD 0 || d != .none)
    some (c (f.md.getLsbD 0) d (← Src.dec f.sa) (← Src.dec f.sb) pl)
  let here := must (pl == ⟨0, 0, 0⟩)
  match opc with
  | 0x160 => do rec_; some (.orsv g (f.md.extractLsb' 0 4) (← Src.dec f.sa) (← Src.dec f.sb) pl)
  | 0x162 => do rec_; some (.omap g (f.md.extractLsb' 0 4) (← Src.dec f.sa) (← Src.dec f.sb) pl)
  | 0x180 => copy (.cpy g)
  | 0x181 => copy (.cpyT g)
  | 0x190 => do
    must (f.md.extractLsb' 3 4 == 0)
    some (.sbind g (f.md.getLsbD 0) (f.md.extractLsb' 1 2) d (← Src.dec f.sa)
      (← Src.dec f.sb) pl)
  | 0x1FA => do
    no f.dst; must (f.md.extractLsb' 3 4 == 0)
    match (f.md.extractLsb' 0 3).toNat with
    | 0 => do no f.sa; no f.sb; some (.migMove g pl)
    | 1 => do here; some (.migSave g (← Src.dec f.sa) (← Src.dec f.sb))
    | 2 => do no f.sa; some (.migLoad g (← Src.dec f.sb) pl)
    | 3 => do here; some (.migLsave g (← Src.dec f.sa) (← Src.dec f.sb))
    | 4 => do here; some (.migLload g (← Src.dec f.sa) (← Src.dec f.sb))
    | _ => none
  | _ => none

/-- The format C instructions (R125, R126, R129). -/
def decCond (opc : Nat) (f : FmtC) : Option Instr :=
  let c : CCond := ⟨f.cond, f.cneg, f.cidx⟩
  do
    must (f.cond || (!f.cneg && f.cidx == 0))
    match opc with
    | 0x06A => do must (f.cmod == 0); some (.br c f.disp)
    | 0x06C => do must (f.cmod.extractLsb' 8 2 == 0); some (.call c f.disp (f.cmod.extractLsb' 0 8))
    | 0x06E => do
      must (f.cmod.getLsbD 9 == false)
      if f.cmod.extractLsb' 0 9 = 0x1FF then some (.fork c f.disp none)
      else do some (.fork c f.disp (some (← regField (f.cmod.extractLsb' 0 9))))
    | 0x071 => do must (f.cmod == 0); some (.cont c f.disp)
    | _ => none

/-- The matrix and engine instructions of format A, 0x161 to 0x199 (R247 to R252, R277 to
R283). -/
def decEng (g : Guard) (opc : Nat) (f : FmtA) : Option Instr :=
  let d := Dst.dec f.dst
  let no := fun (x : BitVec 9) => must (x == 0x1FF)
  let m0 := must (f.md == 0)
  let e0 := must (f.ext == 0)
  let acc := fun (c : BitVec 4 → BitVec 4 → Src → Src → Instr) => do
    no f.dst; no f.sc
    some (c (f.ext.extractLsb' 0 4) (f.ext.extractLsb' 4 4) (← Src.dec f.sa) (← Src.dec f.sb))
  let hnd := fun (c : Src → Src → Instr) => do
    no f.dst; no f.sc; m0; e0; some (c (← Src.dec f.sa) (← Src.dec f.sb))
  match opc with
  | 0x161 => do
    no f.dst; no f.sa; no f.sc; m0; must (f.ext.extractLsb' 4 4 == 0)
    some (.orel g (f.ext.extractLsb' 0 4) (← Src.dec f.sb))
  | 0x168 => do
    must (f.md.extractLsb' 1 4 == 0)
    if f.md.getLsbD 0 then acc (.mmaJoint g) else acc (.mma g)
  | 0x169 => do m0; acc (.mmaz g)
  | 0x16A => do
    no f.dst; no f.sc; m0; e0; some (.aclr g (← Src.dec f.sa) (← Src.dec f.sb))
  | 0x16B => do
    no f.sc; e0; must (f.md.extractLsb' 3 2 == 0); must (lgOk (f.md.extractLsb' 0 3))
    some (.ard g (f.md.extractLsb' 0 3) d (← Src.dec f.sa) (← Src.dec f.sb))
  | 0x16C => do
    no f.dst; e0; must (f.md.extractLsb' 3 2 == 0); must (lgOk (f.md.extractLsb' 0 3))
    some (.awr g (f.md.extractLsb' 0 3) (← Src.dec f.sa) (← Src.dec f.sb) (← Src.dec f.sc))
  | 0x16D => do
    no f.dst; m0; e0
    some (.ascl g (← Src.dec f.sa) (← Src.dec f.sb) (← Src.dec f.sc))
  | 0x170 => do
    no f.dst; no f.sc; m0; must (f.ext.extractLsb' 3 5 == 0)
    let c := f.ext.extractLsb' 0 3
    if c = 0 then some (.gangLeave g (← Src.dec f.sa) (← Src.dec f.sb))
    else do must (gangOk c); some (.gang g c (← Src.dec f.sa) (← Src.dec f.sb))
  | 0x182 => do
    no f.sc; e0; must (f.md.extractLsb' 1 4 == 0)
    some (.cwait g (f.md.getLsbD 0) d (← Src.dec f.sa) (← Src.dec f.sb))
  | 0x188 => do
    no f.sc; e0; must (f.md.extractLsb' 3 2 == 0)
    some (.node g (f.md.extractLsb' 0 2) (f.md.getLsbD 2) d (← Src.dec f.sa) (← Src.dec f.sb))
  | 0x189 => do
    no f.dst; m0; e0
    some (.nlink g (← Src.dec f.sa) (← Src.dec f.sb) (← Src.dec f.sc))
  | 0x18A => hnd (.narm g)
  | 0x191 => hnd (.srun g)
  | 0x192 => hnd (.sstop g)
  | 0x198 => do
    no f.sc; must (f.md.extractLsb' 1 4 == 0); must (f.ext.extractLsb' 4 4 == 0)
    some (.rfill g (f.md.getLsbD 0) (f.ext.extractLsb' 0 4) d (← Src.dec f.sa)
      (← Src.dec f.sb))
  | 0x199 => do
    no f.sc; m0; must (f.ext.extractLsb' 4 4 == 0)
    some (.rdrain g (f.ext.extractLsb' 0 4) d (← Src.dec f.sa) (← Src.dec f.sb))
  | _ => none

/-- The queue, table, counter and system instructions of format A, 0x1B0 to 0x1F3 (R308 to
R313, R327 to R334, R354 to R362, R386, R387). -/
def decSys (g : Guard) (opc : Nat) (f : FmtA) : Option Instr :=
  let d := Dst.dec f.dst
  let no := fun (x : BitVec 9) => must (x == 0x1FF)
  let m0 := must (f.md == 0)
  let e0 := must (f.ext == 0)
  let noSrc := do no f.sa; no f.sb; no f.sc
  let dq := fun (c : BitVec 2 → Instr) => do
    no f.dst; noSrc; m0; must (f.ext.extractLsb' 2 6 == 0); some (c (f.ext.extractLsb' 0 2))
  let eret := fun (c : Src → Src → Instr) => do
    no f.dst; no f.sc; m0; some (c (← Src.dec f.sa) (← Src.dec f.sb))
  let bud := fun (c : Src → Src → Instr) => do
    no f.dst; no f.sc; m0; some (c (← Src.dec f.sa) (← Src.dec f.sb))
  match opc with
  | 0x1B0 => do
    no f.dst; no f.sc; m0; must (f.ext.extractLsb' 5 3 == 0)
    must (spawnOk (f.ext.extractLsb' 0 5))
    some (.spawn g (f.ext.extractLsb' 0 5) (← Src.dec f.sa) (← Src.dec f.sb))
  | 0x1B1 => do no f.dst; no f.sb; no f.sc; m0; e0; some (.launch g (← Src.dec f.sa))
  | 0x1B8 => do
    no f.sb; no f.sc; m0; must (f.ext.extractLsb' 2 6 == 0)
    some (.qbind g (f.ext.extractLsb' 0 2) (← regField f.dst) (← Src.dec f.sa))
  | 0x1B9 => dq (.qpop g)
  | 0x1BA => dq (.qpush g)
  | 0x1C0 => do
    no f.sb; no f.sc; m0; must (f.ext.getLsbD 7 == false)
    let r := f.ext.extractLsb' 0 4
    let w := f.ext.getLsbD 6
    let n ← Src.dec f.sa
    if f.ext.extractLsb' 4 2 = 0 then do no f.dst; must (!w); some (.sigPut g r n)
    else if f.ext.extractLsb' 4 2 = 1 then do no f.dst; must (!w); some (.sigTake g r n)
    else do
      must (w || n == .zero)
      some (if f.ext.extractLsb' 4 2 = 2 then .sigFill g w r d n else .sigRoom g w r d n)
  | 0x1D0 => do
    no f.sb; no f.sc; m0; must (f.ext.extractLsb' 3 5 == 0)
    must (tableOk (f.ext.extractLsb' 0 3))
    some (.tbrd g (f.ext.extractLsb' 0 3) d (← Src.dec f.sa))
  | 0x1D1 => do
    no f.dst; no f.sc; must (f.md.extractLsb' 1 4 == 0); must (f.ext.extractLsb' 3 5 == 0)
    must (tableOk (f.ext.extractLsb' 0 3))
    if f.md.getLsbD 0 then do
      must (f.ext.extractLsb' 0 3 == 2)
      some (.tbwrSwap g (← Src.dec f.sa) (← Src.dec f.sb))
    else some (.tbwr g (f.ext.extractLsb' 0 3) (← Src.dec f.sa) (← Src.dec f.sb))
  | 0x1D8 => do no f.dst; no f.sc; m0; e0; some (.ccreq g (← Src.dec f.sa) (← Src.dec f.sb))
  | 0x1D9 => do no f.dst; no f.sb; no f.sc; m0; e0; some (.ccrel g (← Src.dec f.sa))
  | 0x1E0 => do noSrc; m0; must (f.ext.extractLsb' 1 7 == 0); some (.bread g (f.ext.getLsbD 0) d)
  | 0x1E1 => do must (f.ext.extractLsb' 1 7 == 0); bud (.bgive g (f.ext.getLsbD 0))
  | 0x1E2 => do
    must (f.ext.extractLsb' 2 6 == 0)
    if f.ext.getLsbD 1 then bud (.btopSet g (f.ext.getLsbD 0))
    else bud (.btopAdd g (f.ext.getLsbD 0))
  | 0x1E8 => do noSrc; m0; e0; some (.tick g d)
  | 0x1E9 => do
    noSrc; m0; must (f.ext.extractLsb' 5 3 == 0); must (spawnOk (f.ext.extractLsb' 0 5))
    some (.tkt g (f.ext.extractLsb' 0 5) d)
  | 0x1EA => do
    no f.dst; no f.sb; no f.sc; m0; must (f.ext.extractLsb' 2 6 == 0)
    if f.ext.extractLsb' 0 2 = 0 then some (.wdogSet g (← Src.dec f.sa))
    else if f.ext.extractLsb' 0 2 = 1 then do no f.sa; some (.wdogPet g)
    else if f.ext.extractLsb' 0 2 = 2 then do no f.sa; some (.wdogBeat g)
    else none
  | 0x1EB => do
    noSrc; m0; must (f.ext.extractLsb' 4 4 == 0); some (.pcr g (f.ext.extractLsb' 0 4) d)
  | 0x1EC => do
    no f.dst; no f.sb; no f.sc; m0; must (f.ext.extractLsb' 3 5 == 0)
    some (.crsv g (f.ext.extractLsb' 0 4) (← Src.dec f.sa))
  | 0x1F1 => do
    must (f.ext.extractLsb' 2 6 == 0)
    if f.ext.extractLsb' 0 2 = 0 then eret (.eretRetry g)
    else if f.ext.extractLsb' 0 2 = 1 then eret (.eretNext g)
    else if f.ext.extractLsb' 0 2 = 2 then eret (.eretCont g)
    else eret (.eretQuit g)
  | 0x1F3 => do
    no f.dst; no f.sb; no f.sc; m0; must (f.ext.extractLsb' 1 7 == 0)
    if f.ext.getLsbD 0 then some (.haltLaunch g (← Src.dec f.sa))
    else some (.halt g (← Src.dec f.sa))
  | _ => none

/-- The format of an opcode (R70). -/
inductive Fmt where
  | a | i | j | m | p | c
deriving DecidableEq, Repr

/-- The format of each assigned opcode (R70); the decoders refuse what is not assigned. -/
def fmtOf (opc : Nat) : Fmt :=
  if opc = 0x060 then .j
  else if opc = 0x06A ∨ opc = 0x06C ∨ opc = 0x06E ∨ opc = 0x071 then .c
  else if (0x040 ≤ opc ∧ opc ≤ 0x05F) ∨ (0x077 ≤ opc ∧ opc ≤ 0x079) ∨ opc = 0x1C1 ∨ opc = 0x1C2
    ∨ opc = 0x1F0 ∨ opc = 0x1F2 ∨ opc = 0x1F8 ∨ opc = 0x1F9 then .i
  else if 0x100 ≤ opc ∧ opc ≤ 0x12B then .m
  else if opc = 0x160 ∨ opc = 0x162 ∨ opc = 0x180 ∨ opc = 0x181 ∨ opc = 0x190 ∨ opc = 0x1FA
    then .p
  else .a

/-- The instruction of a word, or none where R61 to R65, R70 and the entries give
ILLEGAL_INSTRUCTION. -/
def decode (w : W64) : Option Instr :=
  let r := RawWord.ofWord w
  let g : Guard := ⟨r.gen, r.gneg, r.gidx⟩
  let opc := r.opc.toNat
  do
    must g.wf
    match fmtOf opc with
    | .j => do
      let f := FmtJ.ofBody r.body
      must (f.md == 0)
      some (.movw g (Dst.dec f.dst) f.imm)
    | .c => do must (!r.gen); decCond opc (FmtC.ofBody r.body)
    | .i => decImm g opc (FmtI.ofBody r.body)
    | .m => decMem g opc (FmtM.ofBody r.body)
    | .p => decPlace g opc (FmtP.ofBody r.body)
    | .a =>
      let f := FmtA.ofBody r.body
      if opc < 0x040 then decInt g opc f
      else if opc < 0x080 then decCtl g opc f
      else if opc < 0x100 then decFlt g opc f
      else if opc < 0x1B0 then decEng g opc f
      else decSys g opc f

/-! ### The encoder -/

/-- A word from its opcode, guard and body. -/
def pack (opc : BitVec 9) (g : Guard) (body : BitVec 49) : W64 :=
  RawWord.toWord ⟨opc, g.en, g.neg, g.idx, body⟩

def packA (opc : BitVec 9) (g : Guard) (dst sa sb sc : BitVec 9) (md : BitVec 5)
    (ext : BitVec 8) : W64 := pack opc g (FmtA.toBody ⟨dst, sa, sb, sc, md, ext⟩)

def packI (opc : BitVec 9) (g : Guard) (dst sa : BitVec 9) (imm : BitVec 31) : W64 :=
  pack opc g (FmtI.toBody ⟨dst, sa, imm⟩)

def packM (opc : BitVec 9) (g : Guard) (data : BitVec 9) (m : MAddr) (sz : Size) (sc : Scope)
    (ord : BitVec 3) : W64 :=
  pack opc g (FmtM.toBody ⟨data, m.base.enc, m.index.enc, m.off, sz.code, sc.code, ord⟩)

def packP (opc : BitVec 9) (g : Guard) (dst sa : BitVec 9) (pl : PlaceOp) (sb : BitVec 9)
    (md : BitVec 7) : W64 := pack opc g (FmtP.toBody ⟨dst, sa, pl.dx, pl.dy, pl.dd, sb, md⟩)

def packC (opc : BitVec 9) (c : CCond) (disp : BitVec 33) (cmod : BitVec 10) : W64 :=
  pack opc ⟨false, false, 0⟩ (FmtC.toBody ⟨disp, c.idx, c.neg, c.cond, cmod⟩)

/-- The field of no operand. -/
abbrev nil9 : BitVec 9 := 0x1FF

def packT3 (opc : BitVec 9) (g : Guard) (md : BitVec 5) (ext : BitVec 8) (d : Dst)
    (a b c : Src) : W64 := packA opc g d.enc a.enc b.enc c.enc md ext

def packT2 (opc : BitVec 9) (g : Guard) (md : BitVec 5) (ext : BitVec 8) (d : Dst)
    (a b : Src) : W64 := packA opc g d.enc a.enc b.enc nil9 md ext

def packT1 (opc : BitVec 9) (g : Guard) (md : BitVec 5) (ext : BitVec 8) (d : Dst)
    (a : Src) : W64 := packA opc g d.enc a.enc nil9 nil9 md ext

/-- The EXT field of an instruction that rounds (R79). -/
abbrev rmExt (rm : Rm) : BitVec 8 := 0#5 ++ rm.code

/-- The word of an instruction form; none for the events of the machine. -/
def encode : Instr → Option W64
  | .iadd g t s d a b => packT2 0x000 g t.code (0#7 ++ b1 s) d a b
  | .isub g t s d a b => packT2 0x001 g t.code (0#7 ++ b1 s) d a b
  | .imul g t d a b => packT2 0x002 g t.code 0 d a b
  | .imulh g t d a b => packT2 0x003 g t.code 0 d a b
  | .imad g t d a b c => packT3 0x004 g t.code 0 d a b c
  | .idiv g t d a b => packT2 0x005 g t.code 0 d a b
  | .irem g t d a b => packT2 0x006 g t.code 0 d a b
  | .ineg g t s d a => packT1 0x007 g t.code (0#7 ++ b1 s) d a
  | .iabs g t s d a => packT1 0x008 g t.code (0#7 ++ b1 s) d a
  | .imin g t d a b => packT2 0x009 g t.code 0 d a b
  | .imax g t d a b => packT2 0x00A g t.code 0 d a b
  | .icmp g c t d a b => packT2 0x00B g t.code (0#5 ++ c.code) d a b
  | .and g t d a b => packT2 0x00C g t.code 0 d a b
  | .or g t d a b => packT2 0x00D g t.code 0 d a b
  | .xor g t d a b => packT2 0x00E g t.code 0 d a b
  | .andn g t d a b => packT2 0x00F g t.code 0 d a b
  | .not g t d a => packT1 0x010 g t.code 0 d a
  | .shl g t d a b => packT2 0x011 g t.code 0 d a b
  | .shr g t d a b => packT2 0x012 g t.code 0 d a b
  | .sar g t d a b => packT2 0x013 g t.code 0 d a b
  | .rot g t d a b => packT2 0x014 g t.code 0 d a b
  | .bfx g t d a s => packA 0x015 g d.enc a.enc nil9 s.enc t.code 0
  | .bfi g t d a b s => packT3 0x016 g t.code 0 d a b s
  | .popc g t d a => packT1 0x017 g t.code 0 d a
  | .clz g t d a => packT1 0x018 g t.code 0 d a
  | .ctz g t d a => packT1 0x019 g t.code 0 d a
  | .brev g t d a => packT1 0x01A g t.code 0 d a
  | .mov g t d a => packT1 0x01B g t.code 0 d a
  | .sel g t p d a b => packT2 0x01C g t.code (0#4 ++ p) d a b
  | .lea g w sh d a i => packT2 0x01D g (if w then 2 else 0) (0#4 ++ sh) d a i
  | .aadd g w d a b => packT2 0x01E g (if w then 2 else 0) 0 d a b
  | .asub g w d a b => packT2 0x01F g (if w then 2 else 0) 0 d a b
  | .acmp g c d a b => packT2 0x020 g 3 (0#5 ++ c.code) d a b
  | .iaddImm32 g d a i => packI 0x040 g d.enc a.enc i
  | .isubImm32 g d a i => packI 0x041 g d.enc a.enc i
  | .imulImm32 g d a i => packI 0x042 g d.enc a.enc i
  | .andImm32 g d a i => packI 0x043 g d.enc a.enc i
  | .orImm32 g d a i => packI 0x044 g d.enc a.enc i
  | .xorImm32 g d a i => packI 0x045 g d.enc a.enc i
  | .shlImm32 g d a n => packI 0x046 g d.enc a.enc (0#26 ++ n)
  | .shrImm32 g d a n => packI 0x047 g d.enc a.enc (0#26 ++ n)
  | .sarImm32 g d a n => packI 0x048 g d.enc a.enc (0#26 ++ n)
  | .aaddImm32 g d a i => packI 0x049 g d.enc a.enc i
  | .asubImm32 g d a i => packI 0x04A g d.enc a.enc i
  | .movi g d i => packI 0x04F g d.enc nil9 i
  | .iaddImm64 g d a i => packI 0x050 g d.enc a.enc i
  | .isubImm64 g d a i => packI 0x051 g d.enc a.enc i
  | .imulImm64 g d a i => packI 0x052 g d.enc a.enc i
  | .andImm64 g d a i => packI 0x053 g d.enc a.enc i
  | .orImm64 g d a i => packI 0x054 g d.enc a.enc i
  | .xorImm64 g d a i => packI 0x055 g d.enc a.enc i
  | .shlImm64 g d a n => packI 0x056 g d.enc a.enc (0#25 ++ n)
  | .shrImm64 g d a n => packI 0x057 g d.enc a.enc (0#25 ++ n)
  | .sarImm64 g d a n => packI 0x058 g d.enc a.enc (0#25 ++ n)
  | .aaddImm64 g d a i => packI 0x059 g d.enc a.enc i
  | .asubImm64 g d a i => packI 0x05A g d.enc a.enc i
  | .moviPair g d i => packI 0x05F g d.enc nil9 i
  | .movw g d i => pack 0x060 g (FmtJ.toBody ⟨d.enc, 0, i⟩)
  | .pset g c t p a b => packA 0x064 g nil9 a.enc b.enc nil9 t.code (p ++ (0#1 ++ c.code))
  | .pand g p a b x y => packA 0x065 g nil9 (0#5 ++ a) (0#5 ++ b) nil9 0 (p ++ (0#2 ++ (b1 y ++ b1 x)))
  | .por g p a b x y => packA 0x066 g nil9 (0#5 ++ a) (0#5 ++ b) nil9 0 (p ++ (0#2 ++ (b1 y ++ b1 x)))
  | .pxor g p a b x y => packA 0x067 g nil9 (0#5 ++ a) (0#5 ++ b) nil9 0 (p ++ (0#2 ++ (b1 y ++ b1 x)))
  | .pnot g p a => packA 0x068 g nil9 (0#5 ++ a) nil9 nil9 0 (p ++ 0#4)
  | .br c d => packC 0x06A c d 0
  | .brx g a => packA 0x06B g nil9 a.enc nil9 nil9 3 0
  | .call c d l => packC 0x06C c d (0#2 ++ l)
  | .ret g a => packA 0x06D g nil9 a.enc nil9 nil9 3 0
  | .fork c d none => packC 0x06E c d 0x1FF
  | .fork c d (some r) => packC 0x06E c d (0#2 ++ r)
  | .quit g => packA 0x06F g nil9 nil9 nil9 nil9 0 0
  | .yield g => packA 0x070 g nil9 nil9 nil9 nil9 0 0
  | .cont c d => packC 0x071 c d 0
  | .vote g m cnt nw p d mask =>
    packA 0x074 g d.enc mask.enc nil9 nil9 (if nw then 1 else 3) (p ++ (0#1 ++ (b1 cnt ++ m.code)))
  | .shfl g m t d a b mask => packT3 0x075 g t.code (0#6 ++ m.code) d a b mask
  | .red g op t d a mask => packT2 0x076 g t.code (0#5 ++ op.code) d a mask
  | .bar g n => packI 0x077 g nil9 nil9 (0#23 ++ n)
  | .arrive g n => packI 0x078 g nil9 nil9 (0#23 ++ n)
  | .await g n => packI 0x079 g nil9 nil9 (0#23 ++ n)
  | .nop g => packA 0x07F g nil9 nil9 nil9 nil9 0 0
  | .fadd g rm t d a b => packT2 0x080 g t.code (rmExt rm) d a b
  | .fsub g rm t d a b => packT2 0x081 g t.code (rmExt rm) d a b
  | .fmul g rm t d a b => packT2 0x082 g t.code (rmExt rm) d a b
  | .fma g rm t d a b c => packT3 0x083 g t.code (rmExt rm) d a b c
  | .fmin g t d a b => packT2 0x084 g t.code 0 d a b
  | .fmax g t d a b => packT2 0x085 g t.code 0 d a b
  | .fabs g t d a => packT1 0x086 g t.code 0 d a
  | .fneg g t d a => packT1 0x087 g t.code 0 d a
  | .fcmp g c t d a b => packT2 0x088 g t.code (0#5 ++ c.code) d a b
  | .fclass g t d a => packT1 0x089 g t.code 0 d a
  | .frcp g rm t d a => packT1 0x08A g t.code (rmExt rm) d a
  | .frsq g rm t d a => packT1 0x08B g t.code (rmExt rm) d a
  | .fsqrt g rm t d a => packT1 0x08C g t.code (rmExt rm) d a
  | .fexp2 g rm d a => packT1 0x08D g 8 (rmExt rm) d a
  | .flog2 g rm d a => packT1 0x08E g 8 (rmExt rm) d a
  | .fsin g rm d a => packT1 0x08F g 8 (rmExt rm) d a
  | .fcos g rm d a => packT1 0x090 g 8 (rmExt rm) d a
  | .fround g rm t d a => packT1 0x091 g t.code (rmExt rm) d a
  | .fdiv g rm t d a b => packT2 0x092 g t.code (rmExt rm) d a b
  | .dp4 g rm ta tb d a b c =>
    packT3 0x093 g ta.code (tb.code.extractLsb' 0 4 ++ (0#1 ++ rm.code)) d a b c
  | .hfma2 g rm t d a b c => packT3 0x094 g t.code (rmExt rm) d a b c
  | .sclq g n d a b => packT2 0x095 g 8 (0#3 ++ (b1 n ++ 0#4)) d a b
  | .cvt g rm sat td ts d a =>
    packT1 0x0A0 g td.code (ts.code.extractLsb' 0 4 ++ (b1 sat ++ rm.code)) d a
  | .cvtEf g sat td d a c =>
    packA 0x0A0 g d.enc a.enc nil9 (0#1 ++ c) td.code (8#4 ++ (b1 sat ++ 4#3))
  | .cbenc g n d a s c =>
    packA 0x0A1 g d.enc a.enc (0#1 ++ s) c.enc 13 (0#1 ++ (n ++ 0#4))
  | .cbdec g n d a s => packA 0x0A2 g d.enc a.enc (0#1 ++ s) nil9 13 (0#1 ++ (n ++ 0#4))
  | .ldG g d m sz sx ev => packM 0x100 g d.enc m sz .crew (0#1 ++ (b1 ev ++ b1 sx))
  | .ldS g d m sz sx => packM 0x101 g d.enc m sz .crew (0#2 ++ b1 sx)
  | .ldW g d m sz sx => packM 0x102 g d.enc m sz .crew (0#2 ++ b1 sx)
  | .ldP g d m sz sx ev => packM 0x103 g d.enc m sz .crew (0#1 ++ (b1 ev ++ b1 sx))
  | .ldGIo g d m sz => packM 0x100 g d.enc m sz .crew 7
  | .stG g a m sz ev => packM 0x104 g a.enc m sz .crew (0#1 ++ (b1 ev ++ 0#1))
  | .stS g a m sz => packM 0x105 g a.enc m sz .crew 0
  | .stW g a m sz => packM 0x106 g a.enc m sz .crew 0
  | .stP g a m sz ev => packM 0x107 g a.enc m sz .crew (0#1 ++ (b1 ev ++ 0#1))
  | .ldAcq g d m sz sc => packM 0x108 g d.enc m sz sc 0
  | .stRel g a m sz sc => packM 0x109 g a.enc m sz sc 0
  | .atomAdd g d m sz sc o => packM 0x110 g (0#1 ++ d) m sz sc (o.code ++ 0#1)
  | .atomMin g d m sz sc o s => packM 0x111 g (0#1 ++ d) m sz sc (o.code ++ b1 s)
  | .atomMax g d m sz sc o s => packM 0x112 g (0#1 ++ d) m sz sc (o.code ++ b1 s)
  | .atomAnd g d m sz sc o => packM 0x113 g (0#1 ++ d) m sz sc (o.code ++ 0#1)
  | .atomOr g d m sz sc o => packM 0x114 g (0#1 ++ d) m sz sc (o.code ++ 0#1)
  | .atomXor g d m sz sc o => packM 0x115 g (0#1 ++ d) m sz sc (o.code ++ 0#1)
  | .atomXchg g d m sz sc o => packM 0x116 g (0#1 ++ d) m sz sc (o.code ++ 0#1)
  | .atomCas g d m sz sc o => packM 0x117 g (0#1 ++ d) m sz sc (o.code ++ 0#1)
  | .atomFireAndForget g op s d m sz => packM op.code g (1#1 ++ d) m sz .crew (0#2 ++ b1 s)
  | .ared g op a m sz => packM 0x118 g a.enc m sz .crew op.code
  | .phase g sc => packM 0x120 g nil9 ⟨.zero, .zero, 0⟩ .b1 sc 0
  | .fence g => packM 0x121 g nil9 ⟨.zero, .zero, 0⟩ .b1 .crew 0
  | .prfD g l m => packM 0x128 g nil9 m .b1 .crew (match l with | .l1 => 0 | .l2 => 1 | .llc => 2)
  | .prfI g m => packM 0x129 g nil9 m .b1 .crew 0
  | .invD g sc m => packM 0x12A g nil9 m .b1 sc 0
  | .invI g sc m => packM 0x12A g nil9 m .b1 sc 1
  | .invIall g sc => packM 0x12A g nil9 ⟨.zero, .zero, 0⟩ .b1 sc 3
  | .invTlb g sc m => packM 0x12A g nil9 m .b1 sc 2
  | .wbk g mem m => packM 0x12B g nil9 m .b1 .crew (0#2 ++ b1 mem)
  | .orsv g k q mask pl => packP 0x160 g nil9 q.enc pl mask.enc (0#3 ++ k)
  | .orel g k mask => packA 0x161 g nil9 nil9 mask.enc nil9 0 (0#4 ++ k)
  | .omap g k m mask pl => packP 0x162 g nil9 m.enc pl mask.enc (0#3 ++ k)
  | .mma g ra rb s m => packA 0x168 g nil9 s.enc m.enc nil9 0 (rb ++ ra)
  | .mmaJoint g ra rb s m => packA 0x168 g nil9 s.enc m.enc nil9 1 (rb ++ ra)
  | .mmaz g ra rb s m => packA 0x169 g nil9 s.enc m.enc nil9 0 (rb ++ ra)
  | .aclr g s m => packA 0x16A g nil9 s.enc m.enc nil9 0 0
  | .ard g lg d s m => packA 0x16B g d.enc s.enc m.enc nil9 (0#2 ++ lg) 0
  | .awr g lg s m a => packA 0x16C g nil9 s.enc m.enc a.enc (0#2 ++ lg) 0
  | .ascl g s m a => packA 0x16D g nil9 s.enc m.enc a.enc 0 0
  | .gang g c k m => packA 0x170 g nil9 k.enc m.enc nil9 0 (0#5 ++ c)
  | .gangLeave g k m => packA 0x170 g nil9 k.enc m.enc nil9 0 0
  | .cpy g nw d o m pl => packP 0x180 g d.enc o.enc pl m.enc (0#6 ++ b1 nw)
  | .cpyT g nw d o m pl => packP 0x181 g d.enc o.enc pl m.enc (0#6 ++ b1 nw)
  | .cwait g p d h m => packA 0x182 g d.enc h.enc m.enc nil9 (0#4 ++ b1 p) 0
  | .node g k kp d o m => packA 0x188 g d.enc o.enc m.enc nil9 (0#2 ++ (b1 kp ++ k)) 0
  | .nlink g f m t => packA 0x189 g nil9 f.enc m.enc t.enc 0 0
  | .narm g h m => packA 0x18A g nil9 h.enc m.enc nil9 0 0
  | .sbind g st q d o m pl => packP 0x190 g d.enc o.enc pl m.enc (0#4 ++ (q ++ b1 st))
  | .srun g h m => packA 0x191 g nil9 h.enc m.enc nil9 0 0
  | .sstop g h m => packA 0x192 g nil9 h.enc m.enc nil9 0 0
  | .rfill g rg r d a m => packA 0x198 g d.enc a.enc m.enc nil9 (0#4 ++ b1 rg) (0#4 ++ r)
  | .rdrain g r d a m => packA 0x199 g d.enc a.enc m.enc nil9 0 (0#4 ++ r)
  | .spawn g f t a => packA 0x1B0 g nil9 t.enc a.enc nil9 0 (0#3 ++ f)
  | .launch g p => packA 0x1B1 g nil9 p.enc nil9 nil9 0 0
  | .qbind g q d s => packA 0x1B8 g (0#1 ++ d) s.enc nil9 nil9 0 (0#6 ++ q)
  | .qpop g q => packA 0x1B9 g nil9 nil9 nil9 nil9 0 (0#6 ++ q)
  | .qpush g q => packA 0x1BA g nil9 nil9 nil9 nil9 0 (0#6 ++ q)
  | .sigPut g r n => packA 0x1C0 g nil9 n.enc nil9 nil9 0 (0#4 ++ r)
  | .sigTake g r n => packA 0x1C0 g nil9 n.enc nil9 nil9 0 (1#4 ++ r)
  | .sigFill g w r d n => packA 0x1C0 g d.enc n.enc nil9 nil9 0 (0#1 ++ (b1 w ++ (2#2 ++ r)))
  | .sigRoom g w r d n => packA 0x1C0 g d.enc n.enc nil9 nil9 0 (0#1 ++ (b1 w ++ (3#2 ++ r)))
  | .gate g k => packI 0x1C1 g nil9 nil9 (0#27 ++ k)
  | .rel g k => packI 0x1C2 g nil9 nil9 (0#27 ++ k)
  | .tbrd g n d i => packA 0x1D0 g d.enc i.enc nil9 nil9 0 (0#5 ++ n)
  | .tbwr g n i w => packA 0x1D1 g nil9 i.enc w.enc nil9 0 (0#5 ++ n)
  | .tbwrSwap g i j => packA 0x1D1 g nil9 i.enc j.enc nil9 1 2
  | .ccreq g z f => packA 0x1D8 g nil9 z.enc f.enc nil9 0 0
  | .ccrel g z => packA 0x1D9 g nil9 z.enc nil9 nil9 0 0
  | .bread g mb d => packA 0x1E0 g d.enc nil9 nil9 nil9 0 (0#7 ++ b1 mb)
  | .bgive g mb c a => packA 0x1E1 g nil9 c.enc a.enc nil9 0 (0#7 ++ b1 mb)
  | .btopAdd g mb c a => packA 0x1E2 g nil9 c.enc a.enc nil9 0 (0#7 ++ b1 mb)
  | .btopSet g mb c a => packA 0x1E2 g nil9 c.enc a.enc nil9 0 (1#7 ++ b1 mb)
  | .tick g d => packA 0x1E8 g d.enc nil9 nil9 nil9 0 0
  | .tkt g k d => packA 0x1E9 g d.enc nil9 nil9 nil9 0 (0#3 ++ k)
  | .wdogSet g a => packA 0x1EA g nil9 a.enc nil9 nil9 0 0
  | .wdogPet g => packA 0x1EA g nil9 nil9 nil9 nil9 0 1
  | .wdogBeat g => packA 0x1EA g nil9 nil9 nil9 nil9 0 2
  | .pcr g k d => packA 0x1EB g d.enc nil9 nil9 nil9 0 (0#4 ++ k)
  | .crsv g k a => packA 0x1EC g nil9 a.enc nil9 nil9 0 (0#4 ++ k)
  | .trap g c => packI 0x1F0 g nil9 nil9 (0#15 ++ c)
  | .brk g c => packI 0x1F2 g nil9 nil9 (0#15 ++ c)
  | .eretRetry g s m => packA 0x1F1 g nil9 s.enc m.enc nil9 0 0
  | .eretNext g s m => packA 0x1F1 g nil9 s.enc m.enc nil9 0 1
  | .eretCont g s m => packA 0x1F1 g nil9 s.enc m.enc nil9 0 2
  | .eretQuit g s m => packA 0x1F1 g nil9 s.enc m.enc nil9 0 3
  | .halt g c => packA 0x1F3 g nil9 c.enc nil9 nil9 0 0
  | .haltLaunch g i => packA 0x1F3 g nil9 i.enc nil9 nil9 0 1
  | .sysrd g n s d => packI 0x1F8 g d.enc nil9 (0#8 ++ (s ++ n))
  | .syswr g n s a => packI 0x1F9 g nil9 a.enc (0#8 ++ (s ++ n))
  | .migMove g pl => packP 0x1FA g nil9 nil9 pl nil9 0
  | .migSave g s a => packP 0x1FA g nil9 s.enc ⟨0, 0, 0⟩ a.enc 1
  | .migLoad g a pl => packP 0x1FA g nil9 nil9 pl a.enc 2
  | .migLsave g i a => packP 0x1FA g nil9 i.enc ⟨0, 0, 0⟩ a.enc 3
  | .migLload g o a => packP 0x1FA g nil9 o.enc ⟨0, 0, 0⟩ a.enc 4
  | _ => none

/-- The decoder on a word given by its bits, for the host: every instruction form has 64
bits, and the table gives its rows none. -/
def decodeTableWord (nbits w : Nat) : Option Instr :=
  if nbits ≤ 64 ∧ w < 2 ^ 64 then decode (BitVec.ofNat 64 w) else none

end Sys2Proof
end

