-- ==== Sys2Proof/Machine/Bits.lean ====
section
/-! DEFINITION. Bit fields, sign extension, byte order and exact integers of the machine's
words (R5, R10, R74). -/
namespace Sys2Proof.Machine
open Sys2Proof

/-- Bits hi down to lo of a word, as a number (R5). -/
def fld {n : Nat} (w : BitVec n) (hi lo : Nat) : Nat := (w.toNat >>> lo) % 2 ^ (hi + 1 - lo)

/-- Bit i of a word. -/
def bit {n : Nat} (w : BitVec n) (i : Nat) : Bool := w.getLsbD i

/-- The word with bits hi down to lo replaced by the low bits of v. -/
def setFld {n : Nat} (w : BitVec n) (hi lo v : Nat) : BitVec n :=
  let m := BitVec.ofNat n ((2 ^ (hi + 1 - lo) - 1) <<< lo)
  (w &&& ~~~m) ||| (BitVec.ofNat n ((v % 2 ^ (hi + 1 - lo)) <<< lo))

/-- The word with bit i set to b. -/
def setBit {n : Nat} (w : BitVec n) (i : Nat) (b : Bool) : BitVec n := setFld w i i b.toNat

/-- Sign extension of the low k bits of a number to an integer (R10). -/
def sextNat (k v : Nat) : Int :=
  if (v % 2 ^ k) < 2 ^ (k - 1) then (v % 2 ^ k : Nat) else (v % 2 ^ k : Nat) - (2 ^ k : Nat)

/-- An integer modulo 2 to the k. -/
def wrap (k : Nat) (x : Int) : Nat := (x % (2 ^ k : Nat)).toNat

/-- Little-endian bytes of a number, n of them (R5). -/
def toBytes : Nat → Nat → List Byte
  | 0, _ => []
  | n + 1, v => BitVec.ofNat 8 v :: toBytes n (v / 256)

/-- The number that little-endian bytes spell (R5). -/
def ofBytes : List Byte → Nat
  | [] => 0
  | b :: r => b.toNat + 256 * ofBytes r

/-- Byte i of a bit string. -/
def byteOf {n : Nat} (w : BitVec n) (i : Nat) : Byte := BitVec.ofNat 8 (w.toNat >>> (8 * i))

/-- The bit string with byte i replaced. -/
def setByte {n : Nat} (w : BitVec n) (i : Nat) (b : Byte) : BitVec n :=
  setFld w (8 * i + 7) (8 * i) b.toNat

/-- The number of one bits among the low k bits. -/
def popNat : Nat → Nat → Nat
  | 0, _ => 0
  | k + 1, v => v % 2 + popNat k (v / 2)

/-- Zero bits above the highest one bit among the low k bits. -/
def clzNat : Nat → Nat → Nat
  | 0, _ => 0
  | k + 1, v => if v.testBit k then 0 else 1 + clzNat k v

/-- Zero bits below the lowest one bit among the low k bits. -/
def ctzNat : Nat → Nat → Nat
  | 0, _ => 0
  | k + 1, v => if v % 2 = 1 then 0 else 1 + ctzNat k (v / 2)

/-- The low k bits in reverse order. -/
def revNat : Nat → Nat → Nat
  | 0, _ => 0
  | k + 1, v => (v % 2) * 2 ^ k + revNat k (v / 2)

/-- The bits of a 64-bit mask that are set, rising, below w. -/
def lanesOf (w : Nat) (m : W64) : List Nat := (List.range w).filter fun i => m.getLsbD i

/-- The mask of a list of lanes. -/
def maskOf (ls : List Nat) : W64 := ls.foldl (fun m i => m ||| (1#64 <<< i)) 0

/-- The quotient rounded up. -/
def ceilDiv (a b : Nat) : Nat := (a + b - 1) / b

/-- Distinct elements of a list, the first of each kept. -/
def dedup {α : Type} [BEq α] : List α → List α
  | [] => []
  | x :: r => x :: (dedup r).filter fun y => !(y == x)

/-- Insertion into a rising list of numbers, without repeats. -/
def insertNat (k : Nat) : List Nat → List Nat
  | [] => [k]
  | j :: r => if k < j then k :: j :: r else if k = j then j :: r else j :: insertNat k r

end Sys2Proof.Machine

namespace Sys2Proof
open Machine

/-- The width of an integer type (R74). -/
def ITy.width : ITy → Nat
  | .s64 | .n64 => 64
  | .s32 | .n32 => 32
  | .s16 | .n16 => 16
  | .s8 | .n8 => 8

/-- Whether an integer type is signed (R74). -/
def ITy.signed : ITy → Bool
  | .s64 | .s32 | .s16 | .s8 => true
  | _ => false

/-- Whether a type takes a register pair (R65, R99). -/
def ITy.wide : ITy → Bool
  | .s64 | .n64 => true
  | _ => false

/-- The value an operand has as an integer type: upper bits are ignored (R99, R113). -/
def ITy.value (t : ITy) (w : W64) : Int :=
  if t.signed then sextNat t.width w.toNat else (w.toNat % 2 ^ t.width : Nat)

/-- The lowest and the highest value of an integer type (R74). -/
def ITy.lowest (t : ITy) : Int := if t.signed then -((2 ^ (t.width - 1) : Nat) : Int) else 0

def ITy.highest (t : ITy) : Int :=
  if t.signed then ((2 ^ (t.width - 1) : Nat) : Int) - 1 else ((2 ^ t.width : Nat) : Int) - 1

/-- A result of the type's width as its register holds it: narrow signed types are
sign-extended to 32 bits, narrow unsigned ones zero-extended (R99). -/
def ITy.toReg (t : ITy) (v : Nat) : W64 :=
  if t.width < 32 ∧ t.signed then BitVec.ofNat 64 (wrap 32 (sextNat t.width v))
  else BitVec.ofNat 64 (v % 2 ^ t.width)

/-- A result clamped to the range of the type. -/
def ITy.clamp (t : ITy) (x : Int) : Int := min (max x t.lowest) t.highest

end Sys2Proof
end

