-- ==== Sys2Proof/Machine/Float.lean ====
section
/-! DEFINITION. Floating-point values as exact dyadic numbers, rounding by R80 and R81, and
the arithmetic, conversion, codebook and scale functions of chapters 04 and 07. -/
namespace Sys2Proof

/-- A value of a format, or an exact result before rounding: `fin neg m e` is
(-1)^neg * m * 2^e (R75). -/
inductive FVal where
  | nan (neg : Bool)
  | inf (neg : Bool)
  | fin (neg : Bool) (m : Nat) (e : Int)
deriving DecidableEq, Repr

/-- Fraction bits (R75). -/
def FTy.mbits : FTy → Nat
  | .f32 => 23 | .f16 => 10 | .bf16 => 7 | .f8e4 => 3 | .f8e5 => 2

/-- Exponent bits (R75). -/
def FTy.ebits : FTy → Nat
  | .f32 => 8 | .f16 => 5 | .bf16 => 8 | .f8e4 => 4 | .f8e5 => 5

/-- Exponent bias (R75). -/
def FTy.bias : FTy → Nat
  | .f32 => 127 | .f16 => 15 | .bf16 => 127 | .f8e4 => 7 | .f8e5 => 15

/-- Bits of the format. -/
def FTy.width (t : FTy) : Nat := 1 + t.ebits + t.mbits

/-- Whether the format has infinities (R75). -/
def FTy.hasInf : FTy → Bool
  | .f8e4 => false
  | _ => true

/-- The pattern of the largest finite value (R75). -/
def FTy.maxBits : FTy → Nat
  | .f32 => 0x7F7FFFFF | .f16 => 0x7BFF | .bf16 => 0x7F7F | .f8e4 => 0x7E | .f8e5 => 0x7B

/-- The pattern of +infinity, for a format that has one. -/
def FTy.infBits : FTy → Nat
  | .f32 => 0x7F800000 | .f16 => 0x7C00 | .bf16 => 0x7F80 | .f8e4 => 0x7F | .f8e5 => 0x7C

/-- The positive canonical NaN (R77). -/
def FTy.nanBits : FTy → Nat
  | .f32 => 0x7FC00000 | .f16 => 0x7E00 | .bf16 => 0x7FC0 | .f8e4 => 0x7F | .f8e5 => 0x7E

/-- The sign bit of a pattern, at the top of the format. -/
def FTy.signBit (t : FTy) : Nat := 2 ^ (t.ebits + t.mbits)

/-- A pattern with a sign (R75). -/
def FTy.withSign (t : FTy) (neg : Bool) (b : Nat) : Nat := if neg then t.signBit + b else b

/-- Exponent of the smallest normal value. -/
def FTy.emin (t : FTy) : Int := 1 - (t.bias : Int)

/-- The value that a pattern encodes (R75, R76). -/
def FTy.decode (t : FTy) (w : Nat) : FVal :=
  let neg := w.testBit (t.ebits + t.mbits)
  let e := (w >>> t.mbits) % 2 ^ t.ebits
  let f := w % 2 ^ t.mbits
  if e = 0 then .fin neg f (t.emin - t.mbits)
  else if t.hasInf ∧ e = 2 ^ t.ebits - 1 then (if f = 0 then .inf neg else .nan neg)
  else if ¬ t.hasInf ∧ e = 15 ∧ f = 7 then .nan neg
  else .fin neg (2 ^ t.mbits + f) ((e : Int) - t.bias - t.mbits)

/-- The grid index of a magnitude m * 2^e on a step of 2^q, rounded by the mode (R80). -/
def roundGrid (rm : Rm) (neg : Bool) (m : Nat) (e q : Int) : Nat :=
  if q ≤ e then m * 2 ^ (e - q).toNat
  else
    let s := (q - e).toNat
    let d := m / 2 ^ s
    let r := m % 2 ^ s
    let up := match rm with
      | .rn => decide (2 ^ s < 2 * r) || (decide (2 * r = 2 ^ s) && d % 2 == 1)
      | .rz => false
      | .ru => !neg && decide (r ≠ 0)
      | .rd => neg && decide (r ≠ 0)
    if up then d + 1 else d

/-- The pattern that R81 gives to an overflow of sign neg. -/
def FTy.overflow (t : FTy) (rm : Rm) (sat neg : Bool) : Nat :=
  if ¬ t.hasInf then t.withSign neg (if sat then t.maxBits else t.nanBits)
  else if sat then t.withSign neg t.maxBits
  else match rm with
    | .rn => t.withSign neg t.infBits
    | .rz => t.withSign neg t.maxBits
    | .ru => if neg then t.withSign true t.maxBits else t.infBits
    | .rd => if neg then t.withSign true t.infBits else t.maxBits

/-- An exact value rounded to the format (R77, R80, R81). -/
def FTy.round (t : FTy) (rm : Rm) (sat : Bool) : FVal → Nat
  | .nan neg => t.withSign neg t.nanBits
  | .inf neg =>
    if ¬ t.hasInf then t.withSign neg (if sat then t.maxBits else t.nanBits)
    else t.withSign neg (if sat then t.maxBits else t.infBits)
  | .fin neg m e =>
    if m = 0 then t.withSign neg 0
    else
      let ex := max ((Nat.log2 m : Int) + e) t.emin
      let k := roundGrid rm neg m e (ex - t.mbits)
      let b := ((ex - t.emin + 1).toNat * 2 ^ t.mbits + k) - 2 ^ t.mbits
      if t.maxBits < b then t.overflow rm sat neg else t.withSign neg b

namespace FVal

/-- The sign of a value. -/
def neg : FVal → Bool
  | .nan s | .inf s => s
  | .fin s _ _ => s

/-- The value with its sign inverted. -/
def negate : FVal → FVal
  | .nan s => .nan (!s)
  | .inf s => .inf (!s)
  | .fin s m e => .fin (!s) m e

/-- A dyadic value of a signed integer. -/
def ofInt (x : Int) (e : Int) : FVal := .fin (decide (x < 0)) x.natAbs e

/-- The signed integer of a finite value at exponent e, exact when e is at most its own. -/
def scaled (s : Bool) (m : Nat) (e at_ : Int) : Int :=
  let x : Int := (m * 2 ^ (e - at_).toNat : Nat)
  if s then -x else x

/-- The exact sum; an exact zero of operands of different signs is +0, or -0 under `.rd`
(R80, R139). -/
def add (rm : Rm) : FVal → FVal → FVal
  | .nan _, _ | _, .nan _ => .nan false
  | .inf s, .inf u => if s = u then .inf s else .nan false
  | .inf s, .fin .. => .inf s
  | .fin .., .inf u => .inf u
  | .fin s m e, .fin u n f =>
    let q := min e f
    let x := scaled s m e q + scaled u n f q
    if x = 0 then (if s = u then .fin s 0 q else .fin (rm == .rd) 0 q)
    else ofInt x q

/-- The exact product (R139). -/
def mul : FVal → FVal → FVal
  | .nan _, _ | _, .nan _ => .nan false
  | .inf s, .inf u => .inf (s != u)
  | .inf s, .fin u n _ => if n = 0 then .nan false else .inf (s != u)
  | .fin s m _, .inf u => if m = 0 then .nan false else .inf (s != u)
  | .fin s m e, .fin u n f => .fin (s != u) (m * n) (e + f)

/-- A quotient of naturals to more bits than any format holds, its last bit sticky: it
rounds in every mode as the exact quotient does (R80). -/
def divSticky (n d : Nat) : Nat × Int :=
  let s := 320 + Nat.log2 d
  let x := n * 2 ^ s
  (2 * (x / d) + (if x % d = 0 then 0 else 1), -(s : Int) - 1)

/-- The quotient (R139). -/
def div : FVal → FVal → FVal
  | .nan _, _ | _, .nan _ => .nan false
  | .inf _, .inf _ => .nan false
  | .inf s, .fin u _ _ => .inf (s != u)
  | .fin s _ e, .inf u => .fin (s != u) 0 e
  | .fin s m e, .fin u n f =>
    if n = 0 then (if m = 0 then .nan false else .inf (s != u))
    else if m = 0 then .fin (s != u) 0 e
    else let (q, k) := divSticky m n
      .fin (s != u) q (k + e - f)

/-- The integer square root, bit by bit from bit k - 1 down. -/
def isqrt : Nat → Nat → Nat → Nat
  | 0, _, r => r
  | k + 1, n, r => if (r + 2 ^ k) * (r + 2 ^ k) ≤ n then isqrt k n (r + 2 ^ k) else isqrt k n r

/-- The square root of m * 2^e, its last bit sticky. -/
def sqrtSticky (m : Nat) (e : Int) : Nat × Int :=
  let odd := (e % 2).toNat
  let n := m * 2 ^ (240 + odd)
  let r := isqrt 260 n 0
  (2 * r + (if r * r = n then 0 else 1), (e - odd) / 2 - 121)

/-- The square root (R142). -/
def sqrt : FVal → FVal
  | .nan _ => .nan false
  | .inf s => if s then .nan false else .inf false
  | .fin s m e =>
    if m = 0 then .fin s 0 e
    else if s then .nan false
    else let (r, k) := sqrtSticky m e
      .fin false r k

/-- One over the value (R142). -/
def recip (a : FVal) : FVal := div (.fin false 1 0) a

/-- One over the square root (R142): of 1/a as a quotient of integers at an even exponent. -/
def rsqrt : FVal → FVal
  | .nan _ => .nan false
  | .inf s => if s then .nan false else .fin false 0 0
  | .fin s m e =>
    if m = 0 then .inf s
    else if s then .nan false
    else
      let odd := (e % 2).toNat
      let mm := m * 2 ^ odd
      let n := 2 ^ 320 / mm
      let r := isqrt 161 n 0
      let exact := decide (r * r * mm = 2 ^ 320)
      .fin false (2 * r + (if exact then 0 else 1)) (-((e - odd) / 2) - 161)

/-- Comparison of two values that are no NaN, with -0 equal to +0: -1, 0 or 1. -/
def cmp : FVal → FVal → Int
  | .inf s, .inf u => if s = u then 0 else if s then -1 else 1
  | .inf s, _ => if s then -1 else 1
  | _, .inf u => if u then 1 else -1
  | .fin s m e, .fin u n f =>
    let q := min e f
    let x := scaled s m e q - scaled u n f q
    if x < 0 then -1 else if x = 0 then 0 else 1
  | _, _ => 0

/-- Whether a value is a NaN. -/
def isNan : FVal → Bool
  | .nan _ => true
  | _ => false

/-- Whether a value is infinite. -/
def isInf : FVal → Bool
  | .inf _ => true
  | _ => false

/-- Whether the value is a zero. -/
def isZero : FVal → Bool
  | .fin _ m _ => m == 0
  | _ => false

/-- Comparison with -0 below +0 (R94, R140). -/
def below (a b : FVal) : Bool :=
  cmp a b == -1 || (a.isZero && b.isZero && a.neg && !b.neg)

/-- Rounding to an integer (R82, R144): a finite value only. -/
def toInt (rm : Rm) (s : Bool) (m : Nat) (e : Int) : Int :=
  let k : Int := roundGrid rm s m e 0
  if s then -k else k

/-- The value rounded to an integral one (R144); t gives the format's canonical NaN. -/
def roundInt (rm : Rm) : FVal → FVal
  | .nan _ => .nan false
  | .inf s => .inf s
  | .fin s m e =>
    if 0 ≤ e then .fin s m e else .fin s (roundGrid rm s m e 0) 0

end FVal

open Machine

/-- The pattern a register holds for a float operand: upper bits ignored (R137). -/
def FTy.value (t : FTy) (w : W64) : FVal := t.decode (w.toNat % 2 ^ t.width)

/-- A pattern as its register holds it. -/
def FTy.toReg (_t : FTy) (b : Nat) : W64 := BitVec.ofNat 64 b

/-- The rounding of R139: SAT is 0. -/
def FTy.res (t : FTy) (rm : Rm) (v : FVal) : W64 := t.toReg (t.round rm false v)

/-- `fmin` and `fmax` (R140): the operand itself is returned. -/
def FTy.minmax (t : FTy) (isMax : Bool) (a b : W64) : W64 :=
  let x := t.value a
  let y := t.value b
  let pat := fun (w : W64) => t.toReg (w.toNat % 2 ^ t.width)
  if x.isNan then (if y.isNan then t.toReg t.nanBits else pat b)
  else if y.isNan then pat a
  else if isMax then (if FVal.below x y then pat b else pat a)
  else (if FVal.below y x then pat b else pat a)

/-- The class bit of `fclass` (R141). -/
def FTy.classBit (t : FTy) (a : W64) : Nat :=
  match t.value a with
  | .nan _ => 8
  | .inf s => if s then 0 else 7
  | .fin s m _ =>
    let sub := decide (m < 2 ^ t.mbits)
    if m = 0 then (if s then 3 else 4)
    else if sub then (if s then 2 else 5)
    else (if s then 1 else 6)

/-- Whether a condition of `fcmp` holds (R140). -/
def FCond.holds (c : FCond) (x y : FVal) : Bool :=
  let un := x.isNan || y.isNan
  match c with
  | .eq => !un && FVal.cmp x y == 0
  | .ne => !(!un && FVal.cmp x y == 0)
  | .lt => !un && FVal.cmp x y == -1
  | .le => !un && FVal.cmp x y != 1
  | .gt => !un && FVal.cmp x y == 1
  | .ge => !un && FVal.cmp x y != -1
  | .un => un

/-! ### Conversion (R82, R83, R147, R148) -/

/-- Whether a type of `cvt` takes a pair. -/
def NTy.wide : NTy → Bool
  | .int t => t.wide
  | .flt _ => false

/-- A float value as an integer of type t (R82). -/
def FVal.toITy (rm : Rm) (t : ITy) : FVal → Int
  | .nan _ => 0
  | .inf s => if s then t.lowest else t.highest
  | .fin s m e => t.clamp (FVal.toInt rm s m e)

/-- `cvt` in every mode but `.ef` (R148). -/
def cvtVal (rm : Rm) (sat : Bool) (td ts : NTy) (a : W64) : W64 :=
  match ts, td with
  | .flt s, .flt d => d.toReg (d.round rm sat (s.value a))
  | .flt s, .int d => d.toReg (wrap d.width ((s.value a).toITy rm d))
  | .int s, .flt d => d.toReg (d.round rm sat (FVal.ofInt (s.value a) 0))
  | .int s, .int d =>
    let x := s.value a
    d.toReg (wrap d.width (if sat then d.clamp x else x))

/-- `cvt.ef` (R83): the value and the new residue. -/
def cvtEfVal (sat : Bool) (td : FTy) (a c : W64) : W64 × W64 :=
  let x := FTy.f32.value a
  let r := FTy.f32.value c
  let sum := FVal.add .rn x r
  match sum with
  | .nan _ =>
    let s := if x.isNan then x.neg else if r.isNan then r.neg else false
    (td.toReg (td.withSign s td.nanBits), 0)
  | .inf s => (td.toReg (td.round .rn sat (.inf s)), 0)
  | .fin s m e =>
    let y := td.round .rn sat (.fin s m e)
    let over_ := match td.decode (td.round .rn false (.fin s m e)) with
      | .fin .. => false
      | _ => true
    if over_ then (td.toReg y, 0)
    else
      let d := FVal.add .rn (.fin s m e) (td.decode y).negate
      (td.toReg y, if d.isZero then 0 else FTy.f32.res .rn d)

/-! ### Packed forms (R145, R146) -/

/-- `hfma2` (R145). -/
def hfma2Val (rm : Rm) (t : FTy) (a b c : W64) : W64 :=
  let h := fun (i : Nat) =>
    let v := fun (w : W64) => t.decode (fld w (16 * i + 15) (16 * i))
    t.round rm false (FVal.add rm (FVal.mul (v a) (v b)) (v c))
  BitVec.ofNat 64 (h 0 + 65536 * h 1)

/-- The exact value of an 8-bit element of `dp4` (R146). -/
def NTy.elem (t : NTy) (w : Nat) : FVal :=
  match t with
  | .int i => FVal.ofInt (i.value (BitVec.ofNat 64 w)) 0
  | .flt f => f.decode w

/-- The exact sum of a list of values in which an infinity or a NaN decides (R92, R146). -/
def sumExact (rm : Rm) (c : FVal) (l : List FVal) : FVal :=
  l.foldl (fun s v => FVal.add rm s v) c

/-- `dp4` (R146): in the float form an exact zero total takes the sign that R80 gives to the
sum of its terms. -/
def dp4Val (rm : Rm) (ta tb : NTy) (a b c : W64) : W64 :=
  let el := fun (t : NTy) (w : W64) (i : Nat) => t.elem (fld w (8 * i + 7) (8 * i))
  let ps := [0, 1, 2, 3].map fun i => FVal.mul (el ta a i) (el tb b i)
  match ta with
  | .int _ =>
    let x := (ITy.s32.value c) + ([0, 1, 2, 3].map fun i =>
      match el ta a i, el tb b i with
      | .fin s m _, .fin u n _ => FVal.scaled (s != u) (m * n) 0 0
      | _, _ => 0).sum
    BitVec.ofNat 64 (wrap 32 x)
  | .flt _ => FTy.f32.res rm (sumExact rm (FTy.f32.value c) ps)

/-! ### The codebook and the scales (R84, R85, R88, R150 to R152) -/

/-- The levels of the codebook in units of 2^-10 (R84). -/
def cbLevels : List Int :=
  [-1024, -712, -540, -412, -304, -208, -124, -41, 0, 80, 162, 248, 340, 444, 568, 1024]

/-- The level of a code. -/
def cbLevel (k : Nat) : Int := cbLevels.getD k 0

/-- The code of a value against a block scale (R85): a midpoint goes to the level of the
smaller magnitude. -/
def cbCode (v scale : FVal) : Nat :=
  match v, scale with
  | .nan _, _ => 8
  | _, .nan _ => 8
  | _, .inf _ => 8
  | .inf s, .fin u n _ => if n = 0 then 8 else if s != u then 0 else 15
  | .fin s m e, .fin u n f =>
    if n = 0 then 8
    else
      let x := FVal.fin (s != u) m (e + 11)
      (List.range 15).foldl (fun k i =>
        let mid := FVal.mul (FVal.ofInt (cbLevel i + cbLevel (i + 1)) 0) (.fin false n f)
        let c := FVal.cmp x mid
        if c == 1 || (c == 0 && decide (i < 8)) then k + 1 else k) 0

/-- `cbenc` (R151). -/
def cbencVal (nib : Nat) (a scale c : W64) : W64 :=
  let k := cbCode (FTy.f32.value a) (FTy.bf16.value scale)
  setFld (BitVec.ofNat 64 (c.toNat % 2 ^ 32)) (4 * nib + 3) (4 * nib) k

/-- `cbdec` (R152). -/
def cbdecVal (nib : Nat) (a scale : W64) : W64 :=
  let l := cbLevel (fld a (4 * nib + 3) (4 * nib))
  FTy.f32.res .rn (FVal.mul (FVal.ofInt l (-10)) (FTy.bf16.value scale))

/-- The effective Q8 scale of a code under a super-scale, as a `bf16` pattern (R88). -/
def q8Scale (q : Nat) (sup : FVal) : Nat :=
  match sup with
  | .nan _ => FTy.bf16.nanBits
  | .inf s => if q = 0 then FTy.bf16.nanBits else FTy.bf16.withSign s FTy.bf16.infBits
  | .fin s m e =>
    FTy.bf16.round .rn false
      (if q * m = 0 then .fin s 0 0
       else let (x, k) := FVal.divSticky (q * m) 255
         .fin s x (k + e))

/-- The least element of a list of codes that a test accepts. -/
def leastCode (p : Nat → Bool) : List Nat → Nat
  | [] => 255
  | q :: r => if p q then q else leastCode p r

/-- `sclq` (R150). -/
def sclqVal (near : Bool) (a b : W64) : W64 :=
  let x := FTy.f32.value a
  let sup := FTy.f32.value b
  let sc := fun q => FTy.bf16.decode (q8Scale q sup)
  let codes := List.range 256
  let mag := match x with
    | .fin _ m e => FVal.fin false m e
    | v => if v.neg then v.negate else v
  if x.isNan || sup.isNan || sup.isInf || sup.isZero || sup.neg then 0
  else if near then
    match mag with
    | .inf _ => BitVec.ofNat 64 (leastCode (fun q => (sc q).isInf) codes)
    | _ =>
      let dist := fun q => match sc q with
        | .inf _ => FVal.inf false
        | v => (match FVal.add .rn v mag.negate with
          | .fin _ m e => FVal.fin false m e
          | w => w)
      BitVec.ofNat 64 (codes.foldl
        (fun best q => if FVal.cmp (dist q) (dist best) == -1 then q else best) 0)
  else BitVec.ofNat 64 (leastCode (fun q => FVal.cmp (sc q) mag != -1) codes)

/-- The scale that a D4 exponent index names, as a `bf16` pattern (R89). -/
def d4Scale (e : Int) : Nat :=
  if e = -128 then 0
  else
    let r := (e - 4 * (e / 4)).toNat
    let frac := match r with | 0 => 0 | 1 => 24 | 2 => 53 | _ => 87
    (127 + e / 4).toNat * 128 + frac

end Sys2Proof
end

