-- ==== Sys2Proof/Config.lean ====
section
/-! DEFINITION. What an implementation fixes and the manual does not give: the contents of
the read-only stores, the keys, and the signatures the management core makes. Each is an
opaque constant, so no proof can rest on what it is (log entry 6). Also the numbers of the
machine that several files use. -/
namespace Sys2Proof.Config

/-- The bytes of the boot ROM (R411, R415). -/
opaque bootRom : List Byte
/-- The signed firmware image in the recovery store (R414); none when the store cannot be
read (code 0x83, R412). -/
opaque recoveryImage : Option (List Byte)
/-- Key slot 0, the Xegraval P-256 public key x, y (R413). -/
opaque keySlot0 : Nat × Nat
/-- DEVPUB: the public key of die 0, 64 bytes (R415). -/
opaque devPub : List Byte
/-- The four die certificates, 4096 bytes (R403, R415). -/
opaque cert : List Byte
/-- The signature r, s that the device key of die 0 makes over a digest at the n-th request;
ECDSA draws a nonce, so the request number is an argument (R415). -/
opaque attSign : Nat → List Byte → List Byte
/-- The code, entry address and continuation of the Keeper image at boot: what the firmware
image holds beyond its header is not described (R411, R413). -/
opaque keeperEntry : Nat → BitVec 56

/-- What `tkt` with k below 16 returns in the Keeper's crew, which has no launch (R348). -/
opaque keeperTicket : Nat → BitVec 32

/-- The 4 KiB page at which the Keeper of a core puts the record of a crew that it evicts on its
own (R300, R369): the manual leaves the address to it. -/
opaque evictPage : Nat → BitVec 28

/-- The position that the controller gives the inlet valve of a zone for a grant, in a microsecond:
the manual states what it aims at, not the position (R331, R337). -/
opaque valvePos : (zone us grant : Nat) → BitVec 8

/-- The footprint of a Keeper's own crew: what the firmware asks for is not described (R411). -/
opaque keeperFoot : BitVec 64
/-- Where a field of an image's header lies: its offset and its length in bytes, for 0 MAGIC,
1 length, 2 VERSION, 3 MINVER (R413 gives no places). -/
opaque imageField : Nat → Nat × Nat
/-- The bytes of the key slots, the policy bit and the rollback count that MEAS2 is taken over:
their order and form are not described (R415). -/
opaque fuseBytes : Nat × Nat → Option (Nat × Nat) → Bool → Nat → List Byte

/-- Physical cores of the package (R12 to R14). -/
def cores : Nat := 256
/-- The crew slot of the Keeper's own crew in the model: one past the 32 slots of R34. -/
def keeperSlot : Nat := 32
/-- The tenant number of an entry that names none (R319). -/
def noTenant : Nat := 0x7F
/-- Cycles of the model's clock in one microsecond at the nominal 1.8 GHz (R4). -/
def ccPerUs : Nat := 1800

end Sys2Proof.Config
end

