-- ==== Sys2Proof/Machine/State.lean ====
section
/-! DEFINITION. The state of the machine as plain data, and the state after reset. Every
piece of state that the manual names stands here under the record of the unit that holds it;
the fields `now`, `agenda`, `runs` and those said to be the model's own order the steps. -/
namespace Sys2Proof.Machine
open Sys2Proof

/-- The causes of R363, in code order. -/
inductive Cause where
  | illegalClause | illegalInstruction | registerBound | operandAlignment | staleLatch
  | fetchFault
  | translation | pteFormat | permission | attrSplit | alignment | scratchBound
  | privateBound | windowUnowned | domainAbsent
  | placeRange | placeAbsent | targetAlignment | partialBatch | memberExited
  | memberMismatch | memberCrossed | groupNotMember | barrierState | spawnDepth
  | crewNumber | privilege | budgetShort | format
  | recordState | operandPlace | operandSpace | operandRange | accBound | gangState
  | gangMismatch | gangTimeout | handleState | copyOverlap | graphLimit | ringState
  | queueState | orphanQueue | tableIndex | tableState | contextState
  | trap | break_ | step
  | machineCheck | regionStorm | lodgeOverflow
  | budgetYield | watchdog | doorbellMiss | launchRefused | contextFault
  | lowFlow | highDt | gas | coolFailed
  | thermalMigrate | thermalThrottle | emergencySave | coreCaptured | arrayError | ringFault
  | doneFault
deriving DecidableEq, Repr

/-- What a fibre waits for (R352); `blocked` fibres of R38. -/
inductive Wait where
  | rendezvous
  | barrier (grp : Nat)
  | head (rdv commit : Bool) -- whether the opening rendezvouses the crew, and is a commit point
  | queueEmpty (q : Nat)
  | queueFull (q : Nat)
  | producerFault (q : Nat)
  | gate (k : Nat)
  | ring (r : Nat) (room : Bool) (least : Nat)
  | deque (n : Nat)      -- a spawn that needs so many deque entries
  | cwait (h : BitVec 32)
  | remote
  | pageFault
  | budget
  | gang
  | halt                 -- it has executed `halt` (R387)
deriving DecidableEq, Repr

/-- The record of a trapped fibre: its cause, its resume state and where `eret.next` takes
it (R364, R366, R386). -/
structure Trap where
  cause : Cause
  sub : BitVec 8
  code : BitVec 16
  clause : BitVec 56     -- the clause and the position that the record names
  at_ : Nat
  res : BitVec 56        -- the resume state: clause, position, latches 0 to 3
  pos : Nat
  lat : Tab W64
  next : BitVec 56       -- where `eret.next` continues
  data : W64             -- the faulting virtual address, or the physical sector
  delivered : Bool
  group : Nat            -- fibres of one record carry one number
  was : Option Wait      -- the wait of a blocked fibre that a trap of kind C took
  wr : Bool              -- the access that faulted writes (R406)
deriving DecidableEq, Repr

/-- Where a live fibre stands (R31, R38, R364). -/
inductive FibSt where
  | binned               -- its continuation is in a bin
  | running              -- inside a clause
  | blocked (w : Wait)
  | trapped (t : Trap)
  | stopped              -- held at a clause boundary: restart, budget yield, move
  | quitting             -- it has executed quit; its slot is free at the clause's end (R127)
deriving DecidableEq, Repr

/-- A live fibre (R30, R106, R134, R364). The lane is its key in the crew's table. -/
structure Fibre where
  pc : BitVec 56
  rpos : Nat             -- resume position of the bin tag (R37)
  rlat : Tab W64         -- latches of a resumed fibre (R386)
  pred : BitVec 16
  arr : BitVec 4
  stale : BitVec 4       -- arrived bits whose episode has released (R134)
  paid : Bool            -- the fixed charge of the clause it resumes in has been taken (R53)
  st : FibSt
deriving DecidableEq, Repr

/-- A lodge entry's kind (R159). -/
inductive LKind where
  | store | ffAtomic | scratch | device | window | arrival | departure | signal | spawn
deriving DecidableEq, Repr

/-- A child waiting in a deque (R301). -/
structure Child where
  launch : Nat
  number : BitVec 32
  depth : Nat
  entry : BitVec 56
  sparg : W64
  ib : BitVec 48
  mb : BitVec 48
deriving DecidableEq, Repr

/-- The crew whose window or scratchpad a window write was resolved against, with the bases it
had, so that the release finds the bytes again (R169). -/
structure WinOwner where
  tenant : Nat
  number : BitVec 32
  base0 : Nat
  base1 : Nat
  sbase : Nat
  abase : Nat
deriving DecidableEq, Repr

/-- What a held effect does at its release (R28, R197, R198, R301, R306, R315, R330, R334,
R358, R360, R386 to R390). -/
inductive Effect where
  | bytes
  | atom (op : AtomOp) (sgn : Bool) (size : Nat) (l : List (Nat × BitVec 128 × BitVec 128))
                         -- each fibre's address, operand and comparand, home lanes rising (R196)
  | ared (op : AredOp) (size : Nat) (l : List (Nat × W64))
  | dev (pa size : Nat) (w : W64)
  | window (place off : Nat) (owner : WinOwner)
  | arrive (grp : Nat)
  | depart (grp : Nat)
  | sig (ring : Nat) (take : Bool) (n : BitVec 32)
  | rel (k : Nat)
  | children (cs : List Child)
  | launch (vas : List (BitVec 56))
  | tbwr (n idx word : Nat) (w : W64)
  | tbswap (i j : Nat)
  | ccreq (z t f : Nat)
  | ccrel (z : Nat)
  | give (mb : Bool) (target : BitVec 32) (amt : W64)
  | top (set mb : Bool) (launch : Nat) (target : BitVec 32) (amt : W64)
  | beat
  | eret (act slot : Nat) (mask : W64)
  | halt (launch : Nat) (code : BitVec 16) (killed : Bool)
  | syswr (n : BitVec 16) (sel : Nat) (w : W64)
  | migMove (place : Nat)
  | migSave (slot : Nat) (pa : BitVec 56)
  | migLoad (place : Nat) (pa : BitVec 56)
  | migLsave (launch : Nat) (pa : BitVec 56)
  | migLload (d x y : Nat) (pa : BitVec 56)
deriving DecidableEq, Repr

/-- A lodge entry (R159, R161, R187). `sector` is the number of the 64-byte sector of the
physical or on-chip map address. -/
structure LEntry where
  id : Nat
  kind : LKind
  slot : Nat
  rseq : BitVec 16
  sector : Nat
  mask : W64
  data : BitVec 512
  attr : BitVec 3
  cls : BitVec 2
  ev : Bool
  eff : Effect
  home : Option Nat      -- the other die it crosses to
  acked : Bool
  cleared : Bool         -- its region has cleared; it waits for a fence or the acknowledgement
  fence : List Nat       -- engine contexts a fence makes it wait for (R193)
  told : Bool            -- its clear message has been sent (R214)
  back : Bool            -- it waits here for room in the staging of its home (R28)
  mate : Option Nat      -- the entry of the other part of a store that it is one part of (R177)
deriving DecidableEq, Repr

/-- Where an array error has struck (R112, R153, R178): a lane of a register, an element of an
accumulator block or a word of the scratchpad of a crew; a sector of an L1; a line of an instruction
cache; a lodge entry; a word of an operand buffer; an entry of a die's staging, or one that crosses
to it; a sector of an L2, of a last-level cache or of LPDDR-5X. -/
inductive Site where
  | reg (copy : Bool) (v lane : Nat)
  | acc (copy : Bool) (key : Nat)
  | scratch (word : Nat)
  | l1 (core sector : Nat)
  | icache (core line : Nat)
  | lodge (core id : Nat)
  | operand (core word : Nat)
  | staging (core id : Nat)
  | link (core id : Nat)
  | l2 (cluster sector : Nat)
  | llc (sector : Nat)
  | lpddr (sector : Nat)
deriving DecidableEq, Repr

/-- An array error. It comes from outside: the state lists those that strike, each from a cycle on. -/
structure Upset where
  site : Site
  since : Nat
  fixed : Bool                 -- its code corrects it
  told : Option Nat            -- the sector that its report to the Keeper of the home die named
  crews : List (Nat × Nat × BitVec 32) -- resident crews whose next access to its sector takes
                               -- MACHINE_CHECK: core, tenant, number
deriving DecidableEq, Repr

/-- A message on the way from a core to a die, in order of sending (R187, R214, R263). -/
inductive Msg where
  | entry (e : LEntry)
  | clear (slot : Nat) (rseq : BitVec 16) (upTo : Nat)  -- entries up to this identity
  | squash (slot : Nat) (rseq : BitVec 16)
  | access (e : LEntry)
  | unit_ (id : Nat)                                    -- an engine output unit crosses (R263)
  | unitClear (id : Nat)                                -- its clear message
deriving DecidableEq, Repr

/-- What one lane of a load still awaits: the physical address of each byte, the bytes already taken
from the lodge or the L1, and the ATTR and CLASS of the page of each byte (R156, R186). -/
structure LoadReq where
  pas : List Nat
  got : List (Option Byte)
  tags : List (BitVec 3 × BitVec 2)
  ev : Bool
deriving DecidableEq, Repr

/-- One lane of a scoreboarded result (R66): the first register, how many, the value. -/
structure FLane where
  reg : Nat
  n : Nat
  size : Nat
  sx : Bool
  data : BitVec 512
  req : Option LoadReq
  dead : List Nat        -- registers whose write a debugger has cancelled (R382)
deriving DecidableEq, Repr

/-- A scoreboarded issue still in flight for one crew (R66). -/
structure Flight where
  id : Nat
  sbi : Nat
  lanes : Tab FLane
  ready : Bool
deriving DecidableEq, Repr

/-- An open rendezvous of a crew (R46, R130): the instruction's address and position, the
mask of the first arrival, and each arrival's activity and operands. -/
structure Arrival where
  active : Bool
  a : W64
  b : W64
  lat : Tab W64
deriving DecidableEq, Repr

structure Rdv where
  clause : BitVec 56
  pos : Nat
  instr : Instr
  mask : W64
  next : BitVec 56
  arrived : Tab Arrival
  done : Option Nat      -- the cycle in which it completes, once all have arrived
deriving DecidableEq, Repr

/-- An operand record (R232 to R239). -/
structure Rec where
  desc : W64
  map : W64
  first : Nat
  count : Nat
  fault : Option Cause
  relSeq : Option (BitVec 16)   -- the region that released it
deriving DecidableEq, Repr

/-- An operand queue (R303 to R305). -/
structure OQueue where
  out : Bool
  cap : Nat
  off : Nat
  reg : Nat
  tail : Nat
  cur : Tab Nat
  drain : Nat
  rel : Tab Nat                -- released pushes of each lane (R305)
  pend : Tab Nat               -- cursors at the latest clear, whose pushes are being released
  last : Option (Nat × BitVec 16) -- the stream bound last since `qbind`: index, generation
  fresh : Bool                 -- bound in the uncleared region (R310)
deriving DecidableEq, Repr

/-- The parts of a checkpoint that renaming does not hold (R48, R211, R239, R305, R310). -/
structure Ckpt where
  fibres : Tab Fibre
  ib : BitVec 48
  mb : BitVec 48
  cont : W64
  recs : Tab Rec
  queues : Tab OQueue
  spawned : List (BitVec 32)
  rdvs : List Rdv
deriving DecidableEq, Repr

/-- An open or uncleared region (R207, R208, R210, R253). -/
structure Region where
  close : Nat
  win : Nat
  ck : Ckpt
  replay : Option (Tab (BitVec 128))   -- a commit point's record once it has performed
  commit : Bool
  head : BitVec 56
  link : List Nat                      -- slots of the linked regions of a joint mma
  freed : List (Nat × Nat)             -- handles (kind, index) that cwait frees at the clear
  lanes : List Nat                     -- the fibres that issued its first clause
  again : Nat                          -- 1 restarted, and its fibres not yet taken up again
  redo : List Nat                      -- the fibres that have its first clause yet to issue
deriving DecidableEq, Repr

/-- Budget yield (R345) and the marks of moves (R377). -/
inductive YieldSt where
  | none | entering | waiting | complete
deriving DecidableEq, Repr

/-- A performance counter: its programming word and its value (R353, R362). -/
structure PCtr where
  sel : W32
  val : W64
deriving DecidableEq, Repr

/-- A barrier membership of a crew: arrivals sent, releases received (R51, R134). -/
structure BarSt where
  sent : Nat
  released : Nat
deriving DecidableEq, Repr

/-- A crew (R32 to R49, R95 to R111, R227, R342, R352). -/
structure Crew where
  tenant : Nat
  number : BitVec 32
  place : BitVec 8
  depth : Nat
  foot : W64
  base0 : Nat            -- BASE0, BASE1 in units of 1 KiB (R109)
  base1 : Nat
  sbase : Nat            -- core-store byte offset of the scratchpad
  obase : Nat            -- first operand-buffer line of the share
  abase : Nat            -- first accumulator block of the crew in the store
  reg0 : Tab W32         -- key: register * 64 + lane
  reg1 : Tab W32
  cur : BitVec 32
  dirty : BitVec 32
  acc0 : Tab W32         -- key: block * 1024 + row * 16 + column
  acc1 : Tab W32
  acur : W64
  adirty : W64
  scratch : Tab Byte
  fibres : Tab Fibre
  ib : BitVec 48
  mb : BitVec 48
  cont : W64
  gang : W64
  gkeys : List (Nat × W32)
  sb : Tab (BitVec 8)
  flights : List Flight
  rdvs : List Rdv
  rseq : BitVec 16
  region : Option Region
  opening : Nat          -- the next clause opens a region: 1 after a release, 2 as a head does
                         -- (R51, R345, R373)
  woken : Option (BitVec 56 × List Nat) -- a head that its fibres have reached, and those of them
                         -- that have it yet to issue (R48)
  restartAt : Nat        -- earliest cycle of the next clause after a restart (R211)
  storms : Nat
  pressure : Bool
  pressed : Bool         -- the open region is the one-clause region of a pressure flag
  wsig : BitVec 1024
  wsat : Bool
  asig : BitVec 1024
  asat : Bool
  wdLimit : BitVec 24
  wdCount : BitVec 24
  wdFrac : Nat
  wdSaid : Bool
  wdPast : Bool          -- COUNT reached LIMIT before the present cycle
  pctrs : Tab PCtr
  recs : Tab Rec
  queues : Tab OQueue
  gens : Tab (BitVec 16) -- key: kind * 256 + index
  reserve : List (BitVec 32)
  taken : List (BitVec 32)      -- child numbers the open region holds
  resv : List (Nat × BitVec 32) -- ticket reservations the open region holds
  fenced : List Nat      -- contexts that effects after the latest fence wait for (R193)
  fenceId : Nat          -- the newest lodge entry at the latest fence (R193)
  sparg : W64
  groups : List Nat
  bars : Tab BarSt
  dbg : W64
  yield : YieldSt
  move : Option Nat      -- a move marks it, and forces it from this cycle on (R377)
  still : Bool           -- it has stopped for a move (R377)
  ended : Bool
  pause : Bool           -- held at a clause boundary for a compaction (R43, R233)
  stopAll : Bool         -- every fibre of the crew is held (kind C trap pending)
  pendC : Option Cause   -- the kind C trap that is delivered at `restartAt` (R365)
  pendAt : Nat           -- the physical sector of a MACHINE_CHECK there (R366)
  clearedAt : Nat        -- one past the cycle in which its last region cleared; 0 before
  stormed : Bool         -- it has taken REGION_STORM before (R367)
  upsets : List Upset    -- array errors in its window, scratchpad and accumulators (R112)
deriving DecidableEq, Repr

/-- A continuation bin (R37, R39). -/
structure Bin where
  tenant : Nat
  pc : BitVec 56
  rpos : Nat
  narrow : Bool
  lanes : Tab Nat        -- lane to crew slot
  born : Nat
  last : Nat             -- the cycle in which a continuation last entered it
  gather : Bool          -- the tag names a clause of class 1 or 3
  gtime : Nat
  ready : Bool
  forced : Bool
deriving DecidableEq, Repr

/-- What holds a batch at a position (R66, R67, R160, R174, R241, R251 to R255, R278, R405). -/
inductive Hold where
  | lodge | matrix | context | nodeTable | gang | latch | walk | current | remote
deriving DecidableEq, Repr

/-- A batch inside a clause (R36, R64, R114). Latch j of lane l has the key 4 * l + j. -/
structure Run where
  core : Nat
  clause : BitVec 56
  hdr : W64
  words : List W64
  fibres : List (Nat × Nat)    -- (lane, crew slot), lanes rising
  first : Nat                  -- the position it began at
  pos : Nat
  due : Nat
  lat : Tab W64
  hold : Option Hold
  asked : Nat                  -- the cycle in which the hold began
  fails : List (Nat × Cause)   -- pages whose walk failed for this position
  tmp : List (Nat × W64)       -- values that a position computed before it held
  taken : Bool                 -- the part of the charge that depends on values is taken
  conts : Tab (BitVec 56)      -- continuations that the last position set, by lane
  quits : List (Nat × Nat)     -- fibres that quit at the last position
  yields : List (Nat × Nat)    -- fibres that executed yield
  forks : List (Nat × Nat)     -- fibres that fork created in this clause (R129)
  burst : Bool                 -- a vector burst, which holds two units of current (R243)
deriving DecidableEq, Repr

/-- A batch whose clause waits to open a region or for its counters (R66, R423). One that
opens a region holds fibres of one crew. -/
structure WaitB where
  tenant : Nat
  clause : BitVec 56
  hdr : W64
  words : List W64
  fibres : List (Nat × Nat)    -- (lane, crew slot), lanes rising
  rpos : Nat
  from_ : Option Nat           -- the cycle since which its named counters have been zero
  opens : Bool                 -- it waits to open a region
  head : Bool                  -- it opens it as a head does, with the crew's other fibres
  quiet : Bool                 -- it opens the region of a quiet crew (R207, last case)
  slotted : Bool               -- it has its issue slot and opens its region in this cycle
deriving DecidableEq, Repr

/-- A batch that waits for an instruction fetch (R157, R395). -/
structure FetchB where
  tenant : Nat
  pc : BitVec 56
  rpos : Nat
  fibres : List (Nat × Nat)
  partials : Bool              -- issued by force or by the gather timer (R39)
deriving DecidableEq, Repr

/-- A record of the trap queue (R365, R366). -/
structure TrapRec where
  cause : Cause
  cls : Nat
  sub : BitVec 8
  lane : Nat
  slot : Nat
  pos : Nat
  code : BitVec 16
  addr : W64
  data : W64
  at_ : Nat
deriving DecidableEq, Repr

/-- A 256-byte line of the L1 data cache, most recently used first in the list, and the frame of the
core store that holds it (R154). -/
structure L1Line where
  line : Nat
  frame : Nat
  data : BitVec 2048
deriving DecidableEq, Repr

/-- A line of the instruction cache, tagged by virtual address and tenant (R157). -/
structure ILine where
  line : Nat
  tenant : Nat
  data : BitVec 2048
  stamp : Nat
deriving DecidableEq, Repr

/-- A TLB entry: address space, level of the leaf, page number at that level, leaf and where
it lies (R174). -/
structure TlbE where
  pasid : BitVec 20
  level : Nat
  page : Nat
  leaf : W64
  at_ : Nat
deriving DecidableEq, Repr

/-- A table entry of level 0 to 3 that a walk cache holds: address space, level, the bits of the
virtual address above its reach, where it lies and its word (R174; log entry 70). -/
structure WalkE where
  pasid : BitVec 20
  level : Nat
  page : Nat
  at_ : Nat
  entry : W64
deriving DecidableEq, Repr

/-- What a miss is for: an access of a fibre, which waits; a fetch of an instruction line; a prefetch,
which acts once translated; or an engine's access, which is tried again (R157, R174, R200, R266). -/
inductive AskKind where
  | access (lane slot : Nat)
  | fetch (line tenant : Nat)
  | prefetch (tenant : Nat) (lvl : Option PrfLevel)
  | engine
deriving DecidableEq, Repr

/-- One requester of a walk, and what its access is checked for (R173, R174). -/
structure Asker where
  core : Nat
  kind : AskKind
  keeper : Bool
  write : Bool
  fetch : Bool
  va : Nat
deriving DecidableEq, Repr

/-- A miss in the walk queue of a cluster, with those who wait for its walk (R174). -/
structure Miss where
  pasid : BitVec 20
  root : BitVec 41
  va : Nat
  askers : List Asker
deriving DecidableEq, Repr

/-- What one crew brought to a joint entry (R252): its own joint `mma` and where it stands. -/
structure Joint where
  slot : Nat
  instr : Instr
  clause : BitVec 56
  next : BitVec 56
deriving DecidableEq, Repr

/-- An entry of the matrix queue (R241, R248 to R252): the instruction, the crews with
their leaders' spec values, the flight of an `ard`, the values of an `awr` or `ascl`. -/
structure MEntry where
  id : Nat
  instr : Instr
  clause : BitVec 56
  pos : Nat
  next : BitVec 56
  crews : List (Nat × W32)
  vals : Tab W32               -- key: lane * 16 + i for awr, lane for ascl
  lanes : List Nat             -- active named lanes
  flight : Nat
  asked : Bool
  units : Nat                  -- current units granted
  ends : Option Nat
  out : List (Nat × List (Nat × W32))   -- results of an executing entry, by crew slot
  join : List Joint            -- each crew's own joint mma
deriving DecidableEq, Repr

/-- A crew that holds an arrival of `gang` or of a joint `mma` (R251, R252). -/
structure GangArr where
  slot : Nat
  c : Nat
  key : W32
  at_ : Nat
deriving DecidableEq, Repr

/-- A copy context (R255 to R266). -/
structure Ctx where
  slot : Nat
  idx : Nat
  state : Nat                  -- 1 to 4 of R255
  cause : Option Cause
  nw : Bool
  tensor : Bool
  desc : List W64
  place : Nat
  own : Bool                   -- a crew's command; false: a node's
  rseq : Option (BitVec 16)    -- issuing region while it has not cleared
  next : Nat                   -- bytes already staged
  acqDone : Bool
  relStaged : Bool
  wsig : BitVec 1024           -- the release signature as it grows
  wsatd : Bool
  granted : Bool
  asked : Bool                 -- it has asked for its unit of current (R243)
  node : Option Nat
  id : Nat
  fenceId : Nat                -- entries up to this one are released before it reads (R193)
  after : Nat                  -- no chunk before this cycle (R264)
  tctx : W64                   -- the address space of its crew
  who : Nat × BitVec 32        -- tenant and number of its crew
deriving DecidableEq, Repr

/-- A stream (R268 to R270). -/
structure Stream where
  slot : Nat
  idx : Nat
  kind : Nat                   -- 0 load, 1 store, 2 rfill, 3 rfill.ring, 4 rdrain
  q : Nat                      -- queue, or ring
  src : Nat                    -- source ring of rfill.ring
  mask : W64
  prog : List W64
  place : Nat
  total : Nat
  next : Nat
  part : Nat                   -- bytes already staged of a step that waits for staging
  state : Nat                  -- 0 bound, 1 running, 2 done, 3 fault wait, 4 faulted, 5 stopped
  cause : Option Cause
  born : Option (BitVec 16)    -- region that bound it, until the clear
  rseq : Option (BitVec 16)    -- region that started it, until the clear
  stop : Option (Nat × Option (BitVec 16)) -- last step after `sstop`, and that region
  before : Nat                 -- the state in which `sstop` found it (R264)
  after : Nat
  tctx : W64
  who : Nat × BitVec 32
  fenceId : Nat                -- entries up to this one are released before it reads (R193)
deriving DecidableEq, Repr

/-- What an engine output unit does when it is released (R263). -/
inductive UKind where
  | bytes (space place : Nat) (data : List (Nat × Byte)) (owner : Option WinOwner)
  | entry (q : Nat) (vals : Tab W32)
  | pop (q : Nat)
  | advance (ring : Nat) (take : Bool) (src : Option Nat)
  | release
  | launch (va : BitVec 56)
  | signal (va : BitVec 56) (sc : Nat) (sig : BitVec 1024) (sat : Bool)
deriving DecidableEq, Repr

/-- An engine output unit in engine staging (R263). -/
structure Unit_ where
  id : Nat
  kind : UKind
  owner : Nat                  -- 0 a context, 1 a stream, 2 a node
  idx : Nat                    -- its pool number, key or table index
  chunk : Nat                  -- progress to rewind to
  slot : Nat
  rseq : Option (BitVec 16)
  staged : Nat
  win : Nat
  home : Option Nat            -- the other die into whose tagged staging it crosses
  acked : Bool
  back : Bool                  -- it waits here for room in that staging (R28)
  told : Bool                  -- it is released: its clear message has been sent (R214)
deriving DecidableEq, Repr

/-- A graph node (R271, R326). -/
structure Node where
  state : Nat
  kind : Nat
  keep : Bool
  pred : Nat
  succ : List Nat
  slot : Nat
  idx : Nat
  cause : Option Cause
  gen : BitVec 16
  payload : List W64
  armSeq : Option (BitVec 16)  -- a held narm and its region
  bornSeq : Option (BitVec 16) -- region that created it, until the clear
  links : List (Nat × BitVec 16) -- successors added in an uncleared region
  ctx : Option Nat
  fin : Bool                   -- the work it started is complete
  orphan : Bool                -- its owner has ended
  tctx : W64
  who : Nat × BitVec 32
deriving DecidableEq, Repr

/-- An evicted crew kept by the Keeper of the core (R369): its record's address and itself, with
the events that would end a wait of its fibres applied, and the scratchpad bytes that its copies
and streams have written since (R265). -/
structure Evicted where
  crew : Crew
  late : Tab Byte
  addr : BitVec 56
  place : Nat
  wake : Bool
deriving DecidableEq, Repr

/-- A migration request that a Keeper's instruction released (R369, R373, R374, R377). -/
inductive MigReq where
  | save (slot : Nat) (pa : BitVec 56)
  | load (place : Nat) (pa : BitVec 56)
  | enter (d x y : Nat) (pa : BitVec 56)
deriving DecidableEq, Repr

/-- One core (R14). -/
structure Core where
  fectl : W64
  fectlNow : W64               -- the value that governs the bins in this cycle (R40)
  trmode : W64
  qwin : W64
  qstorm : W64
  tblstat : W64
  hbctl : W64
  thctl : W64
  syssel : W64
  caprec : W64
  armed : BitVec 4             -- thermal thresholds armed (R376): MIGT, THROT, SAVE, TRIP
  slots : Tab W64              -- slot table, entries that differ from 0x7F
  reassign : Bool              -- its entries are assigned anew at the end of the cycle (R320)
  slotWr : List (Nat × W64)    -- entries that `tbwr` has written in this cycle (R320)
  crews : Tab Crew
  bins : Tab Bin
  binWait : List (Nat × Nat × Bool)  -- (lane, slot, from yield) that found no bin (R37)
  fetches : List FetchB
  waits : List WaitB
  traps : List TrapRec
  trapWait : List TrapRec
  lost : BitVec 8
  reportAt : Nat               -- one past the cycle of the latest sensor report (R212)
  lodge : List LEntry          -- in order of allocation
  nextId : Nat                 -- the model's own counter of identities
  l1 : List L1Line
  icache : List ILine
  ifills : List (Nat × Nat × Bool) -- line, tenant, demand
  tlb : List TlbE
  ob : Tab Byte                -- operand buffer
  fills : List (Nat × Nat)     -- (crew slot, record) in order of issue
  fillEnd : Option Nat
  fillGot : Tab Byte           -- what multicast has brought for the running fill, by offset in its source core's window (R238)
  wants : List (Nat × W64)     -- restores that wait for room: record address and footprint (R233, R373)
  mq : List MEntry
  gangQ : List GangArr
  latchQ : List GangArr
  deque : List Child           -- oldest first
  lfsr : BitVec 16
  asks : List Effect           -- its `ccreq` and `ccrel` that have reached the coolant controller (R333)
  claim : Option Nat           -- the heat of a placement that the controller has admitted in this cycle (R333)
  tookAt : Nat                 -- one past the cycle in which it last took a crew number (R295)
  probed : Nat                 -- one past the cycle of its Drover's last probe (R54)
  issued : Nat                 -- one past the cycle in which a batch last issued (R55)
  relAt : Nat                  -- one past the cycle of its latest releases, and their number (R209)
  relN : Nat
  ctxs : Tab Ctx               -- by pool number
  ctxTurn : Nat                -- pool number served last (R260)
  engBusy : Nat                -- the engine moves a chunk until this cycle (R260)
  streams : Tab Stream         -- key: crew slot * 8 + index
  units : List Unit_
  nodes : Tab Node             -- by table index
  rings : Tab (BitVec 32 × BitVec 32 × Bool) -- key: launch * 16 + r; PUT, TAKE, fault
  kctrs : Tab PCtr             -- counters 4 to 7
  fixed : Tab W64              -- counters 8 to 15
  tally : List (Nat × Nat × Nat) -- (crew slot, event, count) not yet in the counters (R353)
  tickOff : Nat
  tickStop : Option Nat
  captured : Bool
  halted : Bool                -- held by reset, capture, save, power or the trip
  beats : Nat                  -- consecutive missed beats
  beatSeen : Bool
  beatAt : Nat                 -- start of the current heartbeat period, in microseconds
  slow : Bool                  -- half rate (R376)
  evicted : List Evicted
  ghosts : List Crew           -- ended crews whose copies, streams and nodes run on (R265, R273)
  migs : List MigReq
  moving : Option (Nat × Nat)  -- target core and cycle of the request
  saveSeq : Option Nat         -- an emergency save in progress on this core
  prqBusy : Bool
  prqRes : BitVec 2
  prqReq : W64
  prqAt : Nat                  -- the microsecond of the request (R406)
deriving DecidableEq, Repr

/-- A line of a cluster L2 (R163): the byte marks, and which marked bytes have been written since
the last write-back. -/
structure L2Line where
  line : Nat
  data : BitVec 2048
  mask : BitVec 256
  wrote : BitVec 256
  valid : BitVec 4
  dirty : BitVec 4
  cls : BitVec 2
  stamp : Nat
deriving DecidableEq, Repr

/-- A line of a last-level cache (R165): the byte marks as in the L2. Its address gives its die, its
stacked die and its set. -/
structure LLine where
  data : BitVec 2048
  mask : BitVec 256
  dirty : BitVec 4
  stamp : Nat
deriving DecidableEq, Repr

/-- A request for current that waits (R243). -/
structure CurReq where
  core : Nat
  who : Nat                    -- 0 the matrix queue, 1 a vector burst, 2 + i context i
  units : Nat
  at_ : Nat                    -- the cycle of the request
deriving DecidableEq, Repr

/-- One cluster (R15). -/
structure Cluster where
  quota : W64
  curcap : W64
  curQ : List CurReq
  l2 : List L2Line
  stamp : Nat
  tlb : List TlbE
  wcache : List WalkE
  failed : List (Asker × BitVec 20 × Cause) -- walks that failed for a fetch or an engine (R173)
  misses : List Miss
  pstate : BitVec 3            -- power state of the cluster (R418)
  near : Bool                  -- near-threshold (R421)
  idle : Nat                   -- cycle since which no matrix entry or burst has run (R421)
  used : Nat                   -- issue slots used since then
  retryAt : Nat                -- next try of a change that found no quiesce point
  change : Option (Nat × Nat)  -- a change that waits for a quiesce point: kind, since
deriving DecidableEq, Repr

/-- An entry in the tagged staging of a die (R161). -/
structure StEntry where
  core : Nat
  e : LEntry
deriving DecidableEq, Repr

/-- A side record (R229). -/
structure SideRec where
  sat : Bool
  sig : BitVec 1024
  stamp : Nat
deriving DecidableEq, Repr

/-- One die (R16). -/
structure Die where
  staging : List StEntry
  units : List (Nat × Nat)     -- engine units in the staging: (core, identity) (R263)
  cleared : List (Nat × Nat × BitVec 16 × Nat) -- clear messages that passed entries which wait
  side : Tab SideRec           -- by sector number
  marks : List Nat             -- sectors whose record was evicted
  stamp : Nat
deriving DecidableEq, Repr

/-- A ring declaration (R290). -/
structure RingDecl where
  base : BitVec 56
  count : Nat
  size : Nat
deriving DecidableEq, Repr

/-- A group of a launch: its set and the words of R318 that change. -/
structure Group where
  v : Bool
  first : Nat
  count : Nat
  stride : Nat
  episode : BitVec 32
  departed : BitVec 32
  arrived : Nat                -- arrivals of the open episode at the top level
deriving DecidableEq, Repr

/-- A ticket counter with its returned values (R348). -/
structure TkCtr where
  next : BitVec 32
  back : List (BitVec 32)      -- rising
deriving DecidableEq, Repr

/-- A launch record (R289, R295): the packet with its queue. -/
structure Posted where
  packet : List W64
  pasid : BitVec 20
  qnum : BitVec 12
  cb : Nat                     -- control block, 0: none
  recent : Nat                 -- entry of the recent-launch list
  tno : Nat                    -- the number of its ticket
  pred : Option (Nat × Nat × Nat) -- predecessor: control block, recent entry, ticket number
  node : Option (Nat × Nat)    -- core and node of a launch node
  fromCrew : Option (Nat × Nat)
  va : BitVec 56               -- the packet's address for LAUNCH_REFUSED
deriving DecidableEq, Repr

/-- An active launch (R295 to R302, R317, R348). -/
structure Launch where
  post : Posted
  foot : W64
  image : BitVec 56
  entry : BitVec 56
  contA : BitVec 56
  groups : Tab Group
  rings : Tab RingDecl
  stages : Nat
  taken : Nat                  -- crew counter
  childs : Nat                 -- child count
  alive : List (BitVec 32)     -- assigned numbers whose crew has not ended and cleared
  given : List (BitVec 32)     -- child numbers assigned so far
  grants : List (BitVec 32 × Bool × Bool × W64) -- changes for crews not yet placed: number,
                               -- `%mb`, whether set or added, amount (R358)
  gate : BitVec 16
  tk : Tab TkCtr
  tctx : W64
  top : Nat                    -- the barrier level of its rectangle (R51): core, cluster, die,
                               -- package
  bup : Tab Nat                -- barrier arrivals waiting at a unit; key: see Barrier
  bdep : Tab Nat               -- departures waiting at a unit
deriving DecidableEq, Repr

/-- What a walker slot does (R287, R291). -/
inductive WState where
  | read | reread (due : Nat) (w : Option W64) | poll (due : Nat) | barHeld | full
deriving DecidableEq, Repr

/-- A walker slot (R287). -/
structure Walker where
  cb : Nat
  st : WState
  packet : List W64
deriving DecidableEq, Repr

/-- The steps of the boot ROM (R411). -/
inductive BootSt where
  | reset                      -- before step 1
  | waitGo (since : Nat)       -- step 2
  | running                    -- step 5 done
  | failed
deriving DecidableEq, Repr

/-- A coolant zone: the entry of R331 and the controller's timers. -/
structure Zone where
  w0 : W64
  w1 : W64
  w2 : W64
  w3 : W64
  gasNow : Bool                -- a gas report in the current verification
  stepAt : Nat                 -- start of the current step, in microseconds
  lowAt : Option Nat
  hotAt : Option Nat
deriving DecidableEq, Repr

/-- A change of a budget on its way to its crew: applied after the charges of the cycle in which it
was released, in order of the issuing core (R346). -/
structure Change where
  core : Nat
  tenant : Nat
  giver : Option (BitVec 32)   -- the crew that gives (R358); none for the Keeper's `btop`
  target : BitVec 32
  mb : Bool
  set : Bool
  amt : W64
deriving DecidableEq, Repr

/-- The module: its tables, the queue unit, the coolant controller, the management core, the
ports (13, 14, 19). -/
structure Module where
  places : Tab W64             -- entries that are not zero
  placesNow : Tab W64          -- those by which places resolve in this cycle (R323)
  sensLat : Tab (BitVec 12)    -- LAT of sensors where it differs from SHIP
  sensOff : List Nat           -- sensors with EN = 0
  zones : Tab Zone
  coolAt : Nat                 -- when the coolant controller's timer started, in microseconds
  flowQ : List Nat             -- zones with a request, in order of arrival
  coolctl : W64
  cbhbase : W64
  ktctx : W64                  -- the address space of the Keepers (R171)
  esctl : W64
  missed : Nat                 -- doorbells dropped (R286)
  walkQ : List Nat
  walkers : Tab Walker
  tickets : List (Nat × Posted) -- posted and not yet checked, by ticket number
  posted : BitVec 32
  take : TkCtr
  claimed : List (Nat × Nat)   -- (core, ticket) claims
  barred : List Posted         -- launches of crews and nodes with BAR = 1, until those before them complete (R288, R309)
  pendIn : List Launch         -- checked launches that wait for an entry
  launches : Tab Launch
  recents : Tab Nat            -- ticket number of entry i of control block b; key: b + i
  roots : Tab (BitVec 41)      -- root table of an address space, from TCTX
  bootctl : W64
  bootstat : W64
  boot : BootSt
  stageImg : Option (List Byte) -- the image being booted
  keySlot1 : Option (Nat × Nat)
  policy : Bool
  rollback : Nat
  keybuf : List Byte
  meas : Tab (List Byte)
  attnonce : List Byte
  attctl : W64
  attsig : List Byte
  attWork : Option (List Byte) -- the nonce that is being signed
  attCount : Nat
  bistctl : W64
  bistFailed : List (BitVec 16)
  bistBusy : Bool
  bistDone : Bool
  bistRefused : Bool
  bad : List Nat               -- cores that are not usable
  hoststat : W64
  linkDown : Option Nat        -- since when LINK has been 0, in microseconds
  msi : Nat                    -- MSI-X vector 0 signals sent
  cvcfg : W64
  dommap : Tab W64
  msgtx : W64
  msgSend : Option (List Byte)
  msgrx : W64
  outbox : List (Nat × Nat × List Byte)
  hostReads : List (List Byte) -- data returned to host reads
  atsDone : Nat                -- ATS invalidations completed
  ats : List (BitVec 20 × Nat × Nat × List (Nat × Nat)) -- invalidations that wait
  pwrctl : W64
  pstate : BitVec 3
  stagger : List (Nat × Nat)   -- units to come up: (time in microseconds, unit)
  modcool : W64
  leakAt : Option Nat
  railCut : Bool
  saving : Bool
  keepers : Bool               -- the Keepers run
  changes : List Change        -- of this cycle (R346)
deriving DecidableEq, Repr

/-- The machine. `mem` holds the physical memory behind the last-level caches, in the
canonical form of `Memory.wf`; `llc` holds the lines of the last-level caches, by line number, and
`upsets` the array errors that strike memories shared or kept outside a crew. `agenda`, `runs` and `now` are the model's own (log entries 3 and 4). -/
structure State where
  now : Nat
  agenda : List (Nat × Instr)
  runs : List Run
  cores : Tab Core
  clusters : Tab Cluster
  dies : Tab Die
  net : Tab (List Msg)         -- key: core * 4 + die
  mem : List Host.Cell
  llc : Tab LLine
  upsets : List Upset
  mod : Module
deriving DecidableEq, Repr

/-- The reasons the machine stops with a fault. -/
inductive Fault where
  /-- Raised by the meaning of an instruction form when no batch is inside a clause: an
  instruction takes effect only for the batch that issues it (R36). Safe: `step` never runs an
  instruction form in such a state. -/
  | noBatch
deriving DecidableEq, Repr

/-- The reasons the machine refuses a step. -/
inductive Refusal where
  /-- The arm of an instruction that has no meaning in the model yet. Safe. -/
  | notModelled (mnemonic : String)
deriving DecidableEq, Repr

/-- A core at reset: the register values of R40, R90, R206, R213, R351, R375; no crew; held
(R411). -/
def Core.reset (c : Nat) : Core :=
  { fectl := 0x10000020, fectlNow := 0x10000020, trmode := 1, qwin := 0x008800A0, qstorm := 0x800000000
    tblstat := 0, hbctl := 0x03E80003, thctl := 0x007D73695F000040, syssel := 0
    caprec := 0, armed := 15
    slots := .empty, reassign := false, slotWr := [], crews := .empty, bins := .empty, binWait := [], fetches := [], waits := []
    traps := [], trapWait := [], lost := 0, reportAt := 0, lodge := [], nextId := 0
    l1 := [], icache := [], ifills := [], tlb := [], ob := .empty, fills := []
    fillEnd := none, fillGot := .empty, wants := [], mq := [], gangQ := [], latchQ := [], deque := []
    lfsr := BitVec.ofNat 16 (c + 1), asks := [], claim := none, tookAt := 0, probed := 0, issued := 0, relAt := 0
    relN := 0
    ctxs := .empty, ctxTurn := 0, engBusy := 0, streams := .empty
    units := [], nodes := .empty, rings := .empty, kctrs := .empty, fixed := .empty
    tally := []
    tickOff := 0, tickStop := none, captured := false, halted := true
    beats := 0, beatSeen := false, beatAt := 0, slow := false, evicted := [], ghosts := [], migs := []
    moving := none, saveSeq := none
    prqBusy := false, prqRes := 0, prqReq := 0, prqAt := 0 }

/-- A cluster at reset (R164, R243). -/
def Cluster.reset : Cluster :=
  { quota := 0x84210, curcap := 64, curQ := [], l2 := [], stamp := 0
    tlb := [], wcache := [], failed := [], misses := [], pstate := 0, near := false, idle := 0, used := 0
    retryAt := 0, change := none }

/-- A die at reset. -/
def Die.reset : Die := { staging := [], units := [], cleared := [], side := .empty, marks := [], stamp := 0 }

/-- A coolant zone at reset (R331): no tenant, GRANT 20, STATE RUN, VPOS 255. -/
def Zone.reset : Zone :=
  { w0 := 0x7F14002000000000, w1 := 0x00FF000000000000, w2 := 0, w3 := 0
    gasNow := false, stepAt := 0, lowAt := none, hotAt := none }

/-- The module at reset (R332, R338, R379, R405, R408 to R412, R417, R419, R422). -/
def Module.reset : Module :=
  { places := .empty, placesNow := .empty, sensLat := .empty, sensOff := [], zones := .empty, coolAt := 0, flowQ := []
    coolctl := 0x0F5014001194, cbhbase := 0, ktctx := 0, esctl := 0, missed := 0, walkQ := []
    walkers := .empty, tickets := [], posted := 0, take := ⟨0, []⟩, claimed := [], barred := []
    pendIn := [], launches := .empty, recents := .empty, roots := .empty
    bootctl := 0, bootstat := 0xFF000000, boot := .reset, stageImg := none
    keySlot1 := none, policy := false, rollback := 0, keybuf := []
    meas := .empty, attnonce := [], attctl := 0, attsig := [], attWork := none, attCount := 0
    bistctl := 0, bistFailed := [], bistBusy := false, bistDone := false, bistRefused := false
    bad := [], hoststat := 0, linkDown := none, msi := 0, cvcfg := 0, dommap := .empty
    msgtx := 0, msgSend := none, msgrx := 0, outbox := [], hostReads := [], atsDone := 0
    ats := [], pwrctl := 0x140001, pstate := 0, stagger := [], modcool := 0, leakAt := none
    railCut := false, saving := false, keepers := false, changes := [] }

/-- The machine right after reset: every register at the value the manual gives, no crew, no
batch, nothing in any queue, memory with nothing listed. -/
def State.reset : State :=
  { now := 0, agenda := [], runs := [], cores := .empty, clusters := .empty, dies := .empty
    net := .empty, mem := [], llc := .empty, upsets := [], mod := Module.reset }

end Sys2Proof.Machine
end

