-- ==== Sys2Proof/Machine/Flags.lean ====
section
/-! DEFINITION. Predicates, guards and conditions (R61 to R63, R106, R121, R131, R140): the
machine has no other flags. -/
namespace Sys2Proof

/-- Whether a guard makes a fibre active: GEN = 0, or p[GIDX] xor GNEG (R61, R62). -/
def Guard.holds (g : Guard) (p : BitVec 16) : Bool := !g.en || (p.getLsbD g.idx.toNat != g.neg)

/-- Whether a fibre takes, by the condition of format C (R63, R125). -/
def CCond.takes (c : CCond) (p : BitVec 16) : Bool :=
  !c.cond || (p.getLsbD c.idx.toNat != c.neg)

/-- An integer condition on two values of a type (R121). -/
def Cond.holds (c : Cond) (a b : Int) : Bool :=
  match c with
  | .eq => a == b
  | .ne => a != b
  | .lt => decide (a < b)
  | .le => decide (a ≤ b)
  | .gt => decide (b < a)
  | .ge => decide (b ≤ a)

end Sys2Proof

namespace Sys2Proof.Machine
open Sys2Proof

/-- The predicate word with p[i] set to a value (R106). -/
def predPut (p : BitVec 16) (i : BitVec 4) (b : Bool) : BitVec 16 :=
  if b then p ||| (1#16 <<< i.toNat) else p &&& ~~~(1#16 <<< i.toNat)

/-- The result of an integer comparison under a type (R121). -/
def cmpFlag (c : Cond) (t : ITy) (a b : W64) : Bool := c.holds (t.value a) (t.value b)

/-- The ballot and the agreement of `vote` (R131): B, A, the result in pS, the count. -/
def voteFlag (m : VoteMode) (ballot actives : W64) : Option Bool :=
  match m with
  | .every => some (ballot == actives)
  | .none => some (ballot == 0)
  | .split => some (ballot != 0 && ballot != actives)
  | .mask => Option.none

end Sys2Proof.Machine
end

