-- ==== Sys2Proof/Machine/Ops.lean ====
section
/-! DEFINITION. The named operations over the state: units and crews, register windows with
renaming (R96 to R103), the batch inside a clause (R36, R64, R114), taking a trap and
returning from one (R363 to R367, R386), and the continuation bins (R37, R42). -/
namespace Sys2Proof.Machine
open Sys2Proof

/-- What a step answers. -/
abbrev Out := Host.Outcome State Fault Refusal

/-! ### Units and crews -/

namespace State

/-- The core with a physical number; a core never touched is as at reset. -/
def core (s : State) (c : Nat) : Core := s.cores.getD c (Core.reset c)

def setCore (s : State) (c : Nat) (k : Core) : State := { s with cores := s.cores.put c k }

def mapCore (s : State) (c : Nat) (f : Core → Core) : State := s.setCore c (f (s.core c))

/-- The cluster with number 0 to 31: physical core div 8 (R13). -/
def cluster (s : State) (k : Nat) : Cluster := s.clusters.getD k Cluster.reset

def setCluster (s : State) (k : Nat) (v : Cluster) : State :=
  { s with clusters := s.clusters.put k v }

def mapCluster (s : State) (k : Nat) (f : Cluster → Cluster) : State :=
  s.setCluster k (f (s.cluster k))

def die (s : State) (d : Nat) : Die := s.dies.getD d Die.reset

def mapDie (s : State) (d : Nat) (f : Die → Die) : State :=
  { s with dies := s.dies.put d (f (s.die d)) }

def mapMod (s : State) (f : Module → Module) : State := { s with mod := f s.mod }

/-- The crew in a slot of a core (R34). -/
def crew? (s : State) (c slot : Nat) : Option Crew := (s.core c).crews.get? slot

def setCrew (s : State) (c slot : Nat) (k : Crew) : State :=
  s.mapCore c fun co => { co with crews := co.crews.put slot k }

def mapCrew (s : State) (c slot : Nat) (f : Crew → Crew) : State :=
  match s.crew? c slot with
  | some k => s.setCrew c slot (f k)
  | none => s

def fibre? (s : State) (c slot lane : Nat) : Option Fibre :=
  (s.crew? c slot).bind fun k => k.fibres.get? lane

def mapFibre (s : State) (c slot lane : Nat) (f : Fibre → Fibre) : State :=
  s.mapCrew c slot fun k =>
    match k.fibres.get? lane with
    | some x => { k with fibres := k.fibres.put lane (f x) }
    | none => k

/-- The launch under an active index (R295). -/
def launch? (s : State) (a : Nat) : Option Launch := s.mod.launches.get? a

def mapLaunch (s : State) (a : Nat) (f : Launch → Launch) : State :=
  match s.launch? a with
  | some l => s.mapMod fun m => { m with launches := m.launches.put a (f l) }
  | none => s

end State

/-- The cluster and the die of a physical core (R13). -/
def clusterOf (c : Nat) : Nat := c / 8
def dieOf (c : Nat) : Nat := c / 64

/-- The home die of a physical address; device registers have die 0 (R17). -/
def homeOf (pa : Nat) : Nat :=
  if 0x20000000000 ≤ pa ∧ pa < 0x20100000000 then 0
  else pa / 4096 % 4

/-- Whether a crew slot is the Keeper's (R55, R366). -/
def isKeeper (slot : Nat) : Bool := slot == Config.keeperSlot

/-- The resident crews of a core besides its Keeper's own, by slot. -/
def guests (co : Core) : List (Nat × Crew) := co.crews.cells.filter fun p => !isKeeper p.1

/-- The cycles of the model's clock in one cycle of a core (R22, R376, R421): every time that the
manual gives in cc of a core's clock counts so many of them. -/
def clockDiv (s : State) (c : Nat) : Nat :=
  (if (s.core c).slow then 2 else 1) * (if (s.cluster (clusterOf c)).near then 4 else 1)

/-- A fixed counter of a core raised by n (R353). -/
def countFixed (s : State) (c k n : Nat) : State :=
  s.mapCore c fun co =>
    { co with fixed := co.fixed.put k (co.fixed.getD k 0 + BitVec.ofNat 64 n) }

/-! ### Array errors (R112, R153, R178) -/

/-- The array errors that have struck some sites: of a crew's own store, or of the memories outside
the crews. -/
def struck (s : State) (w : Option (Nat × Nat)) (p : Site → Bool) : List Upset :=
  (match w with
    | some (c, slot) => match s.crew? c slot with | some k => k.upsets | none => []
    | none => s.upsets).filter fun u => decide (u.since ≤ s.now) && p u.site

/-- The list that those errors stand in, changed. -/
def mapUpsets (s : State) (w : Option (Nat × Nat)) (f : List Upset → List Upset) : State :=
  match w with
  | some (c, slot) => s.mapCrew c slot fun k => { k with upsets := f k.upsets }
  | none => { s with upsets := f s.upsets }

/-- A read of some sites for a core: the errors that the codes correct are corrected and counted, and
the answer is a site at which one is left (R112, R178). -/
def readSites (s : State) (c : Nat) (w : Option (Nat × Nat)) (p : Site → Bool) :
    State × Option Site :=
  let l := struck s w p
  let mended := l.filter (·.fixed)
  (if mended.isEmpty then s
   else countFixed (mapUpsets s w fun us => us.filter fun u => !mended.contains u) c 11 mended.length,
   (l.find? fun u => !u.fixed).map (·.site))

/-- What a write makes whole holds no error any more (log entry 74). -/
def State.heal (s : State) (p : Site → Bool) : State :=
  { s with upsets := s.upsets.filter fun u => !p u.site }

/-- The same of a crew's own store. -/
def Crew.heal (k : Crew) (p : Site → Bool) : Crew :=
  { k with upsets := k.upsets.filter fun u => !p u.site }

/-- The same cell of the other copy. -/
def Site.other : Site → Site
  | .reg b v lane => .reg (!b) v lane
  | .acc b key => .acc (!b) key
  | x => x

/-- One copy of a set of cells copied over the other takes its errors along. -/
def Crew.carry (k : Crew) (src : Site → Bool) : Crew :=
  { k with upsets := (k.upsets.filter fun u => !src u.site.other) ++
      (k.upsets.filter fun u => src u.site).map fun u => { u with site := u.site.other } }

/-- The cells of a granule in one copy. -/
def granuleSites (copy : Bool) (g : Nat) : Site → Bool
  | .reg b v _ => b == copy && v / 8 == g
  | _ => false

/-- An event of R353 noted for a crew; the step that notes it brings it into the counters. -/
def note (s : State) (c slot ev n : Nat) : State :=
  if n = 0 then s else s.mapCore c fun co => { co with tally := co.tally ++ [(slot, ev, n)] }

/-! ### The shape of a crew, from its footprint word (R33, R44, R96) -/

/-- Narrow-wave mode. -/
def footNarrow (f : W64) : Bool := bit f 55
/-- Registers per fibre. -/
def footRegs (f : W64) : Nat := 8 * (fld f 47 43 + 1)
/-- Lane slots. -/
def footLanes (f : W64) : Nat := if footNarrow f then 32 else 64

/-! ### Register windows (R96 to R102) -/

/-- The key of a lane of a register in a copy. -/
def regKey (v lane : Nat) : Nat := v * 64 + lane

/-- The current copy of a granule (R100, R101). -/
def regCopy (k : Crew) (g : Nat) : Tab W32 := if bit k.cur g then k.reg1 else k.reg0

/-- A register of a lane, from the current copy of its granule (R100). -/
def regGet (k : Crew) (v lane : Nat) : W32 := (regCopy k (v / 8)).getD (regKey v lane) 0

/-- A table whose entries of one granule are replaced by those of another table. -/
def copyGranule (src dst : Tab W32) (g : Nat) : Tab W32 :=
  ⟨(dst.keep fun i _ => i < g * 512).cells ++
    ((src.keep fun i _ => g * 512 ≤ i && i < g * 512 + 512).cells ++
      (dst.keep fun i _ => g * 512 + 512 ≤ i).cells)⟩

/-- The first write to a granule in a region copies it, all lanes, to the other copy, which
becomes current (R102). -/
def renameGranule (k : Crew) (g : Nat) : Crew :=
  if bit k.dirty g then k
  else
    let k := k.carry (granuleSites (bit k.cur g) g)
    if bit k.cur g then
      { k with reg0 := copyGranule k.reg1 k.reg0 g, cur := setBit k.cur g false
               dirty := setBit k.dirty g true }
    else
      { k with reg1 := copyGranule k.reg0 k.reg1 g, cur := setBit k.cur g true
               dirty := setBit k.dirty g true }

/-- A write into the current copy of a granule. -/
def regPutCur (k : Crew) (v lane : Nat) (w : W32) : Crew :=
  let k := k.heal (· == .reg (bit k.cur (v / 8)) v lane)
  if bit k.cur (v / 8) then { k with reg1 := k.reg1.put (regKey v lane) w }
  else { k with reg0 := k.reg0.put (regKey v lane) w }

/-- A register write by the crew's own instruction or result (R102). -/
def regPut (k : Crew) (v lane : Nat) (w : W32) : Crew :=
  regPutCur (renameGranule k (v / 8)) v lane w

/-- Consecutive registers written from a list (R99). -/
def regPuts (k : Crew) (v lane : Nat) : List W32 → Crew
  | [] => k
  | w :: r => regPuts (regPut k v lane w) (v + 1) lane r

/-- A value of n registers as a number (R99). -/
def regRead (k : Crew) (v lane : Nat) : Nat → Nat
  | 0 => 0
  | n + 1 => (regGet k v lane).toNat + 2 ^ 32 * regRead k (v + 1) lane n

/-- The registers that hold a number, n of them (R99). -/
def splitRegs : Nat → Nat → List W32
  | 0, _ => []
  | n + 1, x => BitVec.ofNat 32 x :: splitRegs n (x / 2 ^ 32)

/-- A number written into n registers (R99). -/
def regWrite (k : Crew) (v lane n x : Nat) : Crew := regPuts k v lane (splitRegs n x)

/-- The restart of the renaming (R102). -/
def regRestore (k : Crew) : Crew := { k with cur := k.cur ^^^ k.dirty, dirty := 0 }

/-- The cycles a granule copy holds the writing batch (R102). -/
def copyCc (k : Crew) : Nat := if footNarrow k.foot then 2 else 4

/-! ### Charges (R114, R344) -/

/-- A charge against both budgets: each falls by the smaller of its value and the charge; the
Keeper's crew is never charged (R342, R344). -/
def chargeCrew (s : State) (c slot ib mb : Nat) : State :=
  if isKeeper slot then s
  else match s.crew? c slot with
    | none => s
    | some k =>
      let k' := { k with ib := BitVec.ofNat 48 (k.ib.toNat - ib)
                         mb := BitVec.ofNat 48 (k.mb.toNat - mb) }
      note (note (s.setCrew c slot k') c slot 11 (min ib k.ib.toNat)) c slot 12 (min mb k.mb.toNat)

/-! ### The batch inside a clause (R36, R64, R66, R114) -/

/-- The key of latch j of a lane (R64). -/
def latKey (lane j : Nat) : Nat := 4 * lane + j

/-- The class of a clause header and its commit and head bits (R58). -/
def hdrClass (h : W64) : Nat := fld h 63 60
def hdrHead (h : W64) : Bool := bit h 55
def hdrCommit (h : W64) : Bool := bit h 54

/-- The address of the clause that follows in memory (R125). -/
def nextClause (clause : BitVec 56) (hdr : W64) : BitVec 56 :=
  clause + BitVec.ofNat 56 (8 * (fld hdr 59 56 + 2))

/-- The target of a format C instruction (R63, R125). -/
def targetOf (clause : BitVec 56) (disp : BitVec 33) : BitVec 56 :=
  clause + BitVec.ofInt 56 (8 * sextNat 33 disp.toNat)

/-- Whether a register of a lane awaits a scoreboarded result (R67). -/
def regPending (k : Crew) (lane v n : Nat) : Bool :=
  k.flights.any fun f =>
    match f.lanes.get? lane with
    | some l => l.reg < v + n && v < l.reg + l.n
    | none => false

/-- Whether the interlock of R67 holds a batch that touches these registers. -/
def interlocked (s : State) (r : Run) (ops : List (Nat × Nat)) : Bool :=
  r.fibres.any fun (lane, slot) =>
    match s.crew? r.core slot with
    | some k => ops.any fun (v, n) => regPending k lane v n
    | none => false

/-- The crew slots of a batch, without repeats. -/
def Run.slots (r : Run) : List Nat := dedup (r.fibres.map (·.2))

/-- The lanes of a crew in a batch. -/
def Run.lanesOf (r : Run) (slot : Nat) : List Nat :=
  (r.fibres.filter fun f => f.2 == slot).map (·.1)

/-- The issue of an instruction moves the close point of its crew's region, and loads the
region's window (R208). -/
def touchRegion (s : State) (c slot : Nat) : State :=
  s.mapCrew c slot fun k =>
    { k with region := k.region.map fun g =>
        { g with close := s.now, win := fld (s.core c).qwin 15 0 } }

def touchRun (s : State) (r : Run) : State := r.slots.foldl (fun s x => touchRegion s r.core x) s

/-- The result of an instruction lands with its last extra cycle, which is then the close
point of its region (R114, R208). -/
def landAt (s : State) (c slot cc : Nat) : State :=
  s.mapCrew c slot fun k =>
    { k with region := k.region.map fun g => { g with close := max g.close (s.now + cc * clockDiv s c) } }

/-- The same for every crew of a batch. -/
def landRun (s : State) (r : Run) (cc : Nat) : State :=
  r.slots.foldl (fun s x => landAt s r.core x cc) s

/-- The other batches, with the batch at the head replaced and moved behind them. -/
def requeue (s : State) (r : Run) : State := { s with runs := s.runs.tail ++ [r] }

/-- A position that does not issue in this cycle is tried again in the next. -/
def retryRun (s : State) (r : Run) : State := requeue s { r with due := s.now + 1 }

/-- Units of current returned to a cluster (R243). -/
def returnUnits (s : State) (k n : Nat) : State :=
  s.mapCluster k fun cl => { cl with curcap := setFld cl.curcap 23 16 (fld cl.curcap 23 16 - n) }

/-- The units of a batch that ends are returned; one that still waits withdraws its request. -/
def endBurst (s : State) (r : Run) : State :=
  if !r.burst then s
  else if r.hold == some .current then
    s.mapCluster (clusterOf r.core) fun cl =>
      { cl with curQ := match cl.curQ.find? fun q => q.core == r.core && q.who == 1 with
          | some q => cl.curQ.erase q
          | none => cl.curQ }
  else returnUnits s (clusterOf r.core) 2

/-- The batch moves past its position: one cycle and the extra cycles of R114, and 4 cc
before the continuations of its last position enter the bins. A batch that holds no fibre and
has created none dissolves. -/
def finish (s : State) (r : Run) (extra : Nat) : State :=
  if r.fibres = [] ∧ r.forks = [] then endBurst { s with runs := s.runs.tail } r
  else
    let last := r.pos + 1 = r.words.length
    requeue s { r with pos := r.pos + 1
                       due := s.now + (extra + if last then 4 else 1) * clockDiv s r.core
                       hold := none, fails := [], tmp := [], taken := false }

/-- The same for an instruction whose result lands with its last extra cycle. -/
def finishLate (s : State) (r : Run) (extra : Nat) : State := finish (landRun s r extra) r extra

/-- The issue of one position of the batch at the head: held by the interlock of R67, or
carried out by the body, which ends with `finish`, `retryRun` or a hold. -/
def issue (ops : State → Run → List (Nat × Nat)) (body : State → Run → State) (s : State) :
    Out :=
  match s.runs with
  | [] => .fault .noBatch
  | r :: _ =>
    if interlocked s r (ops s r) then .next (retryRun s r)
    else .next (body (touchRun s r) r)

/-- Whether the batch is in narrow-wave mode (R36). -/
def Run.narrow (s : State) (r : Run) : Bool :=
  match r.fibres with
  | (_, slot) :: _ => (s.crew? r.core slot).any fun k => footNarrow k.foot
  | [] => false

/-! ### Taking a trap, and returning from one (R363 to R367, R386) -/

/-- The code, kind and class of a cause (R363). -/
def Cause.code : Cause → Nat
  | .illegalClause => 0x01 | .illegalInstruction => 0x02 | .registerBound => 0x03
  | .operandAlignment => 0x04 | .staleLatch => 0x05 | .fetchFault => 0x06
  | .translation => 0x10 | .pteFormat => 0x11 | .permission => 0x12 | .attrSplit => 0x13
  | .alignment => 0x14 | .scratchBound => 0x15 | .privateBound => 0x16
  | .windowUnowned => 0x17 | .domainAbsent => 0x18
  | .placeRange => 0x20 | .placeAbsent => 0x21 | .targetAlignment => 0x22
  | .partialBatch => 0x23 | .memberExited => 0x24 | .memberMismatch => 0x25
  | .memberCrossed => 0x26 | .groupNotMember => 0x27 | .barrierState => 0x28
  | .spawnDepth => 0x29 | .crewNumber => 0x2A | .privilege => 0x2B | .budgetShort => 0x2C
  | .format => 0x2D
  | .recordState => 0x30 | .operandPlace => 0x31 | .operandSpace => 0x32
  | .operandRange => 0x33 | .accBound => 0x34 | .gangState => 0x35 | .gangMismatch => 0x36
  | .gangTimeout => 0x37 | .handleState => 0x38 | .copyOverlap => 0x39 | .graphLimit => 0x3A
  | .ringState => 0x3B | .queueState => 0x3C | .orphanQueue => 0x3D | .tableIndex => 0x3E
  | .tableState => 0x3F | .contextState => 0x40
  | .trap => 0x48 | .break_ => 0x49 | .step => 0x4A
  | .machineCheck => 0x50 | .regionStorm => 0x51 | .lodgeOverflow => 0x52
  | .budgetYield => 0x60 | .watchdog => 0x61 | .doorbellMiss => 0x62 | .launchRefused => 0x63
  | .contextFault => 0x64 | .lowFlow => 0x65 | .highDt => 0x66 | .gas => 0x67
  | .coolFailed => 0x68 | .thermalMigrate => 0x69 | .thermalThrottle => 0x6A
  | .emergencySave => 0x6B | .coreCaptured => 0x6C | .arrayError => 0x6D | .ringFault => 0x6E
  | .doneFault => 0x6F

/-- The class of a cause: the delivery priority of R365, 0 the highest (R363). -/
def Cause.cls (c : Cause) : Nat :=
  let k := c.code
  if k = 0x06 ∨ (0x10 ≤ k ∧ k ≤ 0x18) then 1
  else if k < 0x48 then 2
  else if k < 0x50 then 3
  else if k < 0x60 then 0
  else if (0x65 ≤ k ∧ k ≤ 0x6E) then 0
  else 3

/-- Whether record a is taken before record b: by class, then oldest, then crew slot, then
lane (R365). -/
def recBefore (a b : TrapRec) : Bool :=
  if a.cls ≠ b.cls then a.cls < b.cls
  else if a.at_ ≠ b.at_ then a.at_ < b.at_
  else if a.slot ≠ b.slot then a.slot < b.slot
  else a.lane < b.lane

/-- A record entered in the order in which the Keeper takes records. -/
def recInsert (x : TrapRec) : List TrapRec → List TrapRec
  | [] => [x]
  | y :: r => if recBefore x y then x :: y :: r else y :: recInsert x r

/-- The list without its last record of class 3, the youngest, if there is one. -/
def dropYoungest (l : List TrapRec) : Option (List TrapRec) :=
  let rec go : List TrapRec → Option (List TrapRec)
    | [] => none
    | x :: r => if x.cls = 3 then some r else (go r).map fun t => x :: t
  (go l.reverse).map List.reverse

/-- The trap queue takes a record: 64 entries, a record of class 0 or 1 displacing the
youngest of class 3, every other record waiting (R365, R366). -/
def trapEnter (co : Core) (x : TrapRec) : Core :=
  if co.traps.length < 64 then { co with traps := recInsert x co.traps }
  else if x.cls ≤ 1 then
    match dropYoungest co.traps with
    | some l => { co with traps := recInsert x l
                          lost := if co.lost = 255 then 255 else co.lost + 1 }
    | none => { co with trapWait := recInsert x co.trapWait }
  else { co with trapWait := recInsert x co.trapWait }

/-- Waiting records enter as entries free (R365). -/
def trapRefill (co : Core) : Core :=
  match co.trapWait with
  | x :: r =>
    if co.traps.length < 64 then { co with traps := recInsert x co.traps, trapWait := r } else co
  | [] => co

/-- A report of kind K to the Keeper of a core, delivered in the cycle it is raised (R365). -/
def report (s : State) (c : Nat) (cause : Cause) (slot sub : Nat) (addr data : W64) : State :=
  s.mapCore c fun co => trapEnter co
    { cause, cls := cause.cls, sub := BitVec.ofNat 8 sub, lane := 0, slot, pos := 0, code := 0
      addr, data, at_ := s.now }

/-- The record of a trapped fibre (R365, R366). -/
def trapRecord (now slot lane : Nat) (t : Trap) : TrapRec :=
  { cause := t.cause, cls := t.cause.cls, sub := t.sub, lane, slot, pos := t.at_, code := t.code
    addr := t.clause.setWidth 64, data := if t.cause = .fetchFault then 0 else t.data, at_ := now }

/-- Taking a trap: the fibre is trapped with its resume state, the clause, the position and
the latches, and leaves every bin and batch (R364). -/
def takeTrap (s : State) (c slot lane : Nat) (t : Trap) : State :=
  s.mapFibre c slot lane fun f => { f with pc := t.res, st := .trapped t }

/-- The trap of a cause that a fibre of the batch takes at the batch's position, with the
latches that earlier positions produced (R115, R364). -/
def batchTrap (r : Run) (lane : Nat) (cause : Cause) (data : W64) (group : Nat) : Trap :=
  { cause, sub := 0, code := 0, clause := r.clause, at_ := r.pos, res := r.clause, pos := r.pos
    lat := ⟨(List.range 4).filterMap fun j =>
      (r.lat.get? (latKey lane j)).map fun v => (j, v)⟩
    next := nextClause r.clause r.hdr, data, delivered := false, group, was := none, wr := false }

/-- The batch without a fibre. -/
def Run.drop (r : Run) (lane slot : Nat) : Run :=
  { r with fibres := r.fibres.filter fun f => f != (lane, slot) }

/-- Fibres of the batch that take a trap of their own at its position (R115, R176): each
entry gives lane, slot, cause and data. -/
def trapFibres (s : State) (r : Run) (l : List (Nat × Nat × Cause × W64)) : State × Run :=
  l.foldl (fun (s, r) (lane, slot, cause, data) =>
    (takeTrap s r.core slot lane (batchTrap r lane cause data 0), r.drop lane slot)) (s, r)

/-- A fresh number for the fibres that one record stands for. -/
def freshId (s : State) (c : Nat) : State × Nat :=
  let n := (s.core c).nextId + 1
  (s.mapCore c fun co => { co with nextId := n }, n)

/-! ### Continuation bins (R37, R42) -/

/-- Whether a bin carries a tag. -/
def Bin.tagIs (b : Bin) (tenant : Nat) (pc : BitVec 56) (rpos : Nat) (narrow : Bool) : Bool :=
  b.tenant == tenant && b.pc == pc && b.rpos == rpos && b.narrow == narrow

/-- The older of two bins: the greater age, then the lower index (R37). -/
def binOlder (a b : Nat × Bin) : Bool :=
  a.2.born < b.2.born || (a.2.born == b.2.born && a.1 < b.1)

/-- The first of a list in an order. -/
def pickBy {α : Type} (lt : α → α → Bool) : List α → Option α
  | [] => none
  | x :: r =>
    match pickBy lt r with
    | none => some x
    | some y => if lt y x then some y else some x

/-- The bin that a continuation joins: the oldest with its tag and a free slot in its lane,
for `yield` the youngest (R37, R42). -/
def binFor (co : Core) (tenant : Nat) (pc : BitVec 56) (rpos : Nat) (narrow : Bool)
    (lane : Nat) (young : Bool) : Option (Nat × Bin) :=
  pickBy (fun a b => if young then binOlder b a else binOlder a b)
    (co.bins.cells.filter fun (_, b) =>
      b.tagIs tenant pc rpos narrow && (b.lanes.get? lane).isNone)

/-- The free bin that a continuation takes. R37 says "a free bin" and leaves open which; the
model's choice is the one of lowest index (DESIGN CHOICE, log entry 65). -/
def freeBin (co : Core) : Option Nat :=
  (List.range 64).find? fun i => (co.bins.get? i).isNone

/-- When all bins are in use the oldest that is not gathering, or, where every bin gathers, the
oldest becomes ready at once (R37). -/
def forceBin (co : Core) : Core :=
  let all := co.bins.cells
  let quiet := all.filter fun (_, b) => !b.gather
  match pickBy binOlder (if quiet.isEmpty then all else quiet) with
  | some (i, b) =>
    let b' := { b with ready := true, forced := b.forced || b.gather }
    { co with bins := co.bins.put i b' }
  | none => co

/-- Whether a continuation that waits for a bin will have a place for this one: it has the same
tag, and none that waits with it has the same lane. -/
def sharesWait (s : State) (c slot lane : Nat) (k : Crew) (f : Fibre) : Bool :=
  let same := (s.core c).binWait.filter fun (l, x, _) =>
    !(l == lane && x == slot) && match s.crew? c x, s.fibre? c x l with
      | some k', some f' => k'.tenant == k.tenant && f'.pc == f.pc && f'.rpos == f.rpos &&
          footNarrow k'.foot == footNarrow k.foot
      | _, _ => false
  !same.isEmpty && same.all fun (l, _, _) => l != lane

/-- A fibre's continuation enters the bins of its core at its program counter (R37), in the
order of `yield` where it comes from one (R42). `gather` says that the tag names a clause of
class 1 or 3 (R39). -/
def enterBin (gather : Bool) (s : State) (c slot lane : Nat) (young : Bool) : State :=
  match s.crew? c slot with
  | none => s
  | some k =>
    match k.fibres.get? lane with
    | none => s
    | some f =>
      let co := s.core c
      let narrow := footNarrow k.foot
      match binFor co k.tenant f.pc f.rpos narrow lane young with
      | some (i, b) =>
        let b' := { b with lanes := b.lanes.put lane slot, last := s.now }
        let s := s.setCore c { co with bins := co.bins.put i b' }
        s.mapFibre c slot lane fun f => { f with st := .binned }
      | none =>
        match freeBin co with
        | some i =>
          let b : Bin :=
            { tenant := k.tenant, pc := f.pc, rpos := f.rpos, narrow, lanes := ⟨[(lane, slot)]⟩
              born := s.now, last := s.now, gather, gtime := 0, ready := false, forced := false }
          let s := s.setCore c { co with bins := co.bins.put i b }
          s.mapFibre c slot lane fun f => { f with st := .binned }
        | none =>
          let co' := if sharesWait s c slot lane k f then co else forceBin co
          (s.setCore c { co' with binWait := co'.binWait ++ [(lane, slot, young)] }).mapFibre
            c slot lane fun f => { f with st := .binned }

/-- A fibre leaves the bins: a bin that holds no fibre is free. -/
def leaveBins (s : State) (c slot : Nat) (out : Nat → Bool) : State :=
  s.mapCore c fun co =>
    { co with
      bins := (co.bins.mapKV fun _ b =>
        { b with lanes := b.lanes.keep fun l x => !(x == slot && out l) }).keep
          fun _ b => b.lanes.cells != []
      binWait := co.binWait.filter fun (l, x, _) => !(x == slot && out l) }

end Sys2Proof.Machine
end

