-- ==== Sys2Proof/Machine/Operands.lean ====
section
/-! DEFINITION. The operand forms: which registers and latches an instruction names and how
they are aligned (R64, R65, R99, R183, R194), reading a source, the address of an access
(R181, R156), the place operand (R26, R182, R401), member masks (R46, R244), and the two
shared shapes of an instruction that computes one result at its own position. -/
namespace Sys2Proof

/-- Registers that an integer type takes (R99). -/
def ITy.regs (t : ITy) : Nat := if t.wide then 2 else 1
def NTy.regs (t : NTy) : Nat := if NTy.wide t then 2 else 1

/-- Registers of a data operand (R183). -/
def Size.regs : Size → Nat
  | .b1 | .b2 | .b4 => 1
  | .b8 => 2
  | .b16 => 4

/-- Bytes of an access (R63). -/
def Size.bytes : Size → Nat
  | .b1 => 1 | .b2 => 2 | .b4 => 4 | .b8 => 8 | .b16 => 16

/-- The registers of the value that an L instruction puts into its latch, none for every other
instruction (R64, R70). -/
def Instr.latchRegs : Instr → Option Nat
  | .iadd _ t .. | .isub _ t .. | .imul _ t .. | .imulh _ t .. | .imad _ t .. | .idiv _ t ..
  | .irem _ t .. | .ineg _ t .. | .iabs _ t .. | .imin _ t .. | .imax _ t .. | .and _ t ..
  | .or _ t .. | .xor _ t .. | .andn _ t .. | .not _ t .. | .shl _ t .. | .shr _ t ..
  | .sar _ t .. | .rot _ t .. | .bfx _ t .. | .bfi _ t .. | .popc _ t .. | .clz _ t ..
  | .ctz _ t .. | .brev _ t .. | .mov _ t .. | .sel _ t .. => some t.regs
  | .icmp .. | .acmp .. => some 1
  | .lea .. | .aadd .. | .asub .. => some 2
  | .iaddImm32 .. | .isubImm32 .. | .imulImm32 .. | .andImm32 .. | .orImm32 .. | .xorImm32 ..
  | .shlImm32 .. | .shrImm32 .. | .sarImm32 .. | .aaddImm32 .. | .asubImm32 .. | .movi ..
  | .movw .. => some 1
  | .iaddImm64 .. | .isubImm64 .. | .imulImm64 .. | .andImm64 .. | .orImm64 .. | .xorImm64 ..
  | .shlImm64 .. | .shrImm64 .. | .sarImm64 .. | .aaddImm64 .. | .asubImm64 ..
  | .moviPair .. => some 2
  | .fadd .. | .fsub .. | .fmul .. | .fma .. | .fmin .. | .fmax .. | .fabs .. | .fneg ..
  | .fcmp .. | .fclass .. | .frcp .. | .frsq .. | .fsqrt .. | .fexp2 .. | .flog2 .. | .fsin ..
  | .fcos .. | .fround .. | .fdiv .. | .dp4 .. | .hfma2 .. | .sclq .. | .cvtEf .. | .cbenc ..
  | .cbdec .. => some 1
  | .cvt _ _ _ td .. => some td.regs
  | _ => none

end Sys2Proof

namespace Sys2Proof.Machine
open Sys2Proof

/-! ### Which operands an instruction names -/

/-- An operand: source or destination registers from a base, how many and the alignment of the base; v255,
which a latch may take under an empty destination of one register and which no check covers (R64); or a
latch read with so many registers' width. -/
inductive Opnd where
  | reg (b n align : Nat)
  | dst (b n align : Nat)
  | spare
  | lat (j n : Nat)
deriving DecidableEq, Repr

/-- A source of n registers, aligned to n (R64, R99). -/
def srcOp (x : Src) (n : Nat) : List Opnd :=
  match x with
  | .reg b => [.reg b.toNat n n]
  | .latch j => [.lat j.toNat n]
  | .zero => []

/-- A destination of n registers: a suppressed field names its register too (R64). -/
def dstOp (d : Dst) (n : Nat) : List Opnd :=
  match d with
  | .reg b | .sup b => [.dst b.toNat n n]
  | .none => if n = 1 then [.spare] else []

/-- A member mask: a pair in wide mode, one register in narrow-wave mode (R130, R244). -/
def maskRegs (nw : Bool) : Nat := if nw then 1 else 2

/-- The operand group of an atomic: v(d), or compare and new value of `cas` (R194). DEDUCED (log
entry 77): DATA 0x1FF of a fire-and-forget atomic names v255 (R64), which is an operand and is
checked as one. -/
def atomGroup (op : AtomOp) (d : BitVec 8) (sz : Size) : List Opnd :=
  match op, sz with
  | .cas, .b8 => [.reg d.toNat 4 4]
  | .cas, .b16 => [.reg d.toNat 8 4]
  | .cas, _ => [.reg d.toNat 2 2]
  | _, sz => [.reg d.toNat sz.regs sz.regs]

/-- The address operands of `.g` (a pair base) and of the offset spaces (R179). -/
def addrOps (m : MAddr) (pair : Bool) : List Opnd :=
  srcOp m.base (if pair then 2 else 1) ++ srcOp m.index 1

/-- The operands of an instruction, in the mode of its batch: every field that R65 and R68
check at decode, and that the interlock of R67 covers. -/
def opnds (nw : Bool) : Instr → List Opnd
  | .iadd _ t _ d a b | .isub _ t _ d a b =>
    dstOp d (t.regs) ++ (srcOp a (t.regs) ++ srcOp b (t.regs))
  | .imul _ t d a b | .imulh _ t d a b | .idiv _ t d a b | .irem _ t d a b | .imin _ t d a b
  | .imax _ t d a b | .and _ t d a b | .or _ t d a b | .xor _ t d a b | .andn _ t d a b
  | .shl _ t d a b | .shr _ t d a b | .sar _ t d a b | .rot _ t d a b | .sel _ t _ d a b =>
    dstOp d (t.regs) ++ (srcOp a (t.regs) ++ srcOp b (t.regs))
  | .imad _ t d a b c =>
    dstOp d (t.regs) ++ (srcOp a (t.regs) ++ (srcOp b (t.regs) ++ srcOp c (t.regs)))
  | .ineg _ t _ d a | .iabs _ t _ d a => dstOp d (t.regs) ++ srcOp a (t.regs)
  | .not _ t d a | .popc _ t d a | .clz _ t d a | .ctz _ t d a | .brev _ t d a
  | .mov _ t d a => dstOp d (t.regs) ++ srcOp a (t.regs)
  | .bfx _ t d a sp => dstOp d (t.regs) ++ (srcOp a (t.regs) ++ srcOp sp 1)
  | .bfi _ t d a b sp =>
    dstOp d (t.regs) ++ (srcOp a (t.regs) ++ (srcOp b (t.regs) ++ srcOp sp 1))
  | .icmp _ _ t d a b => dstOp d 1 ++ (srcOp a (t.regs) ++ srcOp b (t.regs))
  | .lea _ w _ d a i => dstOp d 2 ++ (srcOp a 2 ++ srcOp i (if w then 2 else 1))
  | .aadd _ w d a b | .asub _ w d a b => dstOp d 2 ++ (srcOp a 2 ++ srcOp b (if w then 2 else 1))
  | .acmp _ _ d a b => dstOp d 1 ++ (srcOp a 2 ++ srcOp b 2)
  | .iaddImm32 _ d a _ | .isubImm32 _ d a _ | .imulImm32 _ d a _ | .andImm32 _ d a _
  | .orImm32 _ d a _ | .xorImm32 _ d a _ | .shlImm32 _ d a _ | .shrImm32 _ d a _
  | .sarImm32 _ d a _ | .aaddImm32 _ d a _ | .asubImm32 _ d a _ => dstOp d 1 ++ srcOp a 1
  | .movi _ d _ | .movw _ d _ => dstOp d 1
  | .iaddImm64 _ d a _ | .isubImm64 _ d a _ | .imulImm64 _ d a _ | .andImm64 _ d a _
  | .orImm64 _ d a _ | .xorImm64 _ d a _ | .shlImm64 _ d a _ | .shrImm64 _ d a _
  | .sarImm64 _ d a _ | .aaddImm64 _ d a _ | .asubImm64 _ d a _ => dstOp d 2 ++ srcOp a 2
  | .moviPair _ d _ => dstOp d 2
  | .pset _ _ t _ a b => srcOp a (t.regs) ++ srcOp b (t.regs)
  | .pand .. | .por .. | .pxor .. | .pnot .. | .br .. | .quit _ | .yield _ | .cont .. => []
  | .brx _ a | .ret _ a => srcOp a 2
  | .call _ _ l => [.dst l.toNat 2 2]
  | .fork _ _ d => match d with | some r => [.dst r.toNat 1 1] | none => []
  | .vote _ _ _ narrow _ d mask => dstOp d (maskRegs narrow) ++ srcOp mask (maskRegs nw)
  | .shfl _ _ t d a b mask =>
    dstOp d (t.regs) ++ (srcOp a (t.regs) ++ (srcOp b 1 ++ srcOp mask (maskRegs nw)))
  | .red _ _ t d a mask =>
    dstOp d (t.regs) ++ (srcOp a (t.regs) ++ srcOp mask (maskRegs nw))
  | .bar .. | .arrive .. | .await .. | .nop _ => []
  | .fadd _ _ _ d a b | .fsub _ _ _ d a b | .fmul _ _ _ d a b | .fdiv _ _ _ d a b =>
    dstOp d 1 ++ (srcOp a 1 ++ srcOp b 1)
  | .fma _ _ _ d a b c | .hfma2 _ _ _ d a b c => dstOp d 1 ++ (srcOp a 1 ++ (srcOp b 1 ++ srcOp c 1))
  | .fmin _ _ d a b | .fmax _ _ d a b | .sclq _ _ d a b => dstOp d 1 ++ (srcOp a 1 ++ srcOp b 1)
  | .fcmp _ _ _ d a b => dstOp d 1 ++ (srcOp a 1 ++ srcOp b 1)
  | .fabs _ _ d a | .fneg _ _ d a | .fclass _ _ d a | .fexp2 _ _ d a | .flog2 _ _ d a
  | .fsin _ _ d a | .fcos _ _ d a => dstOp d 1 ++ srcOp a 1
  | .frcp _ _ _ d a | .frsq _ _ _ d a | .fsqrt _ _ _ d a | .fround _ _ _ d a =>
    dstOp d 1 ++ srcOp a 1
  | .dp4 _ _ _ _ d a b c => dstOp d 1 ++ (srcOp a 1 ++ (srcOp b 1 ++ srcOp c 1))
  | .cvt _ _ _ td ts d a => dstOp d (td.regs) ++ srcOp a (ts.regs)
  | .cvtEf _ _ _ d a c => dstOp d 1 ++ (srcOp a 1 ++ [.reg c.toNat 1 1])
  | .cbenc _ _ d a sc c => dstOp d 1 ++ (srcOp a 1 ++ (.reg sc.toNat 1 1 :: srcOp c 1))
  | .cbdec _ _ d a sc => dstOp d 1 ++ (srcOp a 1 ++ [.reg sc.toNat 1 1])
  | .ldG _ d m sz _ _ => dstOp d sz.regs ++ addrOps m true
  | .ldGIo _ d m sz => dstOp d sz.regs ++ addrOps m true
  | .ldW _ d m sz _ => dstOp d sz.regs ++ addrOps m true
  | .ldS _ d m sz _ => dstOp d sz.regs ++ addrOps m false
  | .ldP _ d m sz _ _ => dstOp d sz.regs ++ addrOps m false
  | .stG _ a m sz _ => srcOp a sz.regs ++ addrOps m true
  | .stW _ a m sz => srcOp a sz.regs ++ addrOps m true
  | .stS _ a m sz => srcOp a sz.regs ++ addrOps m false
  | .stP _ a m sz _ => srcOp a sz.regs ++ addrOps m false
  | .ldAcq _ d m sz _ => dstOp d sz.regs ++ addrOps m true
  | .stRel _ a m sz _ => srcOp a sz.regs ++ addrOps m true
  | .atomAdd _ d m sz _ _ => atomGroup .add d sz ++ addrOps m true
  | .atomMin _ d m sz _ _ _ => atomGroup .min d sz ++ addrOps m true
  | .atomMax _ d m sz _ _ _ => atomGroup .max d sz ++ addrOps m true
  | .atomAnd _ d m sz _ _ => atomGroup .and d sz ++ addrOps m true
  | .atomOr _ d m sz _ _ => atomGroup .or d sz ++ addrOps m true
  | .atomXor _ d m sz _ _ => atomGroup .xor d sz ++ addrOps m true
  | .atomXchg _ d m sz _ _ => atomGroup .xchg d sz ++ addrOps m true
  | .atomCas _ d m sz _ _ => atomGroup .cas d sz ++ addrOps m true
  | .atomFireAndForget _ op _ d m sz => atomGroup op d sz ++ addrOps m true
  | .ared _ _ a m sz => srcOp a sz.regs ++ addrOps m true
  | .phase .. | .fence _ | .invIall .. => []
  | .prfD _ _ m | .prfI _ m | .invD _ _ m | .invI _ _ m | .invTlb _ _ m | .wbk _ _ m =>
    addrOps m true
  | .orsv _ _ q mask _ => srcOp q 4 ++ srcOp mask (maskRegs nw)
  | .orel _ _ mask => srcOp mask (maskRegs nw)
  | .omap _ _ m mask _ => srcOp m 2 ++ srcOp mask (maskRegs nw)
  | .mma _ _ _ sp mask | .mmaJoint _ _ _ sp mask | .mmaz _ _ _ sp mask =>
    srcOp sp 1 ++ srcOp mask (maskRegs nw)
  | .aclr _ sp mask => srcOp sp 1 ++ srcOp mask (maskRegs nw)
  | .ard _ lg d sp mask =>
    (match d with | .reg b | .sup b => [.dst b.toNat (2 ^ lg.toNat) 1] | .none => []) ++
      (srcOp sp 1 ++ srcOp mask (maskRegs nw))
  | .awr _ lg sp mask a =>
    (match a with
      | .reg b => [.reg b.toNat (2 ^ lg.toNat) 1]
      | .latch j => [.lat j.toNat (2 ^ lg.toNat)]
      | .zero => []) ++ (srcOp sp 1 ++ srcOp mask (maskRegs nw))
  | .ascl _ sp mask a => srcOp a 1 ++ (srcOp sp 1 ++ srcOp mask (maskRegs nw))
  | .gang _ _ k mask | .gangLeave _ k mask => srcOp k 1 ++ srcOp mask (maskRegs nw)
  | .cpy _ _ d o mask _ | .cpyT _ _ d o mask _ =>
    dstOp d 1 ++ (srcOp o 1 ++ srcOp mask (maskRegs nw))
  | .cwait _ _ d h mask => dstOp d 1 ++ (srcOp h 1 ++ srcOp mask (maskRegs nw))
  | .node _ _ _ d o mask => dstOp d 1 ++ (srcOp o 1 ++ srcOp mask (maskRegs nw))
  | .nlink _ f mask t => srcOp f 1 ++ (srcOp t 1 ++ srcOp mask (maskRegs nw))
  | .narm _ h mask | .srun _ h mask | .sstop _ h mask => srcOp h 1 ++ srcOp mask (maskRegs nw)
  | .sbind _ _ _ d o mask _ => dstOp d 1 ++ (srcOp o 1 ++ srcOp mask (maskRegs nw))
  | .rfill _ _ _ d a mask => dstOp d 1 ++ (srcOp a 1 ++ srcOp mask (maskRegs nw))
  | .rdrain _ _ d a mask => dstOp d 1 ++ (srcOp a 1 ++ srcOp mask (maskRegs nw))
  | .spawn _ _ t a => srcOp t 2 ++ srcOp a 2
  | .launch _ p => srcOp p 2
  | .qbind _ _ d sp => .reg d.toNat 1 1 :: srcOp sp 1
  | .qpop .. | .qpush .. | .gate .. | .rel .. => []
  | .sigPut _ _ n | .sigTake _ _ n => srcOp n 1
  | .sigFill _ _ _ d n | .sigRoom _ _ _ d n => dstOp d 1 ++ srcOp n 1
  | .tbrd _ _ d i => dstOp d 2 ++ srcOp i 1
  | .tbwr _ _ i w => srcOp i 1 ++ srcOp w 2
  | .tbwrSwap _ i j => srcOp i 1 ++ srcOp j 1
  | .ccreq _ z f => srcOp z 1 ++ srcOp f 1
  | .ccrel _ z => srcOp z 1
  | .bread _ _ d | .tick _ d | .pcr _ _ d => dstOp d 2
  | .bgive _ _ c a => srcOp c 1 ++ srcOp a 2
  | .btopAdd _ _ c a | .btopSet _ _ c a => srcOp c 2 ++ srcOp a 2
  | .tkt _ _ d => dstOp d 1
  | .wdogSet _ a => srcOp a 1
  | .wdogPet _ | .wdogBeat _ => []
  | .crsv _ _ a => srcOp a 1
  | .trap .. | .brk .. => []
  | .eretRetry _ sl m | .eretNext _ sl m | .eretCont _ sl m | .eretQuit _ sl m =>
    srcOp sl 1 ++ srcOp m 2
  | .halt _ c => srcOp c 1
  | .haltLaunch _ i => srcOp i 1
  | .sysrd _ n _ d => dstOp d (if (sysReg n).any (·.wide) then 2 else 1)
  | .syswr _ n _ a => srcOp a (if (sysReg n).any (·.wide) then 2 else 1)
  | .migMove .. => []
  | .migSave _ sl a => srcOp sl 1 ++ srcOp a 2
  | .migLoad _ a _ => srcOp a 2
  | .migLsave _ i a => srcOp i 1 ++ srcOp a 2
  | .migLload _ o a => srcOp o 1 ++ srcOp a 2
  | _ => []

/-- The registers an instruction touches, for the interlock of R67. -/
def regsOf (nw : Bool) (i : Instr) : List (Nat × Nat) :=
  (opnds nw i).filterMap fun o =>
    match o with
    | .reg b n _ | .dst b n _ => some (b, n)
    | .spare => if i.latchRegs.isSome then some (255, 1) else none
    | .lat .. => none

/-! ### Reading a source -/

/-- The value of a source operand of a lane: one register or latch zero-extended, or a pair
or a whole latch (R64, R99, R113). -/
def srcVal (k : Crew) (r : Run) (lane : Nat) (wide : Bool) : Src → W64
  | .zero => 0
  | .latch j =>
    let v := r.lat.getD (latKey lane j.toNat) 0
    if wide then v else (v.setWidth 32).setWidth 64
  | .reg b =>
    if wide then regGet k (b.toNat + 1) lane ++ regGet k b.toNat lane
    else (regGet k b.toNat lane).setWidth 64

/-- A data operand of n registers as a number (R183). -/
def srcNat (k : Crew) (r : Run) (lane n : Nat) : Src → Nat
  | .zero => 0
  | .latch j => (r.lat.getD (latKey lane j.toNat) 0).toNat % 2 ^ (32 * n)
  | .reg b => regRead k b.toNat lane n

/-! ### The fibres of a batch -/

/-- A fibre of the batch as an instruction sees it: its crew, itself, and whether it is
active (R61, R62). -/
structure LaneCtx where
  lane : Nat
  slot : Nat
  crew : Crew
  fib : Fibre
  act : Bool

/-- The fibres of the batch in order of the lane, under a guard. -/
def lanesUnder (s : State) (r : Run) (g : Guard) : List LaneCtx :=
  r.fibres.filterMap fun (lane, slot) =>
    match s.crew? r.core slot with
    | none => none
    | some k =>
      match k.fibres.get? lane with
      | none => none
      | some f => some { lane, slot, crew := k, fib := f, act := g.holds f.pred }

/-- Those of them that are active. -/
def activeLanes (s : State) (r : Run) (g : Guard) : List LaneCtx :=
  (lanesUnder s r g).filter (·.act)

/-! ### One result at the instruction's own position (R64, R113, R114) -/

/-- The value that the latch of a fibre receives at an L position: the result, or for an
inactive fibre what the register that DST names holds (R64). -/
def latchVal (x : LaneCtx) (wide : Bool) (d : Dst) (v : W64) : W64 :=
  if x.act then v
  else
    match d with
    | .reg b | .sup b =>
      if wide then regGet x.crew (b.toNat + 1) x.lane ++ regGet x.crew b.toNat x.lane
      else (regGet x.crew b.toNat x.lane).setWidth 64
    | .none =>
      if !wide && footRegs x.crew.foot == 256 then (regGet x.crew 255 x.lane).setWidth 64 else 0

/-- The cycles that granule copies hold the batch for these register writes (R102). -/
def renameCc (l : List LaneCtx) (v n : Nat) : Nat :=
  l.foldl (fun m x =>
    let gs := dedup ((List.range n).map fun i => (v + i) / 8)
    max m (copyCc x.crew * (gs.filter fun g => !bit x.crew.dirty g).length)) 0

/-- The granule copies that the register writes of an instruction begin with, where what it
writes is read only after them (R102): the batch is held for them and then issues it. -/
def copyHold (s : State) (r : Run) (l : List LaneCtx) (d : Dst) (n : Nat) : Option State :=
  match d with
  | .reg b =>
    let cc := renameCc l b.toNat n
    if cc = 0 then none
    else
      let gs := dedup ((List.range n).map fun i => (b.toNat + i) / 8)
      some (requeue (l.foldl (fun s x =>
        s.mapCrew r.core x.slot fun k => gs.foldl renameGranule k) s) { r with due := s.now + cc * clockDiv s r.core })
  | _ => none

/-- The crews after each active fibre writes its value into n registers (R62, R102). -/
def writeLanes (s : State) (c v n : Nat) (l : List (LaneCtx × Nat)) : State :=
  l.foldl (fun s (x, w) => s.mapCrew c x.slot fun k => regWrite k v x.lane n w) s

/-- The latches after an L instruction at the batch's position (R64). -/
def fillLatches (r : Run) (l : List (LaneCtx × W64)) : Tab W64 :=
  l.foldl (fun t (x, v) => t.put (latKey x.lane (r.pos % 4)) v) r.lat

/-- An instruction that computes one result per fibre: `f` gives the result from the fibre
and a reader of its sources; `wide` says whether the result is a pair; `extra` is the column
of R114 or R138. -/
def compute (i : Instr) (g : Guard) (d : Dst) (wide : Bool) (extra : Nat)
    (f : LaneCtx → (Bool → Src → W64) → W64) (s : State) : Out :=
  issue (fun s r => regsOf (r.narrow s) i) (fun s r =>
    let l := (lanesUnder s r g).map fun x =>
      (x, latchVal x wide d (f x (srcVal x.crew r x.lane)))
    let w := l.filter fun p => p.1.act
    let n := if wide then 2 else 1
    match d with
    | .reg b =>
      finishLate (writeLanes s r.core b.toNat n (w.map fun p => (p.1, p.2.toNat)))
        { r with lat := fillLatches r l } (extra + renameCc (w.map (·.1)) b.toNat n)
    | _ => finishLate s { r with lat := fillLatches r l } extra) s

/-- An instruction that changes only the predicate words of its active fibres (R106). -/
def onPreds (i : Instr) (g : Guard)
    (f : LaneCtx → (Bool → Src → W64) → BitVec 16) (s : State) : Out :=
  issue (fun s r => regsOf (r.narrow s) i) (fun s r =>
    let l := (activeLanes s r g).map fun x => (x, f x (srcVal x.crew r x.lane))
    finish (l.foldl (fun s (x, p) =>
      s.mapFibre r.core x.slot x.lane fun fb => { fb with pred := p }) s) r 0) s

/-! ### Addresses and places -/

/-- The sum of R181 before it wraps. -/
def addrSum (k : Crew) (r : Run) (lane : Nat) (pair : Bool) (m : MAddr) : Int :=
  let base := srcVal k r lane pair m.base
  let b : Nat := if pair then base.toNat % 2 ^ 56 else base.toNat % 2 ^ 32
  (b : Int) + sextNat 32 (srcVal k r lane false m.index).toNat + sextNat 13 m.off.toNat

/-- The virtual address of a `.g` access (R181). -/
def vaOf (k : Crew) (r : Run) (lane : Nat) (m : MAddr) : Nat :=
  wrap 56 (addrSum k r lane true m)

/-- The offset of a `.s` or `.p` access (R181). -/
def offOf (k : Crew) (r : Run) (lane : Nat) (m : MAddr) : Nat :=
  wrap 32 (addrSum k r lane false m)

/-- The base pair of a `.w` access with its low register alone (R182). -/
def winOff (k : Crew) (r : Run) (lane : Nat) (m : MAddr) : Nat :=
  wrap 32 (((srcVal k r lane true m.base).toNat % 2 ^ 32 : Nat) +
    sextNat 32 (srcVal k r lane false m.index).toNat + sextNat 13 m.off.toNat)

/-- The place of a `.w` access (R182). -/
def winPlace (k : Crew) (r : Run) (lane : Nat) (m : MAddr) : PlaceOp :=
  let w := srcVal k r lane true m.base
  ⟨w.extractLsb' 32 6, w.extractLsb' 40 6, w.extractLsb' 48 3⟩

/-- A rectangle of places: D0, D1, X0, X1, Y0, Y1 (R27, R289). -/
structure Rect where
  d0 : Nat
  d1 : Nat
  x0 : Nat
  x1 : Nat
  y0 : Nat
  y1 : Nat
deriving DecidableEq, Repr

/-- The rectangle of a launch packet's word 0 (R289). -/
def rectOf (w : W64) : Rect :=
  ⟨fld w 17 16, fld w 19 18, fld w 22 20, fld w 25 23, fld w 28 26, fld w 31 29⟩

/-- All 256 places (R401). -/
def allPlaces : Rect := ⟨0, 3, 0, 7, 0, 7⟩

/-- Whether a place lies in a rectangle. -/
def Rect.has (q : Rect) (n : Nat) : Bool :=
  let d := n / 64
  let y := n / 8 % 8
  let x := n % 8
  q.d0 ≤ d && d ≤ q.d1 && q.x0 ≤ x && x ≤ q.x1 && q.y0 ≤ y && y ≤ q.y1

/-- The places of a rectangle, ascending. -/
def Rect.places (q : Rect) : List Nat := (List.range 256).filter q.has

/-- The core that holds a place, if the place is present (R24, R321). -/
def placeCore (s : State) (n : Nat) : Option Nat :=
  let w := s.mod.placesNow.getD n 0
  if bit w 15 then some (fld w 7 0) else none

/-- The lowest place whose present entry names a core. -/
def coreOfPlace? (s : State) (c : Nat) : Option Nat :=
  (List.range 256).find? fun n => placeCore s n == some c

/-- The launch of a crew: by the launch number that its place in the table gives. -/
def crewLaunch (s : State) (k : Crew) : Option Launch := s.launch? k.tenant

/-- The place and rectangle from which a crew's place operands resolve (R26, R401). -/
def placeFrom (s : State) (c slot : Nat) (k : Crew) : Nat × Rect :=
  if isKeeper slot then ((coreOfPlace? s c).getD c, allPlaces)
  else
    (k.place.toNat, match crewLaunch s k with
      | some l => rectOf (l.post.packet.getD 0 0)
      | none => allPlaces)

/-- The place a place operand names, or PLACE_RANGE (R26). -/
def placeNum (n : Nat) (q : Rect) (p : PlaceOp) : Except Cause Nat :=
  let d : Int := n / 64 + sextNat 3 p.dd.toNat
  let x : Int := n % 8 + sextNat 6 p.dx.toNat
  let y : Int := n / 8 % 8 + sextNat 6 p.dy.toNat
  if d < 0 ∨ 3 < d ∨ x < 0 ∨ 7 < x ∨ y < 0 ∨ 7 < y then .error .placeRange
  else
    let m := (64 * d + 8 * y + x).toNat
    if q.has m then .ok m else .error .placeRange

/-- The core of a place operand, or its trap (R26). -/
def placeResolve (s : State) (c slot : Nat) (k : Crew) (p : PlaceOp) : Except Cause (Nat × Nat) :=
  let (n, q) := placeFrom s c slot k
  match placeNum n q p with
  | .error e => .error e
  | .ok m =>
    match placeCore s m with
    | some t => .ok (m, t)
    | none => .error .placeAbsent

end Sys2Proof.Machine
end

