-- ==== Sys2Proof/Machine/Memory.lean ====
section
/-! DEFINITION. The memories (R153 to R178, R186 to R189): the bytes behind the last-level
caches in one canonical form, the caches, translation, the bytes of a window, the lodge, the
signatures and the side records (R227 to R230). -/
namespace Sys2Proof.Machine
open Sys2Proof

/-! ### The bytes of physical memory -/

/-- What a byte that is not listed reads as (log entry 2). -/
def Memory.blank : Byte := 0

/-- The canonical form: addresses strictly rising, no entry equal to the unlisted value. -/
def Memory.wf : List Host.Cell → Bool
  | [] => true
  | [(_, b)] => b != Memory.blank
  | (a, b) :: (c, d) :: r => b != Memory.blank && decide (a < c) && Memory.wf ((c, d) :: r)

/-- The byte at an address. -/
def memGet : List Host.Cell → Nat → Byte
  | [], _ => Memory.blank
  | (a, b) :: r, k => if a = k then b else if k < a then Memory.blank else memGet r k

/-- Memory with one byte written, in canonical form. -/
def memPut : List Host.Cell → Nat → Byte → List Host.Cell
  | [], k, v => if v = Memory.blank then [] else [(k, v)]
  | (a, b) :: r, k, v =>
    if k < a then (if v = Memory.blank then (a, b) :: r else (k, v) :: (a, b) :: r)
    else if a = k then (if v = Memory.blank then r else (k, v) :: r)
    else (a, b) :: memPut r k v

/-- The regions of the physical map (R167). -/
inductive Zone52 where
  | device | chip | regs | domain | host | hole
deriving DecidableEq, Repr

def zoneOf (pa : Nat) : Zone52 :=
  if pa < 0x10000000000 then .device
  else if pa < 0x10020000000 then .chip
  else if 0x20000000000 ≤ pa ∧ pa < 0x20100000000 then .regs
  else if 0x4000000000000 ≤ pa ∧ pa < 0x8000000000000 then .domain
  else if 0x8000000000000 ≤ pa ∧ pa < 0x10000000000000 then .host
  else .hole

/-- The number of this module in its domain (R408). -/
def ownModule (s : State) : Nat := fld s.mod.cvcfg 41 32

/-- An address through the domain range to the module itself reaches its own device memory
(R167). -/
def canonPa (s : State) (pa : Nat) : Nat :=
  if zoneOf pa = .domain ∧ (pa - 0x4000000000000) / 2 ^ 40 = ownModule s then
    (pa - 0x4000000000000) % 2 ^ 40
  else pa

/-- Whether a module of the domain range can be reached: it is a member and a port is up
(R409). -/
def domainPresent (s : State) (pa : Nat) : Bool :=
  let j := (pa - 0x4000000000000) / 2 ^ 40
  j == ownModule s || (bit (s.mod.dommap.getD (j / 64) 0) (j % 64) && fld s.mod.cvcfg 15 0 != 0)

/-- The set of a line of a last-level cache, numbered over the package: its die, its stacked die (the
channel pair) and, by its place in the channels, one of the 2^18 sets of 1 GiB in 16 ways (R16, R165;
log entry 69). -/
def llcSet (line : Nat) : Nat :=
  let channel := line / 64 % 8
  let place := (line / 512 * 2 + channel % 2) * 16 + line % 16
  (line / 16 % 4 * 4 + channel / 2) * 2 ^ 18 + place % 2 ^ 18

/-- The byte that the home of an address holds: that of its last-level cache, else of LPDDR-5X
(R165, R186). -/
def homeGet (s : State) (pa : Nat) : Byte :=
  let a := canonPa s pa
  match s.llc.get? (a / 256) with
  | some x => if bit x.mask (a % 256) then byteOf x.data (a % 256) else memGet s.mem a
  | none => memGet s.mem a

/-- LPDDR-5X with the marked bytes of a line written back: those of a clean sector stand there
already. -/
def llcBack (m : List Host.Cell) (line : Nat) (x : LLine) : List Host.Cell :=
  (List.range 256).foldl (fun m i =>
    if bit x.mask i then memPut m (line * 256 + i) (byteOf x.data i) else m) m

/-- The sectors of a line, in a last-level cache or in LPDDR-5X. -/
def lineSites (cached : Bool) (line : Nat) : Site → Bool
  | .llc n => cached && n / 4 == line
  | .lpddr n => !cached && n / 4 == line
  | _ => false

/-- A line stands in its last-level cache as the most recently used of its set; a line that enters a
full set evicts the least recently used, which is written back (R28, R165). -/
def llcUse (s : State) (line : Nat) : State :=
  let set_ := s.llc.cells.filter fun p => llcSet p.1 == llcSet line
  let top := set_.foldl (fun m p => max m p.2.stamp) 0
  match s.llc.get? line with
  | some x => if x.stamp = top then s else { s with llc := s.llc.put line { x with stamp := top + 1 } }
  | none =>
    let x : LLine := { data := 0, mask := 0, dirty := 0, stamp := top + 1 }
    match if set_.length < 16 then none else pickBy (fun a b => decide (a.2.stamp < b.2.stamp)) set_ with
    | none => { s with llc := s.llc.put line x }.heal (lineSites true line)
    | some v => { s with mem := llcBack s.mem v.1 v.2, llc := (s.llc.del v.1).put line x }.heal
        fun p => lineSites true line p || lineSites false v.1 p

/-- A read of a sector at its home fills it into the last-level cache from LPDDR-5X, but for the
bytes already marked (R165). -/
def llcFill (s : State) (sector : Nat) : State :=
  if zoneOf (64 * sector) ≠ .device then s
  else
    let s1 := llcUse s (sector / 4)
    match s1.llc.get? (sector / 4) with
    | none => s1
    | some x =>
      let y := (List.range 64).foldl (fun (y : LLine) i =>
        let b := 64 * (sector % 4) + i
        if bit y.mask b then y
        else { y with data := setByte y.data b (memGet s1.mem (sector / 4 * 256 + b))
                      mask := setBit y.mask b true }) x
      { s1 with llc := s1.llc.put (sector / 4) y }

/-- A byte written at the home of an address (R165); outside device memory the line has no
last-level cache here (R199, R404). -/
def homePut (s : State) (pa : Nat) (b : Byte) : State :=
  let a := canonPa s pa
  if zoneOf a ≠ .device then { s with mem := memPut s.mem a b }
  else
    let s1 := llcUse s (a / 256)
    let x := s1.llc.getD (a / 256) { data := 0, mask := 0, dirty := 0, stamp := 0 }
    let y : LLine := { x with data := setByte x.data (a % 256) b, mask := setBit x.mask (a % 256) true
                              dirty := setBit x.dirty (a % 256 / 64) true }
    { s1 with llc := s1.llc.put (a / 256) y }

def homeBytes (s : State) (pa n : Nat) : List Byte :=
  (List.range n).map fun i => homeGet s (pa + i)

def homeWord (s : State) (pa n : Nat) : Nat := ofBytes (homeBytes s pa n)

def homePuts (s : State) (pa : Nat) : List Byte → State
  | [] => s
  | b :: r => homePuts (homePut s pa b) (pa + 1) r

/-- The last-level cache writes a line back to LPDDR-5X and keeps it (R165, R202). -/
def llcWriteBack (s : State) (line : Nat) : State :=
  match s.llc.get? line with
  | none => s
  | some x =>
    { s with mem := llcBack s.mem line x, llc := s.llc.put line { x with dirty := 0 } }.heal
      (lineSites false line)

/-! ### The cluster L2 (R163, R164) -/

/-- The set of a line. -/
def l2Set (line : Nat) : Nat := line % 2048

def l2Find (k : Cluster) (line : Nat) : Option L2Line := k.l2.find? fun x => x.line == line

/-- A byte of a line, where the line holds it. -/
def l2Byte (k : Cluster) (pa : Nat) : Option Byte :=
  match l2Find k (pa / 256) with
  | some x => if bit x.mask (pa % 256) then some (byteOf x.data (pa % 256)) else none
  | none => none

def l2Update (k : Cluster) (x : L2Line) : Cluster :=
  { k with l2 := k.l2.map fun y => if y.line = x.line then x else y }

/-- A write-back sends the bytes written in the dirty sectors to their home: what a sector only
filled from there was nobody's write (R163, R218). -/
def l2Clean (s : State) (k : Nat) (line : Nat) : State :=
  match l2Find (s.cluster k) line with
  | none => s
  | some x =>
    let s1 := (List.range 256).foldl (fun s i =>
      if bit x.dirty (i / 64) && bit x.wrote i then homePut s (line * 256 + i) (byteOf x.data i)
      else s) s
    s1.mapCluster k fun c => l2Update c { x with dirty := 0, wrote := 0 }

/-- A line leaves an L2, its dirty sectors written back first. -/
def l2Drop (s : State) (k : Nat) (line : Nat) : State :=
  (l2Clean s k line).mapCluster k fun c => { c with l2 := c.l2.filter fun x => x.line != line }

/-- The quota of a class (R164). -/
def l2Quota (w : W64) (cls : Nat) : Nat := fld w (5 * cls + 4) (5 * cls)

/-- The least recently used of some lines. -/
def l2Lru (l : List L2Line) : Option L2Line := pickBy (fun a b => a.stamp < b.stamp) l

/-- The victim of a fill of a class into a set, none when a way is free (R164). -/
def l2Victim (k : Cluster) (set cls : Nat) : Option L2Line :=
  let l := k.l2.filter fun x => l2Set x.line == set
  if l.length < 16 then none
  else
    let count := fun c => (l.filter fun x => x.cls.toNat == c).length
    if count cls < l2Quota k.quota cls then
      let over_ := l.filter fun x => l2Quota k.quota x.cls.toNat < count x.cls.toNat
      if over_.isEmpty then l2Lru l else l2Lru over_
    else l2Lru (l.filter fun x => x.cls.toNat == cls)

/-- The sectors of an L2 line, or one of them. -/
def l2Sites (k line : Nat) (q : Option Nat) : Site → Bool
  | .l2 x n => x == k && n / 4 == line && q.all fun i => n % 4 == i
  | _ => false

/-- A line allocated in an L2 with nothing marked, its victim written back; an evict-first
line enters as least recently used (R163, R164, R172, R180). -/
def l2Alloc (s : State) (k line : Nat) (cls : BitVec 2) (ev : Bool) : State :=
  match l2Find (s.cluster k) line with
  | some _ => s
  | none =>
    let s1 := match l2Victim (s.cluster k) (l2Set line) cls.toNat with
      | some v => l2Drop s k v.line
      | none => s
    (s1.heal (l2Sites k line none)).mapCluster k fun c =>
      { c with stamp := c.stamp + 1
               l2 := { line, data := 0, mask := 0, wrote := 0, valid := 0, dirty := 0, cls
                       stamp := if ev then 0 else c.stamp + 1 } :: c.l2 }

/-- A hit makes a line the most recently used. -/
def l2Touch (s : State) (k line : Nat) (ev : Bool) : State :=
  if ev then s
  else s.mapCluster k fun c =>
    { c with stamp := c.stamp + 1
             l2 := c.l2.map fun x => if x.line = line then { x with stamp := c.stamp + 1 } else x }

/-- A sector fetched from the home into an L2, filling only the unmarked bytes (R163). -/
def l2Fill (s : State) (k sector : Nat) (cls : BitVec 2) (ev : Bool) : State :=
  let line := sector / 4
  let q := sector % 4
  let s1 := llcFill (l2Touch (l2Alloc s k line cls ev) k line ev) sector
  match l2Find (s1.cluster k) line with
  | none => s1
  | some x =>
    let y := (List.range 64).foldl (fun (y : L2Line) i =>
      let b := 64 * q + i
      if bit y.mask b then y
      else { y with data := setByte y.data b (homeGet s1 (line * 256 + b))
                    mask := setBit y.mask b true }) { x with valid := setBit x.valid q true }
    (if bit x.valid q then s1 else s1.heal (l2Sites k line (some q))).mapCluster k fun c => l2Update c y

/-- A byte read through an L2, which fills its sector where it lacks the byte (R163, R186). -/
def l2Read (s : State) (k pa : Nat) (cls : BitVec 2) (ev : Bool) : State × Byte :=
  match l2Byte (s.cluster k) pa with
  | some b => (l2Touch s k (pa / 256) ev, b)
  | none => (l2Fill s k (pa / 64) cls ev, homeGet s pa)

/-- Bytes written into an L2 line: into a sector that is absent only where the line may be
allocated; dirty where the line is write-back (R18, R163). -/
def l2Put (s : State) (k pa : Nat) (b : Byte) (dirty : Bool) : State :=
  match l2Find (s.cluster k) (pa / 256) with
  | none => s
  | some x =>
    let i := pa % 256
    let q := i / 64
    if dirty then
      s.mapCluster k fun c => l2Update c
        { x with data := setByte x.data i b, mask := setBit x.mask i true
                 wrote := setBit x.wrote i true, valid := setBit x.valid q true, dirty := setBit x.dirty q true }
    else if bit x.valid q then
      s.mapCluster k fun c => l2Update c
        { x with data := setByte x.data i b, mask := setBit x.mask i true }
    else s

/-! ### The core store and the L1 data cache (R154) -/

/-- The bytes of one copy of a crew's window (R34, R43, R105). -/
def winBytes (foot : W64) : Nat :=
  let g := fld foot 47 43 + 1
  let n := if bit foot 54 then 2 ^ Nat.log2 (2 * g - 1) else g
  n * (if footNarrow foot then 1024 else 2048)

/-- The scratchpad bytes of a crew (R33). -/
def scratchBytes (foot : W64) : Nat := fld foot 42 30 * 256

/-- The crews of a core but the Keeper's, which takes nothing of the core's stores (log entry 52). -/
def launchedCrews (co : Core) : List Crew :=
  (guests co).map (·.2)

/-- The ranges of the core store that crews own: start and length (R154). -/
def ownedRanges (co : Core) : List (Nat × Nat) :=
  ((launchedCrews co).map fun k =>
    [(k.base0 * 1024, winBytes k.foot), (k.base1 * 1024, winBytes k.foot),
      (k.sbase, scratchBytes k.foot)]).flatten.filter fun p => p.2 != 0

/-- Whether a frame of 8 KiB holds no byte of any window or scratchpad (R154). -/
def frameFree (rs : List (Nat × Nat)) (f : Nat) : Bool :=
  rs.all fun (a, n) => a + n ≤ f * 8192 || f * 8192 + 8192 ≤ a

/-- The frames that the L1 owns (R154). -/
def l1Frames (co : Core) : List Nat :=
  let rs := ownedRanges co
  (List.range 128).filter (frameFree rs)

/-- L1CFG.WAYS (R154). -/
def l1Ways (co : Core) : Nat := (l1Frames co).length

def l1Find (co : Core) (line : Nat) : Option L1Line := co.l1.find? fun x => x.line == line

/-- Frames that windows and scratchpads have taken lose their lines (R154). -/
def l1Keep (co : Core) : Core :=
  if co.l1.isEmpty then co
  else
    let own := l1Frames co
    { co with l1 := co.l1.filter fun x => own.contains x.frame }

/-- A line enters the L1 in a frame that holds no line of its set, or in place of the set's least
recently used (R154). -/
def l1Insert (co : Core) (line : Nat) (data : BitVec 2048) : Core :=
  let rest := co.l1.filter fun y => y.line != line
  let mine := rest.filter fun y => y.line % 32 == line % 32
  match (l1Frames co).find? fun f => mine.all fun y => y.frame != f with
  | some frame => { co with l1 := { line, frame, data } :: rest }
  | none => match mine.getLast? with
    | some v => { co with l1 := { line, frame := v.frame, data } ::
                    rest.filter fun y => y.line != v.line }
    | none => co

/-- A hit makes an L1 line the most recently used. -/
def l1Touch (co : Core) (line : Nat) : Core :=
  match l1Find co line with
  | some x => { co with l1 := x :: co.l1.filter fun y => y.line != line }
  | none => co

/-- The sectors of a line in a core's L1. -/
def l1Sites (c line : Nat) : Site → Bool
  | .l1 x n => x == c && n / 4 == line
  | _ => false

/-- A 256-byte line filled into the L1 through the L2 (R154, R186). -/
def l1Fill (s : State) (c line : Nat) (cls : BitVec 2) (ev : Bool) : State :=
  let k := clusterOf c
  let s1 := [0, 1, 2, 3].foldl (fun s q => l2Fill s k (line * 4 + q) cls ev) s
  let data := (List.range 256).foldl (fun (d : BitVec 2048) i =>
    match l2Byte (s1.cluster k) (line * 256 + i) with
    | some b => setByte d i b
    | none => setByte d i (homeGet s1 (line * 256 + i))) 0
  (s1.heal (l1Sites c line)).mapCore c fun co => l1Insert co line data

/-- A released byte updates the L1 copy of its line, if there is one (R187). -/
def l1Put (s : State) (c pa : Nat) (b : Byte) : State :=
  match l1Find (s.core c) (pa / 256) with
  | none => s
  | some _ => s.mapCore c fun co =>
      { co with l1 := co.l1.map fun x =>
          if x.line = pa / 256 then { x with data := setByte x.data (pa % 256) b } else x }

def l1Drop (s : State) (c : Nat) (f : Nat → Bool) : State :=
  if (s.core c).l1.all (fun x => !f x.line) then s
  else s.mapCore c fun co => { co with l1 := co.l1.filter fun x => !f x.line }

/-! ### The bytes of a core window (R168, R169) -/

/-- Where a byte of a core window lies. -/
inductive WinTarget where
  | reg (slot v lane byte : Nat)
  | acc (slot block row col byte : Nat)
  | scratch (slot off : Nat)
  | operand (a : Nat)
  | unowned
deriving DecidableEq, Repr

/-- The register byte of a crew's window at an offset in one copy (R97). -/
def winReg (k : Crew) (slot off : Nat) : WinTarget :=
  let g := if footNarrow k.foot then 1024 else 2048
  let v := off / g * 8 + off % g / (g / 8)
  if v < footRegs k.foot then .reg slot v (off % (g / 8) / 4) (off % 4) else .unowned

/-- The target of a window offset (R168, R169). The Keeper's crew lies outside the core's stores (log
entry 52). -/
def winTarget (co : Core) (o : Nat) : WinTarget :=
  let crews := co.crews.cells.filter fun p => !isKeeper p.1
  if o < 0x100000 then
    (crews.findSome? fun (slot, k) =>
      let n := winBytes k.foot
      let b0 := k.base0 * 1024
      let b1 := k.base1 * 1024
      if b0 ≤ o ∧ o < b0 + n then some (winReg k slot (o - b0))
      else if b1 ≤ o ∧ o < b1 + n then some (winReg k slot (o - b1))
      else if k.sbase ≤ o ∧ o < k.sbase + scratchBytes k.foot then
        some (.scratch slot (o - k.sbase))
      else none).getD .unowned
  else if o < 0x180000 then
    let b := (o - 0x100000) / 4096
    (crews.findSome? fun (slot, k) =>
      let n := fld k.foot 29 22
      if k.abase ≤ b ∧ b < k.abase + 2 * n then
        some (.acc slot ((b - k.abase) % (max n 1)) (o % 4096 / 64) (o % 64 / 4) (o % 4))
      else none).getD .unowned
  else if o < 0x1C0000 then .operand (o - 0x180000)
  else .unowned

/-- The key of an accumulator element (R162). -/
def accKey (block row col : Nat) : Nat := block * 1024 + row * 16 + col

/-- An element of the current copy of an accumulator block (R240). -/
def accGet (k : Crew) (block row col : Nat) : W32 :=
  (if bit k.acur block then k.acc1 else k.acc0).getD (accKey block row col) 0

/-- One byte of an element of a table replaced. -/
def putByteAt (t : Tab W32) (key i : Nat) (b : Byte) : Tab W32 :=
  t.put key (setByte (t.getD key 0) i b)

/-- A byte written into a crew's scratchpad. -/
def Crew.scratchPut (k : Crew) (off : Nat) (b : Byte) : Crew :=
  { k.heal (· == .scratch (off / 4)) with scratch := k.scratch.put off b }

/-- A byte written into a register from outside: in the current copy, and in the checkpoint copy of a
dirty granule as well (R103, R169). -/
def regByteOutside (k : Crew) (v lane i : Nat) (b : Byte) : Crew :=
  let both := bit k.dirty (v / 8)
  let one := bit k.cur (v / 8)
  let k := k.heal fun x => x == .reg one v lane || (both && x == .reg (!one) v lane)
  { k with reg0 := if both || !one then putByteAt k.reg0 (regKey v lane) i b else k.reg0
           reg1 := if both || one then putByteAt k.reg1 (regKey v lane) i b else k.reg1 }

/-- A byte written into an accumulator block from outside: in the current copy, and in the checkpoint
copy of a renamed block (R169). -/
def accByteOutside (k : Crew) (block row col i : Nat) (b : Byte) : Crew :=
  let both := bit k.adirty block
  let one := bit k.acur block
  let key := accKey block row col
  let k := k.heal fun x => x == .acc one key || (both && x == .acc (!one) key)
  { k with acc0 := if both || !one then putByteAt k.acc0 key i b else k.acc0
           acc1 := if both || one then putByteAt k.acc1 key i b else k.acc1 }

/-- A window byte read (R169). -/
def winGet (co : Core) (o : Nat) : Byte :=
  match winTarget co o with
  | .reg slot v lane i =>
    match co.crews.get? slot with | some k => byteOf (regGet k v lane) i | none => 0
  | .acc slot b r q i =>
    match co.crews.get? slot with | some k => byteOf (accGet k b r q) i | none => 0
  | .scratch slot off =>
    match co.crews.get? slot with | some k => k.scratch.getD off 0 | none => 0
  | .operand a => co.ob.getD a 0
  | .unowned => 0

/-- A window byte written, resolved again at its release (R103, R169). -/
def winPut (co : Core) (o : Nat) (b : Byte) : Core :=
  match winTarget co o with
  | .reg slot v lane i =>
    match co.crews.get? slot with
    | some k => { co with crews := co.crews.put slot (regByteOutside k v lane i b) }
    | none => co
  | .acc slot bl r q i =>
    match co.crews.get? slot with
    | some k => { co with crews := co.crews.put slot (accByteOutside k bl r q i b) }
    | none => co
  | .scratch slot off =>
    match co.crews.get? slot with
    | some k => { co with crews := co.crews.put slot (k.scratchPut off b) }
    | none => co
  | .operand _ | .unowned => co

/-- The on-chip map address of a window offset (R167). -/
def chipPa (c o : Nat) : Nat := 0x10000000000 + c * 0x200000 + o

/-! ### Which array serves a read (R153, R178) -/

/-- The array that holds a sector at its home. -/
def homeSite (s : State) (sector : Nat) : Site :=
  if (s.llc.get? (sector / 4)).any fun x => x.mask.extractLsb' (64 * (sector % 4)) 64 != 0 then
    .llc sector
  else .lpddr sector

/-- The array from which a cluster reads a sector. -/
def l2Site (s : State) (k sector : Nat) : Site :=
  if (l2Find (s.cluster k) (sector / 4)).any fun x => bit x.valid (sector % 4) then .l2 k sector
  else homeSite s sector

/-- The array from which a core's load reads a sector. -/
def loadSite (s : State) (c sector : Nat) : Site :=
  if (l1Find (s.core c) (sector / 4)).isSome then .l1 c sector else l2Site s (clusterOf c) sector

/-- Where a window byte stands: its crew's slot and cell, or the operand buffer (R168). -/
def winSite (s : State) (t o : Nat) : Option (Option (Nat × Nat) × Site) :=
  match winTarget (s.core t) o with
  | .reg slot v lane _ => (s.crew? t slot).map fun k => (some (t, slot), .reg (bit k.cur (v / 8)) v lane)
  | .acc slot b r q _ => (s.crew? t slot).map fun k => (some (t, slot), .acc (bit k.acur b) (accKey b r q))
  | .scratch slot off => some (some (t, slot), .scratch (off / 4))
  | .operand a => some (none, .operand t (a / 4))
  | .unowned => none

/-- A window byte read for a core, its errors corrected; a site at which one is left. -/
def readWin (s : State) (c t o : Nat) : State × Option Site :=
  match winSite s t o with
  | some (w, x) => readSites s c w (· == x)
  | none => (s, none)

/-- The window offset of a cell of a crew's own store (R97, R168). -/
def cellOffset (k : Crew) : Site → Nat
  | .reg copy v lane =>
    let g := if footNarrow k.foot then 1024 else 2048
    (if copy then k.base1 else k.base0) * 1024 + v / 8 * g + v % 8 * (g / 8) + 4 * lane
  | .acc copy key =>
    0x100000 + 4096 * (k.abase + (if copy then fld k.foot 29 22 else 0)) + 4 * key
  | .scratch w => k.sbase + 4 * w
  | _ => 0

/-- The physical sector in which a cell of a crew on a core lies (R366; log entry 74). -/
def cellSector (c : Nat) (k : Crew) (x : Site) : Nat := chipPa c (cellOffset k x) / 64

/-! ### Translation (R171 to R175) -/

/-- Fields of a leaf (R172). -/
def leafAttr (w : W64) : BitVec 3 := w.extractLsb' 7 3
def leafCls (w : W64) : BitVec 2 := w.extractLsb' 5 2
def leafBit (w : W64) (i : Nat) : Bool := bit w i

/-- log2 of the page size of a leaf at a level (R171). -/
def pageBits (level : Nat) : Nat := if level = 2 then 30 else if level = 3 then 21 else 16

/-- How many low bits of a virtual address an entry of a level leaves (R171). -/
def prefixBits (level : Nat) : Nat :=
  match level with
  | 0 => 48
  | 1 => 39
  | 2 => 30
  | 3 => 21
  | _ => 16

/-- The index of a level, and log2 of a table's size (R171). -/
def walkIndex (level va : Nat) : Nat :=
  match level with
  | 0 => va / 2 ^ 48 % 256
  | 1 => va / 2 ^ 39 % 512
  | 2 => va / 2 ^ 30 % 512
  | 3 => va / 2 ^ 21 % 512
  | _ => va / 2 ^ 16 % 32
def tableBits (level : Nat) : Nat := if level = 0 then 11 else if level = 4 then 8 else 12

/-- Whether an entry with V = 1 is malformed at a level (R172). -/
def pteBad (level : Nat) (w : W64) : Bool :=
  let t := bit w 1
  if t then
    let next := fld w 51 8 * 256
    fld w 63 52 != 0 || fld w 7 2 != 0 || level == 4 || next % 2 ^ tableBits (level + 1) != 0 ||
      zoneOf next != .device
  else
    let out := fld w 51 16 * 65536
    let attr := fld w 9 7
    fld w 63 52 != 0 || fld w 15 12 != 0 || level ≤ 1 || out % 2 ^ pageBits level != 0 ||
      4 ≤ attr || ((attr == 2) != (zoneOf out == .regs)) || zoneOf out == .hole ||
      zoneOf out == .chip

/-- What a walk finds: the leaf, its level and the physical address of the entry. -/
structure Leaf where
  w : W64
  level : Nat
  at_ : Nat
deriving DecidableEq, Repr

/-- The walk from a table (R171, R173), at most five levels, reading each entry from the walk
cache or from device memory at its home. The entries read above the leaf come back with it. -/
def walkFrom (s : State) (k : Cluster) (pasid : BitVec 20) (va : Nat) :
    Nat → Nat → Nat → List WalkE →
      Except Cause (Leaf × List WalkE)
  | 0, _, _, _ => .error .pteFormat
  | fuel + 1, level, table, seen =>
    let at_ := table + 8 * walkIndex level va
    let hit := k.wcache.find? fun e =>
      e.pasid == pasid && e.level == level && e.page == va / 2 ^ prefixBits level && e.at_ == at_
    let w : W64 := match hit with
      | some e => e.entry
      | none => BitVec.ofNat 64 (homeWord s at_ 8)
    if !bit w 0 then .error .translation
    else if pteBad level w then .error .pteFormat
    else if bit w 1 then
      walkFrom s k pasid va fuel (level + 1) (fld w 51 8 * 256)
        (seen ++ [⟨pasid, level, va / 2 ^ prefixBits level, at_, w⟩])
    else .ok (⟨w, level, at_⟩, seen)

/-- The level-0 table of a root (R171). -/
def rootTable (root : BitVec 41) : Nat := root.toNat * 2048

/-- A whole walk. -/
def walk (s : State) (k : Nat) (pasid : BitVec 20) (root : BitVec 41) (va : Nat) :
    Except Cause (Leaf × List WalkE) :=
  walkFrom s (s.cluster k) pasid va 5 0 (rootTable root) []

/-- The physical address that a leaf gives a virtual one. -/
def leafPa (w : W64) (level va : Nat) : Nat :=
  fld w 51 16 * 65536 / 2 ^ pageBits level * 2 ^ pageBits level + va % 2 ^ pageBits level

/-- The address space of a crew: its launch's TCTX, or the Keeper's own (R171). -/
def tctxOf (s : State) (slot : Nat) (k : Crew) : W64 :=
  if isKeeper slot then s.mod.ktctx
  else match crewLaunch s k with | some l => l.tctx | none => 0

def tctxPasid (w : W64) : BitVec 20 := w.extractLsb' 44 20
def tctxRoot (w : W64) : BitVec 41 := w.extractLsb' 0 41

/-- Whether a TLB entry translates an address. -/
def TlbE.covers (e : TlbE) (pasid : BitVec 20) (va : Nat) : Bool :=
  e.pasid == pasid && va / 2 ^ pageBits e.level == e.page

def tlbFind (l : List TlbE) (pasid : BitVec 20) (va : Nat) : Option TlbE :=
  l.find? fun e => e.covers pasid va

/-- A TLB entry made the most recently used of a core TLB of 256 entries, the least recently used
leaving (R174). -/
def tlbInsert (l : List TlbE) (e : TlbE) : List TlbE :=
  (e :: l.filter fun x => x != e).take 256

/-- A cluster TLB entry: 1024 sets of 8 ways (R174). The set by page number and the replacement of
the least recently used way are the model's choice (log entry 70). -/
def ctlbInsert (l : List TlbE) (e : TlbE) : List TlbE :=
  let same := l.filter fun x => x.page % 1024 == e.page % 1024 && x != e
  let others := l.filter fun x => x.page % 1024 != e.page % 1024
  e :: (same.take 7 ++ others)

/-- The A bit, and for a write the D bit, set at a translation (R172). -/
def markLeaf (s : State) (e : TlbE) (write : Bool) : State × TlbE :=
  let w := setBit e.leaf 10 true
  let w := if write then setBit w 11 true else w
  if w = e.leaf then (s, e)
  else
    let old : W64 := BitVec.ofNat 64 (homeWord s e.at_ 8)
    let s := homePuts s e.at_ (toBytes 8 (old ||| (w &&& 0xC00)).toNat)
    (s, { e with leaf := w })

/-- The first check of R173 that a leaf fails for an access. -/
def leafCheck (w : W64) (keeper write fetch : Bool) : Option Cause :=
  if !bit w 4 && !keeper then some .permission
  else if write && !bit w 2 then some .permission
  else if fetch && !bit w 3 then some .permission
  else none

/-- A translation through the TLBs of a core and its cluster: the entry, or none on a miss.
A cluster hit fills the core TLB (R174). -/
def tlbLook (s : State) (c : Nat) (pasid : BitVec 20) (va : Nat) : Option (State × TlbE) :=
  match tlbFind (s.core c).tlb pasid va with
  | some e => some (s.mapCore c fun co => { co with tlb := tlbInsert co.tlb e }, e)
  | none =>
    match tlbFind (s.cluster (clusterOf c)).tlb pasid va with
    | some e =>
      let s := s.mapCore c fun co => { co with tlb := tlbInsert co.tlb e }
      some (s.mapCluster (clusterOf c) fun k => { k with tlb := ctlbInsert k.tlb e }, e)
    | none => none

/-- The page of 64 KiB by which a miss, and a run that remembers a failed walk, knows its page. -/
def failKey (va : Nat) : Nat := va / 65536

/-- A change of a TLB entry (the D bit) wherever it is held. -/
def tlbReplace (s : State) (c : Nat) (e f : TlbE) : State :=
  if e = f then s
  else
    let sub := fun (l : List TlbE) => l.map fun x => if x = e then f else x
    (s.mapCore c fun co => { co with tlb := sub co.tlb }).mapCluster (clusterOf c)
      fun k => { k with tlb := sub k.tlb }

/-- A miss joins the walk queue of a cluster: misses on one page of an address space merge into one
walk, and the queue holds 64. Whether it stands there now (R174). -/
def askWalk (s : State) (k : Nat) (tctx : W64) (a : Asker) : State × Bool :=
  let same := fun (m : Miss) => m.pasid == tctxPasid tctx && failKey m.va == failKey a.va
  let l := (s.cluster k).misses
  let join := fun (m : Miss) =>
    if same m && !m.askers.contains a then { m with askers := m.askers ++ [a] } else m
  if l.any same then (s.mapCluster k fun cl => { cl with misses := cl.misses.map join }, true)
  else if l.length < 64 then
    (s.mapCluster k fun cl => { cl with misses := cl.misses ++
      [{ pasid := tctxPasid tctx, root := tctxRoot tctx, va := a.va, askers := [a] }] }, true)
  else (s, false)

/-- Whether a walk that failed was asked for by a requester, for the same page. -/
def failedFor (tctx : W64) (a : Asker) (x : Asker × BitVec 20 × Cause) : Bool :=
  x.2.1 == tctxPasid tctx && failKey x.1.va == failKey a.va && x.1 == { a with va := x.1.va }

/-- Whether the translation that a unit needs is at hand: in a TLB, or its walk has failed. -/
def unitKnown (s : State) (tctx : W64) (a : Asker) : Bool :=
  (tlbFind (s.core a.core).tlb (tctxPasid tctx) a.va).isSome ||
    (tlbFind (s.cluster (clusterOf a.core)).tlb (tctxPasid tctx) a.va).isSome ||
    (s.cluster (clusterOf a.core)).failed.any (failedFor tctx a)

/-- What a unit that is no batch finds for an address (R174). -/
inductive UnitXlate where
  | hit (s : State) (e : TlbE)
  | fault (s : State) (cause : Cause)
  | wait (s : State)                   -- its miss stands in the queue
  | full                               -- the queue has no room

/-- The translation of an address for a fetch, a prefetch or an engine: through the TLBs, or, once
its walk has failed, that failure; otherwise its miss joins the queue (R173, R174). A and D are set
once the checks have passed. -/
def unitXlate (s : State) (tctx : W64) (a : Asker) : UnitXlate :=
  match tlbLook s a.core (tctxPasid tctx) a.va with
  | some (s, e) =>
    match leafCheck e.leaf a.keeper a.write a.fetch with
    | some cause => .fault s cause
    | none =>
      let (s, f) := markLeaf s e a.write
      .hit (tlbReplace s a.core e f) f
  | none =>
    let k := clusterOf a.core
    match (s.cluster k).failed.find? (failedFor tctx a) with
    | some x => .fault (s.mapCluster k fun cl =>
        { cl with failed := cl.failed.filter fun y => !failedFor tctx a y }) x.2.2
    | none =>
      match askWalk s k tctx a with
      | (s, true) => .wait s
      | (_, false) => .full

/-! ### The lodge (R159, R187) -/

/-- The byte that the newest entry of a crew holds for a physical byte; an entry is forwarded until
it is released, and while it waits for room in the staging of its home (R28, R186, R209). -/
def lodgeByte (co : Core) (slot pa : Nat) : Option Byte :=
  (co.lodge.reverse.find? fun e =>
    e.slot == slot && (!e.told || e.back) && e.sector == pa / 64 && bit e.mask (pa % 64) &&
      (e.kind == .store || e.kind == .scratch || e.kind == .window)).map
    fun e => byteOf e.data (pa % 64)

/-- Bytes of one sector that an instruction writes: the sector, the bytes by offset, where
they lie beyond (R159). -/
structure SectorW where
  sector : Nat
  mask : W64
  data : BitVec 512
  attr : BitVec 3
  cls : BitVec 2
  ev : Bool
  home : Option Nat
  eff : Effect
deriving DecidableEq, Repr

/-- A byte combined into the sector writes of an instruction, later bytes winning (R159,
R188). -/
def sectorAdd (pa : Nat) (b : Byte) (attr : BitVec 3) (cls : BitVec 2) (ev : Bool)
    (home : Option Nat) (eff : Effect) : List SectorW → List SectorW
  | [] => [{ sector := pa / 64, mask := setBit 0 (pa % 64) true
             data := setByte 0 (pa % 64) b, attr, cls, ev, home, eff }]
  | w :: r =>
    if w.sector = pa / 64 then
      { w with mask := setBit w.mask (pa % 64) true, data := setByte w.data (pa % 64) b } :: r
    else w :: sectorAdd pa b attr cls ev home eff r

/-- The entry into which a write merges (R159). -/
def mergeable (co : Core) (kind : LKind) (slot : Nat) (rseq : BitVec 16) (w : SectorW) :
    Option LEntry :=
  if w.attr = 2 then none
  else co.lodge.find? fun e =>
    e.slot == slot && e.rseq == rseq && e.kind == kind && e.sector == w.sector &&
      e.attr != 2 && !e.cleared

/-- The bytes of a write laid over an entry. -/
def mergeEntry (e : LEntry) (w : SectorW) : LEntry :=
  (List.range 64).foldl (fun (e : LEntry) i =>
    if bit w.mask i then
      { e with mask := setBit e.mask i true, data := setByte e.data i (byteOf w.data i) }
    else e) e

/-- A message joined to the route from a core to a die (R187, R214). -/
def netSend (s : State) (c d : Nat) (m : Msg) : State :=
  let key := c * 4 + d
  { s with net := s.net.put key (s.net.getD key [] ++ [m]) }

/-- Whether the tagged staging of a die is full (R161, R263). -/
def dieFull (d : Die) : Bool := decide (2048 ≤ d.staging.length + d.units.length)

/-- An entry homed on another die crosses to its staging (R28). -/
def crossEntry (s : State) (c : Nat) (e : LEntry) : State :=
  match e.home with
  | some d => netSend s c d (.entry e)
  | none => s

/-- A new lodge entry (R159). -/
def lodgeNew (s : State) (c slot : Nat) (kind : LKind) (w : SectorW) : State :=
  let co := s.core c
  let k := s.crew? c slot
  let e : LEntry :=
    { id := co.nextId + 1, kind, slot, rseq := (k.map (·.rseq)).getD 0, sector := w.sector
      mask := w.mask, data := w.data, attr := w.attr, cls := w.cls, ev := w.ev, eff := w.eff
      home := w.home, acked := w.home.isNone, cleared := false
      fence := (k.map (·.fenced)).getD [], told := false, back := false
      mate := none }
  let co' := { co with nextId := co.nextId + 1, lodge := co.lodge ++ [e] }
  note (crossEntry (s.setCore c co') c e) c slot 5 1

/-- A write enters the lodge: merged into an entry, which then waits as the write does
(R193), or as a new one (R159). -/
def lodgeWrite (s : State) (c slot : Nat) (kind : LKind) (w : SectorW) : State :=
  let co := s.core c
  match mergeable co kind slot ((s.crew? c slot).map (·.rseq) |>.getD 0) w with
  | some e =>
    let wait := ((s.crew? c slot).map (·.fenced)).getD []
    let f := { mergeEntry e w with fence := dedup (e.fence ++ wait) }
    crossEntry (s.setCore c
      { co with lodge := co.lodge.map fun x => if x.id = e.id then f else x }) c f
  | none => lodgeNew s c slot kind w

/-- The entries that writes of a crew would newly take. -/
def lodgeCost (s : State) (c slot : Nat) (kind : LKind) (ws : List SectorW) : Nat :=
  (ws.filter fun w =>
    (mergeable (s.core c) kind slot ((s.crew? c slot).map (·.rseq) |>.getD 0) w).isNone).length

/-- A non-memory held effect of a crew (R159). -/
def lodgeEffect (s : State) (c slot : Nat) (kind : LKind) (home : Option Nat) (eff : Effect) :
    State :=
  lodgeNew s c slot kind
    { sector := 0, mask := 0, data := 0, attr := 0, cls := 0, ev := false, home, eff }

/-- The home of an effect that acts at die 0, as seen from a core (R17). -/
def dieZero (c : Nat) : Option Nat := if dieOf c = 0 then none else some 0

/-- The entries that a waiting batch needs. -/
def lodgeNeed (r : Run) : Nat := ((r.tmp.find? fun p => p.1 == 1).map fun p => p.2.toNat).getD 0

/-- Whether a batch has been granted the entries that it waited for (R160). -/
def lodgeGranted (r : Run) : Bool := r.tmp.any fun p => p.1 == 0

/-- The entries of a core that stand in the lodge, or are kept for batches granted them. -/
def lodgeTaken (s : State) (c : Nat) (l : List Run) : Nat :=
  (s.core c).lodge.length +
    ((l.filter fun x => x.core == c && lodgeGranted x).map lodgeNeed).sum

/-- Whether a batch may take so many lodge entries now: they are free, none of them is kept for
another batch, and no batch waits before it (R160). -/
def lodgeRoom (s : State) (r : Run) (need : Nat) : Bool :=
  need == 0 ||
    (decide (lodgeTaken s r.core s.runs.tail + need ≤ 1024) &&
      (lodgeGranted r ||
        s.runs.tail.all fun x => !(x.core == r.core && x.hold == some .lodge)))

/-- A batch held for lodge entries: the number it needs stands in `tmp`, and a batch that waits again
keeps its place (R160). -/
def holdLodge (s : State) (r : Run) (need : Nat) : State :=
  requeue s { r with hold := some .lodge
                     asked := if r.tmp.any fun p => p.1 == 1 then r.asked else s.now
                     tmp := r.tmp.filter (fun p => 1 < p.1) ++ [(1, BitVec.ofNat 64 need)] }

/-! ### Signatures and side records (R227 to R230) -/

def fold44 (x : Nat) : Nat :=
  (x % 1024) ^^^ (x / 2 ^ 10 % 1024) ^^^ (x / 2 ^ 20 % 1024) ^^^ (x / 2 ^ 30 % 1024) ^^^
    (x / 2 ^ 40 % 16)
def rot44 (x k : Nat) : Nat := (x * 2 ^ k + x / 2 ^ (44 - k)) % 2 ^ 44

/-- The three bits of a line (R228). -/
def sigBits (line : Nat) : List Nat :=
  let l := line % 2 ^ 44
  [fold44 l, fold44 (rot44 l 11), fold44 (rot44 l 23)]

def sigAdd (g : BitVec 1024) (line : Nat) : BitVec 1024 :=
  (sigBits line).foldl (fun g i => setBit g i true) g

/-- The bits set, and saturation (R227). -/
def sigCount (g : BitVec 1024) : Nat := popNat 1024 g.toNat
def sigSat (g : BitVec 1024) (mark : Bool) : Bool := mark || decide (384 < sigCount g)

/-- Whether a line matches a signature (R228). -/
def sigMatch (g : BitVec 1024) (sat : Bool) (line : Nat) : Bool :=
  sat || (sigBits line).all fun i => bit g i

/-- The record of a sector: a mark reads as saturated, none as empty (R229). -/
def sideRead (d : Die) (sector : Nat) : BitVec 1024 × Bool :=
  match d.side.get? sector with
  | some r => (r.sig, r.sat)
  | none => (0, d.marks.contains sector)

/-- A record written: a full store evicts the record written least recently and marks its
sector (R229). -/
def sideWrite (d : Die) (sector : Nat) (sig : BitVec 1024) (sat : Bool) : Die :=
  let d := { d with stamp := d.stamp + 1, marks := d.marks.filter fun x => x != sector }
  let d :=
    if (d.side.get? sector).isSome || d.side.size < 65536 then d
    else match pickBy (fun (a b : Nat × SideRec) => a.2.stamp < b.2.stamp) d.side.cells with
      | some (k, _) => { d with side := d.side.del k, marks := insertNat k d.marks }
      | none => d
  { d with side := d.side.put sector { sat, sig, stamp := d.stamp } }

/-- The signature a release of a crew publishes (R229, R231). -/
def pubSig (k : Crew) : BitVec 1024 × Bool :=
  let g := k.wsig ||| k.asig
  (g, sigSat g (k.wsat || k.asat))

/-- `st.rel` replaces a record; a release-order atomic merges into one (R229). -/
def sidePublish (s : State) (pa : Nat) (p : BitVec 1024 × Bool) (replace : Bool) : State :=
  let a := canonPa s pa
  let sector := a / 64
  s.mapDie (homeOf a) fun d =>
    match d.side.get? sector with
    | some r =>
      if replace then sideWrite d sector p.1 p.2
      else sideWrite d sector (r.sig ||| p.1) (sigSat (r.sig ||| p.1) (r.sat || p.2))
    | none =>
      if replace then sideWrite d sector p.1 p.2
      else sideWrite d sector p.1 p.2

/-- A release resets both signatures of its crew (R227). -/
def resetSigs (s : State) (c slot : Nat) : State :=
  s.mapCrew c slot fun k => { k with wsig := 0, wsat := false, asig := 0, asat := false }

/-- The cache actions before a release at a scope (R190 table): the dirty sectors of the
cluster L2 that match are written back. -/
def releaseActions (s : State) (c : Nat) (sc : Scope) (sel : Nat → Bool) : State :=
  match sc with
  | .crew | .core | .cluster => s
  | .die | .package | .domain =>
    let k := clusterOf c
    ((s.cluster k).l2.filter fun x => x.dirty != 0 && sel x.line).foldl
      (fun s x => l2Clean s k x.line) s

/-- The cache actions after an acquire at a scope (R190 table, R230). -/
def acquireActions (s : State) (c : Nat) (sc : Scope) (sel : Nat → Bool) : State :=
  match sc with
  | .crew => s
  | .core | .cluster => l1Drop s c sel
  | .die | .package | .domain =>
    let k := clusterOf c
    ((s.cluster k).l2.filter fun x => sel x.line).foldl
      (fun s x => l2Drop s k x.line) (l1Drop s c sel)

/-- An acquire merges the records of sectors into the crew's ASIG and invalidates the lines
that match them (R230). -/
def acquire (s : State) (c slot : Nat) (sc : Scope) (recs : List (BitVec 1024 × Bool)) : State :=
  let s := s.mapCrew c slot fun k =>
    recs.foldl (fun k (g, t) => { k with asig := k.asig ||| g, asat := k.asat || t }) k
  recs.foldl (fun s (g, t) => acquireActions s c sc (sigMatch g (sigSat g t))) s

end Sys2Proof.Machine
end

