-- ==== Sys2Proof/Machine/Control.lean ====
section
/-! DEFINITION. The control transfers, `fork`, `quit`, `yield`, `cont` and `nop`, the
rendezvous of `vote`, `shfl` and `red`, and the barriers, 0x06A to 0x07F (R46, R50, R94, R125
to R135). -/
namespace Sys2Proof.Machine
open Sys2Proof

/-! ### Continuations (R125) -/

/-- Continuations that fibres of the batch take at the end of the clause. -/
def setConts (r : Run) (l : List (Nat × BitVec 56)) : Run :=
  { r with conts := l.foldl (fun t (lane, pc) => t.put lane pc) r.conts }

/-- A format C transfer: the target for every fibre that takes (R125). -/
def jumpC (i : Instr) (c : CCond) (disp : BitVec 33)
    (before : State → Run → List LaneCtx → State) (cc : List LaneCtx → Nat) (s : State) : Out :=
  issue (fun s r => regsOf (r.narrow s) i) (fun s r =>
    let takes := (lanesUnder s r ⟨false, false, 0⟩).filter fun x => c.takes x.fib.pred
    finishLate (before s r takes)
      (setConts r (takes.map fun x => (x.lane, targetOf r.clause disp))) (cc takes)) s

def execBr (c : CCond) (disp : BitVec 33) : State → Out :=
  jumpC (.br c disp) c disp (fun s _ _ => s) (fun _ => 0)

def execCall (c : CCond) (disp : BitVec 33) (link : BitVec 8) : State → Out :=
  jumpC (.call c disp link) c disp
    (fun s r l => writeLanes s r.core link.toNat 2
      (l.map fun x => (x, (nextClause r.clause r.hdr).toNat)))
    (fun l => renameCc l link.toNat 2)

/-- Whether an address pair is a legal target (R125). -/
def targetOk (a : W64) : Bool := fld a 2 0 == 0 && fld a 63 56 == 0

/-- A jump through a register: TARGET_ALIGNMENT for the fibre whose address is no target, and
for each other active fibre the address (R125). -/
def jumpR (i : Instr) (g : Guard) (a : Src) (s : State) : Out :=
  issue (fun s r => regsOf (r.narrow s) i) (fun s r =>
    let l := (activeLanes s r g).map fun x => (x, srcVal x.crew r x.lane true a)
    let bad := l.filter fun p => !targetOk p.2
    let (s1, r1) := trapFibres s r (bad.map fun p => (p.1.lane, p.1.slot, .targetAlignment, 0))
    finish s1 (setConts r1 ((l.filter fun p => targetOk p.2).map fun p =>
      (p.1.lane, p.2.setWidth 56))) 0) s

def execBrx (g : Guard) (a : Src) : State → Out := jumpR (.brx g a) g a
def execRet (g : Guard) (a : Src) : State → Out := jumpR (.ret g a) g a

/-! ### fork, quit, yield, cont, nop (R126 to R129) -/

/-- The fibres of a crew that have not quit (R32). -/
def liveFibres (k : Crew) : List (Nat × Fibre) :=
  k.fibres.cells.filter fun p => p.2.st != .quitting

/-- The lowest free lane slot of a crew (R129). -/
def freeLane (k : Crew) : Option Nat :=
  (List.range (footLanes k.foot)).find? fun l => (k.fibres.get? l).isNone

/-- One fibre of a crew forks (R129). -/
def forkOne (d : Option (BitVec 8)) (target : BitVec 56) (k : Crew) (lane : Nat)
    (pred : BitVec 16) : Crew × Option Nat :=
  match freeLane k with
  | none =>
    (match d with
      | some v => regPut k v.toNat lane 0xFFFFFFFF
      | none => k, none)
  | some l =>
    let f : Fibre := { pc := target, rpos := 0, rlat := .empty, pred, arr := 0, stale := 0
                       paid := false, st := .running }
    let k := { k with fibres := k.fibres.put l f }
    (match d with
      | some v => regPut (regPut k v.toNat lane (BitVec.ofNat 32 l)) v.toNat l (BitVec.ofNat 32 lane)
      | none => k, some l)

def execFork (c : CCond) (disp : BitVec 33) (d : Option (BitVec 8)) (s : State) : Out :=
  issue (fun s r => regsOf (r.narrow s) (.fork c disp d)) (fun s r =>
    let takes := (lanesUnder s r ⟨false, false, 0⟩).filter fun x => c.takes x.fib.pred
    let cc := match d with | some v => renameCc takes v.toNat 1 | none => 0
    let (s1, forks) := takes.foldl (fun (p : State × List (Nat × Nat)) x =>
      match p.1.crew? r.core x.slot with
      | none => p
      | some k =>
        let (k1, o) := forkOne d (targetOf r.clause disp) k x.lane x.fib.pred
        (p.1.setCrew r.core x.slot k1, match o with
          | some l => p.2 ++ [(l, x.slot)]
          | none => p.2)) (s, [])
    finishLate s1 { r with forks := r.forks ++ forks } (1 + cc)) s

/-- `cont` (R126): per crew, when one of its fibres in the batch takes. -/
def execCont (c : CCond) (disp : BitVec 33) (s : State) : Out :=
  issue (fun _ _ => []) (fun s r =>
    let takes := (lanesUnder s r ⟨false, false, 0⟩).filter fun x => c.takes x.fib.pred
    finish ((dedup (takes.map (·.slot))).foldl (fun s x => s.mapCrew r.core x fun k =>
      { k with cont := (targetOf r.clause disp &&& ~~~7).setWidth 64 }) s) r 0) s

def execNop (g : Guard) (s : State) : Out :=
  issue (fun s r => regsOf (r.narrow s) (.nop g)) (fun s r => finish s r 0) s

def execYield (g : Guard) (s : State) : Out :=
  issue (fun _ _ => []) (fun s r =>
    finish s { r with yields := (activeLanes s r g).map fun x => (x.lane, x.slot) } 0) s

/-! ### Barrier arrivals and departures (R50 to R52, R134) -/

/-- The place of a group among a crew's memberships (R134). -/
def groupIdx (k : Crew) (grp : Nat) : Option Nat :=
  (List.range k.groups.length).find? fun i => k.groups.getD i 0 == grp

/-- Arrivals sent and releases received of a crew at a group. -/
def barOf (k : Crew) (grp : Nat) : BarSt := k.bars.getD grp ⟨0, 0⟩

/-- Whether every live fibre of a crew has set its bit for a group in the episode that has not
released, parked fibres counting as not arrived, and the arrival has not been sent (R134). -/
def crewArrives (k : Crew) (grp : Nat) : Bool :=
  match groupIdx k grp with
  | none => false
  | some i =>
    let l := liveFibres k
    !l.isEmpty && (barOf k grp).sent == (barOf k grp).released &&
      l.all fun (_, f) => bit f.arr i && !bit f.stale i &&
        (match f.st with | .trapped _ => false | .blocked .pageFault => false | _ => true)

/-- The crew's arrival as a held effect (R51, R134). It travels the barrier levels, so its
entry has no home on another die. -/
def sendArrival (s : State) (c slot grp : Nat) : State :=
  (lodgeEffect s c slot .arrival none (.arrive grp)).mapCrew c slot fun k =>
    { k with bars := k.bars.put grp { barOf k grp with sent := (barOf k grp).sent + 1 } }

/-- Arrivals at a group by fibres of the batch: BARRIER_STATE for a fibre whose bit is set,
GROUP_NOT_MEMBER for a fibre whose crew is no member (R134). -/
def arriveTraps (l : List LaneCtx) (grp : Nat) (wantSet : Bool) :
    List (Nat × Nat × Cause × W64) :=
  l.filterMap fun x =>
    match groupIdx x.crew grp with
    | none => some (x.lane, x.slot, .groupNotMember, 0)
    | some i => if bit x.fib.arr i == wantSet then none else some (x.lane, x.slot, .barrierState, 0)

/-- The active fibres that the traps leave. -/
def keepLanes (l : List LaneCtx) (bad : List (Nat × Nat × Cause × W64)) : List LaneCtx :=
  l.filter fun x => !bad.any fun b => b.1 == x.lane && b.2.1 == x.slot

/-- The bits of fibres set for a group. -/
def setArrived (s : State) (c grp : Nat) (l : List LaneCtx) : State :=
  l.foldl (fun s x => s.mapFibre c x.slot x.lane fun f =>
    match groupIdx x.crew grp with
    | some i => { f with arr := setBit f.arr i true, stale := setBit f.stale i false }
    | none => f) s

/-- `arrive` and `bar` (R134): held at issue while the lodge lacks the entry of a crew's
arrival; `wait` blocks the fibre for the release, as `bar` does. -/
def arriveAt (i : Instr) (g : Guard) (grp : Nat) (wait : Bool) (s : State) : Out :=
  issue (fun s r => regsOf (r.narrow s) i) (fun s r =>
    let l := activeLanes s r g
    let bad := arriveTraps l grp false
    let ok := keepLanes l bad
    let (s1, r1) := trapFibres (setArrived s r.core grp ok) r bad
    let slots := (dedup (ok.map (·.slot))).filter fun x =>
      (s1.crew? r.core x).any fun k => crewArrives k grp
    if !lodgeRoom s r slots.length then holdLodge s r slots.length
    else
      let s2 := slots.foldl (fun s x => sendArrival s r.core x grp) s1
      if wait then
        let s3 := ok.foldl (fun s x => s.mapFibre r.core x.slot x.lane fun f =>
          { f with pc := nextClause r.clause r.hdr, st := .blocked (.barrier grp) }) s2
        finish s3 (ok.foldl (fun r x => r.drop x.lane x.slot) r1) 0
      else finish s2 r1 0) s

def execBar (g : Guard) (grp : BitVec 8) : State → Out := arriveAt (.bar g grp) g grp.toNat true
def execArrive (g : Guard) (grp : BitVec 8) : State → Out :=
  arriveAt (.arrive g grp) g grp.toNat false

/-- `await` (R134): BARRIER_STATE without the bit; past the release the bit is cleared and the
fibre goes on; otherwise it blocks. -/
def execAwait (g : Guard) (grp : BitVec 8) (s : State) : Out :=
  issue (fun s r => regsOf (r.narrow s) (.await g grp)) (fun s r =>
    let l := activeLanes s r g
    let bad := arriveTraps l grp.toNat true
    let ok := keepLanes l bad
    let through := ok.filter fun x =>
      match groupIdx x.crew grp.toNat with | some i => bit x.fib.stale i | none => false
    let wait := ok.filter fun x =>
      match groupIdx x.crew grp.toNat with | some i => !bit x.fib.stale i | none => false
    let (s1, r1) := trapFibres s r bad
    let s2 := through.foldl (fun s x => s.mapFibre r.core x.slot x.lane fun f =>
      match groupIdx x.crew grp.toNat with
      | some i => { f with arr := setBit f.arr i false, stale := setBit f.stale i false }
      | none => f) s1
    let s3 := wait.foldl (fun s x => s.mapFibre r.core x.slot x.lane fun f =>
      { f with pc := nextClause r.clause r.hdr, st := .blocked (.barrier grp.toNat) }) s2
    finish s3 (wait.foldl (fun r x => r.drop x.lane x.slot) r1) 0) s

/-! ### The rendezvous (R46, R130) -/

/-- The latches a fibre of the batch holds at its position. -/
def laneLatches (r : Run) (lane : Nat) : Tab W64 :=
  ⟨(List.range 4).filterMap fun j => (r.lat.get? (latKey lane j)).map fun v => (j, v)⟩

/-- Whether a rendezvous is open, with arrivals still missing, at a position (R46): one that is
complete blocks its fibres no more, and only its results are still to come (R130). -/
def Rdv.openAt (v : Rdv) (clause : BitVec 56) (pos : Nat) : Bool :=
  v.done.isNone && v.clause == clause && v.pos == pos

/-- Every arrived fibre of a rendezvous takes a trap, precise at its clause, and the
rendezvous is closed (R46). -/
def trapRdv (s : State) (c slot : Nat) (v : Rdv) (cause : Cause) : State :=
  let s := s.mapCrew c slot fun k =>
    { k with rdvs := k.rdvs.filter fun x => !x.openAt v.clause v.pos }
  v.arrived.cells.foldl (fun s (lane, a) => takeTrap s c slot lane
    { cause, sub := 0, code := 0, clause := v.clause, at_ := v.pos, res := v.clause, pos := v.pos
      lat := a.lat, next := v.next, data := 0, delivered := false, group := 0, was := none
      wr := false }) s

/-- Whether a lane is blocked at an open rendezvous of its crew other than one. -/
def elsewhere (k : Crew) (v : Rdv) (lane : Nat) : Bool :=
  k.rdvs.any fun x => x.done.isNone && !x.openAt v.clause v.pos && (x.arrived.get? lane).isSome

/-- The trap that a rendezvous with its arrivals takes, if one (R46): `same` says that every
arrival so far carried the rendezvous' mask. R46 gives its conditions no order; where several hold
at one arrival the model takes the first in the order of its table (DESIGN CHOICE, log entry 66). -/
def rdvTrap (k : Crew) (v : Rdv) (same : Bool) : Option Cause :=
  let named := lanesOf (footLanes k.foot) v.mask
  let live := (liveFibres k).map (·.1)
  let missing := named.filter fun l => (v.arrived.get? l).isNone
  if named.any fun l => !live.contains l then some .memberExited
  else if !same || v.arrived.keys.any (fun l => !named.contains l) then some .memberMismatch
  else if !missing.isEmpty && missing.all (fun l => elsewhere k v l) then some .memberCrossed
  else none

/-- The arrival of one crew's fibres of the batch at a rendezvous (R46, R130). Where it and another
open rendezvous cross each other, the fibres of the one that the arrival belongs to trap and leave it,
so that nothing blocks the other, which stays open (DESIGN CHOICE, log entry 66). -/
def arriveRdv (i : Instr) (delay : Nat) (s : State) (r : Run) (slot : Nat)
    (l : List (Nat × Arrival × W64)) : State :=
  match s.crew? r.core slot, l with
  | some k, (_, _, m0) :: _ =>
    let old := k.rdvs.find? fun x => x.openAt r.clause r.pos
    let v0 : Rdv := old.getD
      { clause := r.clause, pos := r.pos, instr := i, mask := m0
        next := nextClause r.clause r.hdr, arrived := .empty, done := none }
    let v := { v0 with arrived := l.foldl (fun t (lane, a, _) => t.put lane a) v0.arrived }
    let same := l.all fun (_, _, m) => m == v0.mask
    let s := l.foldl (fun s (lane, _, _) => s.mapFibre r.core slot lane fun f =>
      { f with st := .blocked .rendezvous }) s
    match rdvTrap k v same with
    | some cause => trapRdv s r.core slot v cause
    | none =>
      let full := (lanesOf (footLanes k.foot) v.mask).all fun x => (v.arrived.get? x).isSome
      let v := if full then { v with done := some (s.now + delay * clockDiv s r.core) } else v
      let s := s.mapCrew r.core slot fun k =>
        { k with rdvs := (k.rdvs.filter fun x => !x.openAt v.clause v.pos) ++ [v] }
      -- an arrival here may leave another open rendezvous with every missing fibre blocked
      k.rdvs.foldl (fun s x =>
        if x.openAt v.clause v.pos || x.done.isSome then s
        else match s.crew? r.core slot with
          | some k1 =>
            let missing := (lanesOf (footLanes k.foot) x.mask).filter fun l =>
              (x.arrived.get? l).isNone
            if !missing.isEmpty && missing.all (fun l => elsewhere k1 x l) then
              trapRdv s r.core slot x .memberCrossed
            else s
          | none => s) s
  | _, _ => s

/-- `vote`, `shfl` and `red`: every fibre of the batch arrives, active or not, with its mask
and operands as they stand (R62, R130, R132). -/
def rendezvous (i : Instr) (g : Guard) (mask : Src) (val : LaneCtx → Run → W64)
    (idx : LaneCtx → Run → W64) (delay : Bool → Nat) (s : State) : Out :=
  issue (fun s r => regsOf (r.narrow s) i) (fun s r =>
    let nw := r.narrow s
    let l := (lanesUnder s r g).map fun x =>
      (x, { active := x.act, a := val x r, b := idx x r, lat := laneLatches r x.lane : Arrival },
        srcVal x.crew r x.lane (!nw) mask)
    let s1 := r.slots.foldl (fun s slot => arriveRdv i (delay nw) s r slot
      ((l.filter fun p => p.1.slot == slot).map fun p => (p.1.lane, p.2.1, p.2.2))) s
    finish s1 { r with fibres := [] } 0) s

def execVote (g : Guard) (m : VoteMode) (cnt narrow : Bool) (p : BitVec 4) (d : Dst)
    (mask : Src) : State → Out :=
  rendezvous (.vote g m cnt narrow p d mask) g mask (fun _ _ => 0) (fun _ _ => 0) (fun _ => 4)

def execShfl (g : Guard) (m : ShflMode) (t : ITy) (d : Dst) (a b mask : Src) : State → Out :=
  rendezvous (.shfl g m t d a b mask) g mask (fun x r => srcVal x.crew r x.lane t.wide a)
    (fun x r => srcVal x.crew r x.lane false b) (fun _ => 6)

def execRed (g : Guard) (op : RedOp) (t : RedTy) (d : Dst) (a mask : Src) : State → Out :=
  rendezvous (.red g op t d a mask) g mask (fun x r => srcVal x.crew r x.lane (NTy.wide t) a)
    (fun _ _ => 0) (fun nw => if nw then 14 else 16)

/-! ### What a completed rendezvous writes (R94, R131 to R133) -/

/-- One level of the tree of R94 over a list of an even length. -/
def treeLevel {α : Type} (f : α → α → α) : List (Option α) → List (Option α)
  | x :: y :: r =>
    (match x, y with
      | some a, some b => some (f a b)
      | none, y => y
      | x, none => x) :: treeLevel f r
  | l => l

/-- The tree of R94 over 2 to the n leaves. -/
def tree {α : Type} (f : α → α → α) : Nat → List (Option α) → Option α
  | 0, l => l.headD none
  | n + 1, l => tree f n (treeLevel f l)

/-- The combine functions of R94 for `red`. -/
def redCombine (op : RedOp) (t : RedTy) (a b : W64) : W64 :=
  match t with
  | .int t =>
    match op with
    | .add => t.toReg (wrap t.width (t.value a + t.value b))
    | .min => t.toReg (wrap t.width (min (t.value a) (t.value b)))
    | .max => t.toReg (wrap t.width (max (t.value a) (t.value b)))
    | .and => t.toReg ((a &&& b).toNat % 2 ^ t.width)
    | .or => t.toReg ((a ||| b).toNat % 2 ^ t.width)
    | .xor => t.toReg ((a ^^^ b).toNat % 2 ^ t.width)
  | .flt t =>
    match op with
    | .min => t.minmax false a b
    | .max => t.minmax true a b
    | _ => t.res .rn (FVal.add .rn (t.value a) (t.value b))

/-- A value read as a type, in the layout of its register. -/
def redLeaf (t : RedTy) (a : W64) : W64 :=
  match t with
  | .int t => t.toReg (a.toNat % 2 ^ t.width)
  | .flt t => t.toReg (a.toNat % 2 ^ t.width)

/-- The source lane of a shuffle (R132). -/
def shflFrom (m : ShflMode) (w h : Nat) (b : W64) : Nat :=
  let n := b.toNat % 2 ^ 32
  match m with
  | .from => n % w
  | .rot => (h + n) % w
  | .flip => (h ^^^ n) % w
  | .edge =>
    let j : Int := h + sextNat 32 n
    if j < 0 ∨ (w : Int) - 1 < j then h else j.toNat

/-- What each named active fibre receives from a completed rendezvous: the destination, the
number of registers, the value, and a value for pS. -/
structure RdvOut where
  lane : Nat
  dst : Option Nat
  n : Nat
  val : Nat
  pred : Option (BitVec 4 × Bool)

def dstReg : Dst → Option Nat
  | .reg b => some b.toNat
  | _ => none

/-- The results of a completed rendezvous (R131 to R133). -/
def rdvResults (k : Crew) (v : Rdv) : List RdvOut :=
  let w := footLanes k.foot
  let c := v.arrived.cells.filter fun (lane, a) => a.active && v.mask.getLsbD lane
  match v.instr with
  | .vote _ m cnt narrow p d _ =>
    let holds := c.filter fun (lane, _) =>
      (k.fibres.get? lane).any fun f => f.pred.getLsbD p.toNat
    let b := maskOf (holds.map (·.1))
    let res := if cnt then BitVec.ofNat 64 holds.length else b
    c.map fun (lane, _) =>
      { lane, dst := dstReg d, n := if narrow then 1 else 2, val := res.toNat
        pred := (voteFlag m b (maskOf (c.map (·.1)))).map fun x => (p, x) }
  | .shfl _ m t d _ _ _ =>
    c.map fun (lane, a) =>
      let j := shflFrom m w lane a.b
      let val := match c.find? (fun p => p.1 == j) with
        | some (_, x) => x.a
        | none => a.a
      { lane, dst := dstReg d, n := t.regs, val := (t.toReg (val.toNat % 2 ^ t.width)).toNat
        pred := none }
  | .red _ op t d _ _ =>
    let leaves := (List.range w).map fun i =>
      (c.find? fun p => p.1 == i).map fun p => redLeaf t p.2.a
    match tree (redCombine op t) (if w = 64 then 6 else 5) leaves with
    | none => []
    | some x => c.map fun (lane, _) =>
        { lane, dst := dstReg d, n := NTy.regs t, val := x.toNat, pred := none }
  | _ => []

/-- One result of a rendezvous written to its fibre. -/
def rdvWrite (k : Crew) (o : RdvOut) : Crew :=
  let k1 := match o.dst with
    | some v => regWrite k v o.lane o.n o.val
    | none => k
  match o.pred, k1.fibres.get? o.lane with
  | some (p, b), some f =>
    { k1 with fibres := k1.fibres.put o.lane { f with pred := predPut f.pred p b } }
  | _, _ => k1

/-! ### quit (R127) -/

/-- A crew with some of its fibres quitting. -/
def quitFibres (k : Crew) (lanes : List Nat) : Crew :=
  { k with fibres := k.fibres.mapKV fun l f => if lanes.contains l then { f with st := .quitting } else f }

/-- The barrier effects that quitting creates: the departures of a crew that ends, or the
arrivals that the remaining fibres complete (R52, R127, R134). -/
def quitEffects (k : Crew) : List (LKind × Effect) :=
  if (liveFibres k).isEmpty then k.groups.map fun g => (.departure, .depart g)
  else (k.groups.filter fun g => crewArrives k g).map fun g => (.arrival, .arrive g)

/-- MEMBER_EXITED for the rendezvous that name a fibre that has quit (R46, R127). -/
def quitRdvs (s : State) (c slot : Nat) (lanes : List Nat) : State :=
  match s.crew? c slot with
  | none => s
  | some k =>
    (k.rdvs.filter fun v => v.done.isNone && lanes.any fun l => v.mask.getLsbD l).foldl
      (fun s v => trapRdv s c slot v .memberExited) s

/-- The end of fibres of a crew, with what it creates (R127). -/
def quitCrew (s : State) (c slot : Nat) (lanes : List Nat) : State :=
  let s1 := quitRdvs (s.mapCrew c slot fun k => quitFibres k lanes) c slot lanes
  match s1.crew? c slot with
  | none => s1
  | some k => (quitEffects k).foldl (fun s (kind, e) =>
      match e with
      | .arrive g => sendArrival s c slot g
      | e => lodgeEffect s c slot kind none e) s1

def execQuit (g : Guard) (s : State) : Out :=
  issue (fun _ _ => []) (fun s r =>
    let l := activeLanes s r g
    let lanesIn := fun slot => (l.filter fun x => x.slot == slot).map (·.lane)
    let slots := dedup (l.map (·.slot))
    let need := (slots.map fun x => match s.crew? r.core x with
      | some k => (quitEffects (quitFibres k (lanesIn x))).length
      | none => 0).sum
    if !lodgeRoom s r need then holdLodge s r need
    else
      let s1 := slots.foldl (fun s x => quitCrew s r.core x (lanesIn x)) s
      finish s1 { r with quits := l.map fun x => (x.lane, x.slot) } 0) s

end Sys2Proof.Machine
end

