-- ==== Sys2Proof/Machine/DevRegs.lean ====
section
/-! DEFINITION. Reading the device registers of R403. -/
namespace Sys2Proof.Machine
open Sys2Proof

/-- A byte of a list, zero beyond its end. -/
def listByte (l : List Byte) (i : Nat) : Byte := l.getD i 0

/-- DOMMAP word k: the bit of the module itself always reads 1 (R409). -/
def dommapWord (s : State) (k : Nat) : W64 :=
  let w := s.mod.dommap.getD k 0
  if ownModule s / 64 = k then setBit w (ownModule s % 64) true else w

/-- PRQ word 0, which is only written, and word 1 of a core (R406). -/
def prqWord (s : State) (c i : Nat) : W64 :=
  let k := s.core c
  if i = 0 then 0 else setFld (setBit 0 63 k.prqBusy) 1 0 k.prqRes.toNat

/-- BISTSTAT (R417). -/
def bistStat (s : State) : W64 :=
  let n := s.mod.bistFailed.length
  let first := (s.mod.bistFailed.headD 0xFFFF).toNat
  let w : W64 := setFld (setFld 0 31 16 first) 47 32 n
  setBit (setBit (setBit (setBit w 0 (s.mod.bistDone && n == 0)) 1 s.mod.bistBusy) 2
    s.mod.bistDone) 3 s.mod.bistRefused

/-- PWRSTAT (R419). -/
def pwrStat (s : State) : W64 :=
  (List.range 32).foldl (fun w k => setBit w k (s.cluster k).near)
    (setFld 0 34 32 s.mod.pstate.toNat)

/-- The 8-byte word at an aligned offset of the device-register range (R403). -/
def devWord (s : State) (off : Nat) : W64 :=
  let m := s.mod
  let bytes := fun (l : List Byte) (base : Nat) =>
    BitVec.ofNat 64 (ofBytes ((List.range 8).map fun i => listByte l (off - base + i)))
  if off = 0 then 0x5847000800010000
  else if off = 0x1800 then m.hoststat
  else if 0x2000 ≤ off ∧ off < 0x3000 then prqWord s ((off - 0x2000) / 16) ((off - 0x2000) / 8 % 2)
  else if off = 0x3000 then m.cvcfg
  else if 0x3100 ≤ off ∧ off < 0x3180 then dommapWord s ((off - 0x3100) / 8)
  else if off = 0x3200 then m.msgtx &&& 3
  else if off = 0x3208 then m.msgrx
  else if off = 0x4000 then m.bootctl
  else if off = 0x4008 then m.bootstat
  else if 0x4100 ≤ off ∧ off < 0x4180 then
    bytes (m.meas.getD ((off - 0x4100) / 32) []) (0x4100 + (off - 0x4100) / 32 * 32)
  else if 0x4200 ≤ off ∧ off < 0x4220 then bytes m.attnonce 0x4200
  else if off = 0x4220 then m.attctl
  else if 0x4240 ≤ off ∧ off < 0x4280 then bytes m.attsig 0x4240
  else if 0x4300 ≤ off ∧ off < 0x4340 then bytes Config.devPub 0x4300
  else if 0x4400 ≤ off ∧ off < 0x4440 then bytes m.keybuf 0x4400
  else if off = 0x5000 then m.bistctl
  else if off = 0x5008 then bistStat s
  else if 0x5100 ≤ off ∧ off < 0x5300 then
    let i := (off - 0x5100) / 8 * 4
    BitVec.ofNat 64 ((List.range 4).foldl (fun w j =>
      w + ((m.bistFailed.getD (i + j) 0xFFFF).toNat) * 2 ^ (16 * j)) 0)
  else if off = 0x6000 then m.pwrctl
  else if off = 0x6008 then pwrStat s
  else if off = 0x7000 then m.modcool
  else if 0x8000 ≤ off ∧ off < 0x9000 then bytes Config.cert 0x8000
  else 0

/-- A read of 4 or 8 bytes at a physical address of the range. -/
def devRead (s : State) (pa size : Nat) : Nat :=
  let off := pa - 0x20000000000
  let w := (devWord s (off / 8 * 8)).toNat
  if size = 8 then w else w / 2 ^ (8 * (off % 8)) % 2 ^ 32

end Sys2Proof.Machine
end

