-- ==== Sys2Proof/Machine/MemExec.lean ====
section
/-! DEFINITION. The memory instructions, 0x100 to 0x12B (R179 to R204): checking an access,
loads, stores, acquire, release, `phase`, `fence`, atomics, prefetch, invalidate and
write-back. -/
namespace Sys2Proof.Machine
open Sys2Proof

/-! ### Checking an access (R156, R173, R176, R177, R182, R184, R189) -/

/-- What one access is: its size, whether it writes, is an atomic, is `ld.g.io`, is `st.g`. -/
structure AccKind where
  n : Nat
  write : Bool
  atomic : Bool
  io : Bool
  plainG : Bool
deriving DecidableEq, Repr

/-- What the check of an access answers: the physical byte addresses, each with the ATTR and CLASS of
its page, or a fault with its address, or a TLB miss. -/
inductive AccRes where
  | ok (pas : List Nat) (tags : List (BitVec 3 × BitVec 2))
  | fault (cause : Cause) (data : Nat)
  | miss (va : Nat)
deriving DecidableEq, Repr

/-- One page of an access: its entry, a fault or a miss (R173, R174). -/
inductive PageRes where
  | ok (s : State) (e : TlbE)
  | fault (cause : Cause)
  | miss

/-- The translation of the page of one address for an access of the batch. -/
def pageFor (s : State) (r : Run) (slot : Nat) (pasid : BitVec 20) (va : Nat) (write : Bool) :
    PageRes :=
  match r.fails.find? fun p => p.1 == failKey va with
  | some (_, cause) => .fault cause
  | none =>
    match tlbLook s r.core pasid va with
    | none => .miss
    | some (t, e) =>
      let s := if (tlbFind (s.core r.core).tlb pasid va).isSome then t else note t r.core slot 15 1
      match leafCheck e.leaf (isKeeper slot) write false with
      | some cause => .fault cause
      | none =>
        let (s, f) := markLeaf s e write
        .ok (tlbReplace s r.core e f) f

/-- The attributes in which the two pages of one access must agree (R177). -/
def sameAttrs (a b : W64) : Bool :=
  bit a 2 == bit b 2 && bit a 3 == bit b 3 && bit a 4 == bit b 4 &&
    leafCls a == leafCls b && leafAttr a == leafAttr b

/-- The device-register rules for a page with ATTR 2 (R189, R403). -/
def devCheck (k : AccKind) (keeper : Bool) (pa : Nat) : Option Cause :=
  if !(k.io || (k.plainG && k.write && !k.atomic)) then some .permission
  else if k.n != 4 && k.n != 8 then some .permission
  else if !keeper && (pa - 0x20000000000) / 8 * 8 != 0x1000 then some .permission
  else none

/-- A `.g` access at a virtual address (R177, R184). -/
def checkG (s : State) (r : Run) (slot : Nat) (crew : Crew) (k : AccKind) (va : Nat) :
    State × AccRes :=
  if k.atomic && va % k.n != 0 then (s, .fault .alignment va)
  else
    let pasid := tctxPasid (tctxOf s slot crew)
    match pageFor s r slot pasid va k.write with
    | .miss => (s, .miss va)
    | .fault cause => (s, .fault cause va)
    | .ok s e =>
      let va2 := (va + k.n - 1) % 2 ^ 56
      let done := fun (s : State) (pas : List Nat) =>
        let attr := leafAttr e.leaf
        let pa := pas.headD 0
        if attr = 2 && va % k.n != 0 then (s, AccRes.fault .alignment va)
        else match (if attr = 2 then devCheck k (isKeeper slot) pa else none) with
          | some cause => (s, .fault cause va)
          | none =>
            match pas.find? fun p => zoneOf p == .domain && !domainPresent s p with
            | some _ => (s, .fault .domainAbsent va)
            | none => (s, .ok pas (pas.map fun _ => (attr, leafCls e.leaf)))
      if e.covers pasid va2 then
        done s ((List.range k.n).map fun i => leafPa e.leaf e.level ((va + i) % 2 ^ 56))
      else
        match pageFor s r slot pasid va2 k.write with
        | .miss => (s, .miss va2)
        | .fault cause => (s, .fault cause va2)
        | .ok s f =>
          if !sameAttrs e.leaf f.leaf then (s, .fault .attrSplit va)
          else done s ((List.range k.n).map fun i =>
            let a := (va + i) % 2 ^ 56
            if e.covers pasid a then leafPa e.leaf e.level a else leafPa f.leaf f.level a)

/-- The bytes of a fibre's private space (R156, R289). -/
def privParams (s : State) (crew : Crew) : Nat × Nat :=
  match crewLaunch s crew with
  | some l =>
    let p := fld (l.post.packet.getD 5 0) 31 0
    (fld (l.post.packet.getD 4 0) 55 0 + crew.number.toNat * p * footLanes crew.foot, p)
  | none => (0, 0)

def privVa (s : State) (crew : Crew) (lane o : Nat) : Nat :=
  ((privParams s crew).1 + o / 4 * 4 * footLanes crew.foot + 4 * lane + o % 4) % 2 ^ 56

/-- A `.p` access: one part for each 4-byte private word, each checked on its own (R156). -/
def checkP (s : State) (r : Run) (slot : Nat) (crew : Crew) (k : AccKind) (lane o : Nat) :
    State × AccRes :=
  if (privParams s crew).2 < o + k.n then (s, .fault .privateBound o)
  else
    (List.range k.n).foldl (fun (p : State × AccRes) i =>
      match p.2 with
      | .ok pas tags =>
        let va := privVa p.1 crew lane (o + i)
        match checkG p.1 r slot crew { k with n := 1 } va with
        | (s, .ok q t) =>
          if t.any fun x => x.1 == 2 then (s, .fault .permission va)
          else (s, .ok (pas ++ q) (tags ++ t))
        | (s, e) => (s, e)
      | e => (p.1, e)) (s, .ok [] [])

/-- A `.s` access (R156, R187): the on-chip map addresses of the core's own store. -/
def checkS (crew : Crew) (c : Nat) (k : AccKind) (o : Nat) : AccRes :=
  if scratchBytes crew.foot < o + k.n then .fault .scratchBound o
  else .ok ((List.range k.n).map fun i => chipPa c (crew.sbase + o + i)) (List.replicate k.n (0, 0))

/-- A `.w` access whose place is resolved (R169, R182). -/
def checkW (s : State) (t : Nat) (k : AccKind) (o : Nat) : AccRes :=
  let tg := (List.range k.n).map fun i => winTarget (s.core t) (o + i)
  if 0x200000 ≤ o || tg.contains .unowned then .fault .windowUnowned o
  else if k.write && tg.any (fun x => match x with | .operand _ => true | _ => false) then
    .fault .permission o
  else .ok ((List.range k.n).map fun i => chipPa t (o + i)) (List.replicate k.n (0, 0))

/-- The spaces of the loads and stores. -/
inductive Space where
  | g | s | w | p
deriving DecidableEq, Repr

/-- The check of one fibre's access in its space (R184). -/
def checkAcc (s : State) (r : Run) (x : LaneCtx) (sp : Space) (m : MAddr) (k : AccKind) :
    State × AccRes :=
  match sp with
  | .g => checkG s r x.slot x.crew k (vaOf x.crew r x.lane m)
  | .p => checkP s r x.slot x.crew k x.lane (offOf x.crew r x.lane m)
  | .s => (s, checkS x.crew r.core k (offOf x.crew r x.lane m))
  | .w =>
    match placeResolve s r.core x.slot x.crew (winPlace x.crew r x.lane m) with
    | .error cause => (s, .fault cause 0)
    | .ok (_, t) => (s, checkW s t k (winOff x.crew r x.lane m))

/-- The address keys by which S counts sectors before any check (R185). -/
def sectorKeys (s : State) (r : Run) (x : LaneCtx) (sp : Space) (m : MAddr) (n : Nat) : List Nat :=
  match sp with
  | .g => (List.range n).map fun i => (vaOf x.crew r x.lane m + i) % 2 ^ 56 / 64
  | .p => (List.range n).map fun i => privVa s x.crew x.lane (offOf x.crew r x.lane m + i) / 64
  | .s => []
  | .w =>
    let p := winPlace x.crew r x.lane m
    (List.range n).map fun i => (winOff x.crew r x.lane m + i) / 64 +
      2 ^ 40 * (p.dx.toNat + 64 * p.dy.toNat + 4096 * p.dd.toNat)

/-- S of a crew (R185). -/
def sectorCount (s : State) (r : Run) (l : List LaneCtx) (slot : Nat) (sp : Space) (m : MAddr)
    (n : Nat) : Nat :=
  (dedup ((l.filter fun x => x.slot == slot).map fun x => sectorKeys s r x sp m n).flatten).length

/-- The part of the charge that depends on values, taken once when the position first issues
(R114, R185, R344). -/
def takeSectors (s : State) (r : Run) (l : List LaneCtx) (sp : Space) (m : MAddr) (n : Nat) :
    State :=
  if r.taken then s
  else r.slots.foldl (fun s x => chargeCrew s r.core x 0 (sectorCount s r l x sp m n)) s

/-- Whether the report of an array error makes a crew's next access to a sector take MACHINE_CHECK, and
the state in which it has (R178). -/
def reported (s : State) (c : Nat) (k : Crew) (sector : Nat) : State × Bool :=
  let mine := fun (u : Upset) => u.told == some sector && u.crews.contains (c, k.tenant, k.number)
  if s.upsets.any mine then
    ({ s with upsets := s.upsets.map fun u =>
        if mine u then { u with crews := u.crews.erase (c, k.tenant, k.number) } else u }, true)
  else (s, false)

/-- Whether an uncorrectable array error meets one byte of a fibre's access: a load reads its own
scratchpad, a window, or the nearest array that holds the sector, and an atomic or a commit point the
home (R178); bytes that its lodge forwards are no read of an array. -/
def byteError (s : State) (c : Nat) (x : LaneCtx) (sp : Space) (k : AccKind) (attr : BitVec 3) (pa : Nat) :
    State × Option Site :=
  let p := canonPa s pa
  let plain := !k.atomic && !k.io && !(sp == .g && !k.plainG)
  if zoneOf p == .regs || (k.write && !k.atomic && zoneOf p == .chip) ||
      (plain && (lodgeByte (s.core c) x.slot p).isSome) then (s, none)
  else if sp == .s then
    readSites s c (some (c, x.slot)) (· == .scratch ((p - chipPa c x.crew.sbase) / 4))
  else if zoneOf p == .chip then
    readWin s c ((p - 0x10000000000) / 0x200000) ((p - 0x10000000000) % 0x200000)
  else if s.upsets.isEmpty then (s, none)
  else match reported s c x.crew (p / 64) with
    | (s, true) => (s, some (homeSite s (p / 64)))
    | (s, false) =>
      if k.write && !k.atomic then (s, none)
      else
        let at_ := if !plain then homeSite s (p / 64)
          else if attr = 1 then l2Site s (clusterOf c) (p / 64) else loadSite s c (p / 64)
        readSites s c none (· == at_)

/-- An access that passed its checks takes MACHINE_CHECK where it meets an uncorrectable array error
(R176, R178). -/
def accErrors (s : State) (c : Nat) (x : LaneCtx) (sp : Space) (k : AccKind) (a : AccRes) :
    State × AccRes :=
  match a with
  | .ok pas tags =>
    (pas.zip tags).foldl (fun (p : State × AccRes) (pa, tag) =>
      match p.2 with
      | .ok .. =>
        match byteError p.1 c x sp k tag.1 pa with
        | (s, some _) => (s, .fault .machineCheck (canonPa s pa / 64))
        | (s, none) => (s, p.2)
      | _ => p) (s, a)
  | _ => (s, a)

/-- The accesses of the active fibres, in order of the lane. -/
def checkAll (s : State) (r : Run) (l : List LaneCtx) (sp : Space) (m : MAddr) (k : AccKind) :
    State × List (LaneCtx × AccRes) :=
  l.foldl (fun p x =>
    let (s1, a1) := checkAcc p.1 r x sp m k
    let (s, a) := accErrors s1 r.core x sp k a1
    (s, p.2 ++ [(x, a)])) (s, [])

/-- Whether a crew's access to a page stands in the walk queue. -/
def crewAsks (s : State) (c slot va : Nat) : Bool :=
  (s.cluster (clusterOf c)).misses.any fun m => m.askers.any fun a =>
    a.core == c && failKey a.va == failKey va &&
      match a.kind with | .access _ x => x == slot | _ => false

/-- The misses of a batch join the queue of their cluster (R174), and are counted, once for each page
and crew (R353). -/
def queueMisses (s : State) (r : Run) (write : Bool) (l : List (LaneCtx × AccRes)) : State :=
  l.foldl (fun s (x, a) =>
    match a with
    | .miss va =>
      let said := crewAsks s r.core x.slot va
      match askWalk s (clusterOf r.core) (tctxOf s x.slot x.crew)
          { core := r.core, kind := .access x.lane x.slot, keeper := isKeeper x.slot, write
            fetch := false, va } with
      | (s, true) => if said then s else note s r.core x.slot 15 1
      | (s, false) => s
    | _ => s) s

/-- The faults of the accesses (R176). -/
def accFaults (l : List (LaneCtx × AccRes)) : List (Nat × Nat × Cause × W64) :=
  l.filterMap fun (x, a) =>
    match a with
    | .fault cause data => some (x.lane, x.slot, cause, BitVec.ofNat 64 data)
    | _ => none

/-- An access that passed. -/
structure Acc where
  x : LaneCtx
  pas : List Nat
  tags : List (BitVec 3 × BitVec 2)

/-- The ATTR of the page of an access; those of a `.p` access may differ by word (R156). -/
def Acc.attr (a : Acc) : BitVec 3 := (a.tags.headD (0, 0)).1

def accOk (l : List (LaneCtx × AccRes)) : List Acc :=
  l.filterMap fun (x, a) =>
    match a with
    | .ok pas tags => some { x, pas, tags }
    | _ => none

/-- The faults of a write access say so, for the page request (R406). -/
def faultWrites (s : State) (c : Nat) (l : List (Nat × Nat × Cause × W64)) (write : Bool) : State :=
  if !write then s
  else l.foldl (fun s (lane, slot, _, _) => s.mapFibre c slot lane fun f =>
    match f.st with
    | .trapped t => { f with st := .trapped { t with wr := true } }
    | _ => f) s

/-- The shape of every memory access of a batch: S charged, the accesses checked, the batch
held while a translation is awaited; the faulting fibres trap and `body` carries out the
rest. -/
def accessAll (i : Instr) (g : Guard) (sp : Space) (m : MAddr) (k : AccKind)
    (body : State → Run → List LaneCtx → List Acc → State) (s : State) : Out :=
  issue (fun s r => regsOf (r.narrow s) i) (fun s r =>
    let l := activeLanes s r g
    let s1 := takeSectors s r l sp m k.n
    let r1 := { r with taken := true }
    let (s2, res) := checkAll s1 r1 l sp m k
    if res.any fun p => match p.2 with | .miss _ => true | _ => false then
      requeue (queueMisses s1 r1 k.write res) { r1 with hold := some .walk, asked := s.now }
    else
      let (s3, r2) := trapFibres s2 r1 (accFaults res)
      body (faultWrites s3 r.core (accFaults res) k.write) r2 (lanesUnder s r g) (accOk res)) s

/-! ### Scoreboarded results (R66) -/

/-- The register of a load's destination and how many it writes. -/
def loadRegs (d : Dst) (n : Nat) : Nat × Nat :=
  match d with
  | .reg b => (b.toNat, n)
  | _ => (0, 0)

/-- Whether a counter of a crew of the batch stands at its limit (R66). -/
def sbFull (s : State) (r : Run) : Bool :=
  r.slots.any fun x => (s.crew? r.core x).any fun k => k.sb.getD (r.pos % 8) 0 == 255

/-- A scoreboarded issue of each crew of the batch: its counter rises, and its results are in
flight, ready to land or awaiting data (R66). -/
def addFlights (s : State) (r : Run) (lanes : Nat → Tab FLane) : State :=
  r.slots.foldl (fun s x =>
    let (s, id) := freshId s r.core
    let t := lanes x
    s.mapCrew r.core x fun k =>
      { k with sb := k.sb.put (r.pos % 8) (k.sb.getD (r.pos % 8) 0 + 1)
               flights := k.flights ++ [{ id, sbi := r.pos % 8, lanes := t
                                          ready := t.vals.all fun l => l.req.isNone }] }) s

/-- The in-flight lanes of a crew from a list. -/
def lanesTab (l : List (LaneCtx × FLane)) (slot : Nat) : Tab FLane :=
  (l.filter fun p => p.1.slot == slot).foldl (fun t (x, f) => t.put x.lane f) .empty

/-- A result whose value is known. -/
def readyLane (d : Dst) (n size : Nat) (sx : Bool) (v : Nat) : FLane :=
  let (reg, k) := loadRegs d n
  { reg, n := k, size, sx, data := BitVec.ofNat 512 v, req := none, dead := [] }

/-- The registers a load's bytes give: sign- or zero-extended (R99, R183). -/
def loadValue (f : FLane) : Nat :=
  let v := f.data.toNat % 2 ^ (8 * f.size)
  if f.sx then wrap 32 (sextNat (8 * f.size) v) else v

/-! ### Plain loads (R186, R187) -/

/-- What one lane of a load finds at issue: the bytes of its crew's lodge entries, of the L1, of its
own scratchpad, and for a window's addresses of the target core (R186). -/
def loadLane (s : State) (c : Nat) (sp : Space) (a : Acc) (d : Dst) (sz : Size) (sx ev : Bool) :
    FLane :=
  let co := s.core c
  let got := (a.pas.zip a.tags).map fun (pa, tag) =>
    match lodgeByte co a.x.slot (canonPa s pa) with
    | some b => some b
    | none =>
      if sp = .s then some (a.x.crew.scratch.getD (pa - chipPa c a.x.crew.sbase) 0)
      else if zoneOf pa = .chip then
        some (winGet (s.core ((pa - 0x10000000000) / 0x200000)) ((pa - 0x10000000000) % 0x200000))
      else if tag.1 = 1 then none
      else (l1Find co (canonPa s pa / 256)).map fun x => byteOf x.data (pa % 256)
  let (reg, n) := loadRegs d sz.regs
  if got.all (·.isSome) then
    { reg, n, size := sz.bytes, sx, data := BitVec.ofNat 512 (ofBytes (got.map (·.getD 0)))
      req := none, dead := [] }
  else
    { reg, n, size := sz.bytes, sx, data := 0
      req := some { pas := a.pas.map (canonPa s), got, tags := a.tags, ev }
      dead := [] }

/-- The bank rows of a scratchpad access: the batch is held one cycle for each row beyond the
first of its busiest bank (R155). -/
def bankCc (pas : List Nat) : Nat :=
  let rows := dedup (pas.map fun p => p % 0x200000 / 128)
  let busiest := (List.range 32).foldl (fun m b =>
    max m (rows.filter fun r => r % 32 == b).length) 0
  busiest - 1

/-- The end of a position that accesses memory: scratchpad bank rows hold the batch (R155). -/
def finishBank (s : State) (r : Run) (sp : Space) (l : List Acc) : State :=
  let cc := if sp = .s then bankCc (l.map (·.pas)).flatten else 0
  finish (r.slots.foldl (fun s x => note s r.core x 10 cc) s) r cc

/-- The lines that loads of a crew find absent from the L1 (R353). -/
def l1Misses (l : List (LaneCtx × FLane)) (slot : Nat) : Nat :=
  (dedup ((l.filter fun p => p.1.slot == slot).map fun p =>
    match p.2.req with
    | some q => ((q.pas.zip (q.got.zip q.tags)).filter fun x => x.2.1.isNone && x.2.2.1 != 1).map
        fun x => x.1 / 256
    | none => []).flatten).length

def plainLoad (i : Instr) (g : Guard) (sp : Space) (d : Dst) (m : MAddr) (sz : Size)
    (sx ev : Bool) (s : State) : Out :=
  accessAll i g sp m ⟨sz.bytes, false, false, false, decide (sp = .g)⟩ (fun s r _ l =>
    if sbFull s r then retryRun s r
    else
      let s1 := l.foldl (fun s a => a.pas.foldl (fun s pa =>
        s.mapCore r.core fun co => l1Touch co (pa / 256)) s) s
      let fl := l.map fun a => (a.x, loadLane s r.core sp a d sz sx ev)
      let s2 := r.slots.foldl (fun s x => note s r.core x 8 (l1Misses fl x)) s1
      finishBank (addFlights s2 r (lanesTab fl)) r sp l) s

def execLdG (g : Guard) (d : Dst) (m : MAddr) (sz : Size) (sx ev : Bool) : State → Out :=
  plainLoad (.ldG g d m sz sx ev) g .g d m sz sx ev
def execLdS (g : Guard) (d : Dst) (m : MAddr) (sz : Size) (sx : Bool) : State → Out :=
  plainLoad (.ldS g d m sz sx) g .s d m sz sx false
def execLdW (g : Guard) (d : Dst) (m : MAddr) (sz : Size) (sx : Bool) : State → Out :=
  plainLoad (.ldW g d m sz sx) g .w d m sz sx false
def execLdP (g : Guard) (d : Dst) (m : MAddr) (sz : Size) (sx ev : Bool) : State → Out :=
  plainLoad (.ldP g d m sz sx ev) g .p d m sz sx ev

/-! ### Stores (R159, R187 to R189) -/

/-- The die to which the entry of a physical address crosses (R17, R28, R215). -/
def crossHome (s : State) (c pa : Nat) : Option Nat :=
  let a := canonPa s pa
  let d := match zoneOf a with
    | .chip => dieOf ((a - 0x10000000000) / 0x200000)
    | .device | .regs => homeOf a
    | _ => dieOf c
  if d = dieOf c then none else some d

/-- The effect of a window write: the crew whose window or scratchpad the bytes lie in, with
the bases they were resolved against, so that the release finds them again (R169). -/
def windowEffect (s : State) (place pa : Nat) : Effect :=
  let t := (pa - 0x10000000000) / 0x200000
  let o := (pa - 0x10000000000) % 0x200000
  let owner := match winTarget (s.core t) o with
    | .reg slot .. | .acc slot .. | .scratch slot _ => (s.core t).crews.get? slot
    | _ => none
  match owner with
  | some k => .window place (o / 64 * 64)
      ⟨k.tenant, k.number, k.base0, k.base1, k.sbase, k.abase⟩
  | none => .bytes

/-- The sector writes of one crew's accesses, in order of the lane (R159, R188). -/
def storeSectors (s : State) (r : Run) (sp : Space) (ev : Bool)
    (l : List (Acc × List Byte × Nat)) : List SectorW :=
  l.foldl (fun ws (a, bytes, place) =>
    (a.pas.zip (a.tags.zip bytes)).foldl (fun ws (pa, tag, b) =>
      let pa := canonPa s pa
      sectorAdd pa b tag.1 tag.2 ev (crossHome s r.core pa)
        (if sp = .w then windowEffect s place pa else .bytes) ws) ws) []

/-- The lodge kind of a space's stores. -/
def storeKind : Space → LKind
  | .s => .scratch
  | .w => .window
  | _ => .store

/-- The place that a `.w` access names; zero otherwise. -/
def accPlace (s : State) (r : Run) (x : LaneCtx) (sp : Space) (m : MAddr) : Nat :=
  match sp with
  | .w => match placeResolve s r.core x.slot x.crew (winPlace x.crew r x.lane m) with
    | .ok (n, _) => n
    | .error _ => 0
  | _ => 0

/-- The two sectors in which the parts of an access that crosses a line or a page meet (R177). -/
def partsOf (s : State) (pas : List Nat) : Option (Nat × Nat) :=
  let l := pas.map (canonPa s)
  ((l.zip l.tail).find? fun p => p.1 / 256 != p.2 / 256).map fun p => (p.1 / 64, p.2 / 64)

/-- The entries of the parts of one store are released together (R177). -/
def pairParts (s : State) (c : Nat) (a : Acc) : State :=
  match partsOf s a.pas, s.crew? c a.x.slot with
  | some (p, q), some k =>
    let at_ := fun (n : Nat) => (s.core c).lodge.find? fun e =>
      e.slot == a.x.slot && e.rseq == k.rseq && e.sector == n && !e.cleared &&
        (e.kind == .store || e.kind == .window)
    match at_ p, at_ q with
    | some e, some f =>
      s.mapCore c fun co => { co with lodge := co.lodge.map fun x =>
        if x.id = e.id && x.mate.isNone then { x with mate := some f.id }
        else if x.id = f.id && x.mate.isNone then { x with mate := some e.id } else x }
    | _, _ => s
  | _, _ => s

/-- A store: the bytes of each crew combined by sector into lodge entries; a device write
takes an entry of its own (R159, R188, R189). -/
def plainStore (i : Instr) (g : Guard) (sp : Space) (a : Src) (m : MAddr) (sz : Size)
    (ev : Bool) (s : State) : Out :=
  accessAll i g sp m ⟨sz.bytes, true, false, false, decide (sp = .g)⟩ (fun s r _ l =>
    let data := l.map fun x =>
      (x, toBytes sz.bytes (srcNat x.x.crew r x.x.lane sz.regs a), accPlace s r x.x sp m)
    let dev := data.filter fun p => p.1.attr == 2
    let mem := data.filter fun p => p.1.attr != 2
    let per := r.slots.map fun slot =>
      (slot, storeSectors s r sp ev (mem.filter fun p => p.1.x.slot == slot))
    let need := dev.length + (per.map fun p => lodgeCost s r.core p.1 (storeKind sp) p.2).sum
    if !lodgeRoom s r need then holdLodge s r need
    else
      let s0 := per.foldl (fun s (slot, ws) =>
        ws.foldl (fun s w => lodgeWrite s r.core slot (storeKind sp) w) s) s
      let s1 := if sp = .g ∨ sp = .w then mem.foldl (fun s p => pairParts s r.core p.1) s0 else s0
      let s2 := dev.foldl (fun s (x, bytes, _) =>
        lodgeNew s r.core x.x.slot .device
          { sector := x.pas.headD 0 / 64, mask := 0, data := 0, attr := 2, cls := 0, ev := false
            home := dieZero r.core
            eff := .dev (x.pas.headD 0) sz.bytes (BitVec.ofNat 64 (ofBytes bytes)) }) s1
      finishBank s2 r sp l) s

def execStG (g : Guard) (a : Src) (m : MAddr) (sz : Size) (ev : Bool) : State → Out :=
  plainStore (.stG g a m sz ev) g .g a m sz ev
def execStS (g : Guard) (a : Src) (m : MAddr) (sz : Size) : State → Out :=
  plainStore (.stS g a m sz) g .s a m sz false
def execStW (g : Guard) (a : Src) (m : MAddr) (sz : Size) : State → Out :=
  plainStore (.stW g a m sz) g .w a m sz false
def execStP (g : Guard) (a : Src) (m : MAddr) (sz : Size) (ev : Bool) : State → Out :=
  plainStore (.stP g a m sz ev) g .p a m sz ev

/-! ### Access at the home (R190, R191, R195) -/

/-- Dirty sectors of a line in any L2 of its home die reach the home before an access there
(R218: the home holds the latest write), and the access finds its sector in the last-level cache
(R165). -/
def homeCollect (s : State) (pa : Nat) : State :=
  let line := canonPa s pa / 256
  llcFill ((s.clusters.keys.filter fun k =>
    (l2Find (s.cluster k) line).any fun x => x.dirty != 0).foldl (fun s k => l2Clean s k line) s)
    (canonPa s pa / 64)

/-- Bytes written at the home, and the L2 copy of the storing cluster updated (R18, R28). -/
def homeWrite (s : State) (c pa : Nat) (bytes : List Byte) : State :=
  (List.range bytes.length).foldl (fun s i =>
    l2Put s (clusterOf c) (canonPa s (pa + i)) (bytes.getD i 0) false)
    (homePuts (homeCollect s pa) pa bytes)

/-- Bytes written at the home; the L1 and L2 copies of the storing cluster are updated in the
same step (R191). -/
def homeStore (s : State) (c pa : Nat) (bytes : List Byte) : State :=
  (List.range bytes.length).foldl (fun s i =>
    ((List.range 8).map fun j => clusterOf c * 8 + j).foldl (fun s x =>
      l1Put s x (canonPa s (pa + i)) (bytes.getD i 0)) s) (homeWrite s c pa bytes)

/-- Whether messages of the core are still on the way to a die: a commit point travels behind
them (R187, R210). -/
def netBusy (s : State) (c : Nat) : Bool :=
  [0, 1, 2, 3].any fun d => !(s.net.getD (c * 4 + d) []).isEmpty

/-- The value that the replay record of a crew's region holds for a lane (R210). -/
def replayed (x : LaneCtx) : Option (BitVec 128) :=
  (x.crew.region.bind (·.replay)).bind fun t => t.get? x.lane

/-- The replay record gains the results of position 0 (R210). -/
def recordReplay (s : State) (c : Nat) (l : List (LaneCtx × BitVec 128)) : State :=
  l.foldl (fun s (x, v) => s.mapCrew c x.slot fun k =>
    { k with region := k.region.map fun g =>
        { g with replay := some ((g.replay.getD .empty).put x.lane v) } }) s

/-- Whether an address lies in host memory while the link is down (R405). -/
def hostAway (s : State) (pa : Nat) : Bool :=
  zoneOf (canonPa s pa) == .host && !bit s.mod.hoststat 0

/-- Whether a commit point awaits the reply of another module of the domain: its bytes, which
LOAD_DATA_RETURN brings to the batch (R199). -/
def awaitsReply (s : State) (r : Run) (l : List Acc) : Bool :=
  (!r.tmp.any fun p => p.1 == 7) && l.any fun a => a.pas.any fun pa => zoneOf (canonPa s pa) == .domain

/-- Whether this issue has trapped a fibre of the batch. -/
def trappedHere (s : State) (r : Run) : Bool :=
  s.runs.head?.any fun x => decide (r.fibres.length < x.fibres.length)

/-- Whether a trapped fibre of a crew has the instruction at a batch's position still to carry out. -/
def owesPart (k : Crew) (r : Run) : Bool :=
  k.fibres.vals.any fun f => match f.st with
    | .trapped t => t.res == r.clause && t.pos == r.pos
    | _ => false

/-- A commit point that reads or writes at homes: lanes whose result stands in the replay
record take it, the others perform in order of the lane; `perform` gives each its result.
`pre` and `post` act once per crew that has lanes to perform. Of a release that meets a fault no part
is performed: the fibres that did not fault issue it again (R176, R191). -/
def commitAccess (i : Instr) (g : Guard) (m : MAddr) (k : AccKind) (rel : Bool)
    (pre : State → Nat → Nat → State)
    (perform : State → Run → Acc → State × Nat)
    (post : State → Run → Nat → List Acc → State)
    (out : LaneCtx → Nat → Option FLane) (s : State) : Out :=
  accessAll i g .g m k (fun s r _ l =>
    let far := l.filter fun a => (replayed a.x).isNone
    if netBusy s r.core || sbFull s r || (rel && trappedHere s r) then retryRun s r
    else if (far.any fun a => a.pas.any (hostAway s)) || awaitsReply s r far then
      requeue s { r with hold := some .remote, asked := s.now }
    else
      let todo := l.filter fun a => (replayed a.x).isNone
      let old := (l.filter fun a => (replayed a.x).isSome).map fun a =>
        (a.x, ((replayed a.x).getD 0).toNat)
      let slots := dedup (todo.map fun a => a.x.slot)
      let s1 := slots.foldl (fun s x => pre s r.core x) s
      let (s2, new) := todo.foldl (fun (p : State × List (LaneCtx × Nat)) a =>
        let (s, v) := perform p.1 r a
        (s, p.2 ++ [(a.x, v)])) (s1, [])
      let s3 := slots.foldl (fun s x =>
        post s r x (todo.filter fun a => a.x.slot == x)) s2
      let s4 := recordReplay s3 r.core (new.map fun p => (p.1, BitVec.ofNat 128 p.2))
      let fl := (old ++ new).filterMap fun p => (out p.1 p.2).map fun f => (p.1, f)
      match i with
      | .stRel .. => finish s4 r 0
      | _ => finish (addFlights s4 r (lanesTab fl)) r 0) s

/-- The side records of the sectors of some accesses, read with their values (R190). -/
def sideRecs (s : State) (l : List Acc) : List (BitVec 1024 × Bool) :=
  l.map fun a =>
    let pa := canonPa s (a.pas.headD 0)
    sideRead (s.die (homeOf pa)) (pa / 64)

def readHome (s : State) (a : Acc) : State × Nat :=
  let s := a.pas.foldl homeCollect s
  (s, ofBytes (a.pas.map (homeGet s)))

def execLdGIo (g : Guard) (d : Dst) (m : MAddr) (sz : Size) : State → Out :=
  commitAccess (.ldGIo g d m sz) g m ⟨sz.bytes, false, false, true, true⟩ false (fun s _ _ => s)
    (fun s _ a => if a.attr = 2 then (s, devRead s (a.pas.headD 0) sz.bytes) else readHome s a)
    (fun s _ _ _ => s) (fun _ v => some (readyLane d sz.regs sz.bytes false v))

def execLdAcq (g : Guard) (d : Dst) (m : MAddr) (sz : Size) (sc : Scope) : State → Out :=
  commitAccess (.ldAcq g d m sz sc) g m ⟨sz.bytes, false, false, false, false⟩ false (fun s _ _ => s)
    (fun s _ a => readHome s a)
    (fun s r slot l => acquire s r.core slot sc (sideRecs s l))
    (fun _ v => some (readyLane d sz.regs sz.bytes false v))

/-- The release actions of a crew at a scope, by its write signature (R190 table, R191). -/
def releaseOf (sc : Scope) (s : State) (c slot : Nat) : State :=
  match s.crew? c slot with
  | some k => releaseActions s c sc (sigMatch k.wsig (sigSat k.wsig k.wsat))
  | none => s

/-- The signature that a crew publishes, as it stands (R191, R231). -/
def crewPub (s : State) (c slot : Nat) : BitVec 1024 × Bool :=
  match s.crew? c slot with
  | some k => pubSig k
  | none => (0, false)

/-- A release resets the signatures of its crew after the last of its fibres' writes: not while a
fibre that faulted has its own still to make (R191, R227). -/
def resetAfter (s : State) (r : Run) (slot : Nat) : State :=
  if (s.crew? r.core slot).any fun k => owesPart k r then s else resetSigs s r.core slot

def execStRel (g : Guard) (a : Src) (m : MAddr) (sz : Size) (sc : Scope) : State → Out :=
  commitAccess (.stRel g a m sz sc) g m ⟨sz.bytes, true, false, false, false⟩ true (releaseOf sc)
    (fun s r x =>
      let pub := crewPub s r.core x.x.slot
      let bytes := toBytes sz.bytes (srcNat x.x.crew r x.x.lane sz.regs a)
      let s := (x.pas.zip bytes).foldl (fun s (pa, b) => homeStore s r.core pa [b]) s
      (sidePublish s (x.pas.headD 0) pub true, 0))
    (fun s r slot _ => resetAfter s r slot) (fun _ _ => none)

/-! ### Atomics (R194 to R198) -/

/-- The arithmetic of R195: the new value, or none where nothing is written. -/
def atomNew (op : AtomOp) (sgn : Bool) (w old v cmp : Nat) : Option Nat :=
  let lt := fun (a b : Nat) => if sgn then decide (sextNat w a < sextNat w b) else decide (a < b)
  match op with
  | .add => some ((old + v) % 2 ^ w)
  | .min => some (if lt v old then v else old)
  | .max => some (if lt old v then v else old)
  | .and => some (old &&& v)
  | .or => some (old ||| v)
  | .xor => some (old ^^^ v)
  | .xchg => some v
  | .cas => if old = cmp then some v else none

/-- One atomic update at the home: the old value and the state after (R195). -/
def atomAt (s : State) (c pa size : Nat) (op : AtomOp) (sgn : Bool) (v cmp : Nat) : State × Nat :=
  let s := homeCollect s pa
  let old := homeWord s pa size
  match atomNew op sgn (8 * size) old v cmp with
  | some new => (homeStore s c pa (toBytes size new), old)
  | none => (s, old)

/-- The operand and the compare value of an atomic (R194). -/
def atomOperand (k : Crew) (lane : Nat) (op : AtomOp) (d : BitVec 8) (sz : Size) : Nat × Nat :=
  match op with
  | .cas => (regRead k (d.toNat + sz.regs) lane sz.regs, regRead k d.toNat lane sz.regs)
  | _ => (regRead k d.toNat lane sz.regs, 0)

/-- An atomic that returns its old value: a commit point (R195, R196). -/
def atomicOp (i : Instr) (g : Guard) (op : AtomOp) (sgn : Bool) (d : BitVec 8) (m : MAddr)
    (sz : Size) (sc : Scope) (o : AOrd) : State → Out :=
  let rel := o == .rel || o == .acqrel
  let acq := o == .acq || o == .acqrel
  commitAccess i g m ⟨sz.bytes, true, true, false, false⟩ rel
    (fun s c slot => if rel then releaseOf sc s c slot else s)
    (fun s r x =>
      let (v, cmp) := atomOperand x.x.crew x.x.lane op d sz
      let pub := crewPub s r.core x.x.slot
      let pa := x.pas.headD 0
      let (s, old) := atomAt s r.core pa sz.bytes op sgn v cmp
      (if rel then sidePublish s pa pub false else s, old))
    (fun s r slot l =>
      let recs := sideRecs s l
      let s := if rel then resetAfter s r slot else s
      if acq then acquire s r.core slot sc recs else s)
    (fun _ v => some (readyLane (.reg d) sz.regs sz.bytes false v))

def execAtomAdd (g : Guard) (d : BitVec 8) (m : MAddr) (sz : Size) (sc : Scope) (o : AOrd) :
    State → Out := atomicOp (.atomAdd g d m sz sc o) g .add false d m sz sc o
def execAtomMin (g : Guard) (d : BitVec 8) (m : MAddr) (sz : Size) (sc : Scope) (o : AOrd)
    (sgn : Bool) : State → Out := atomicOp (.atomMin g d m sz sc o sgn) g .min sgn d m sz sc o
def execAtomMax (g : Guard) (d : BitVec 8) (m : MAddr) (sz : Size) (sc : Scope) (o : AOrd)
    (sgn : Bool) : State → Out := atomicOp (.atomMax g d m sz sc o sgn) g .max sgn d m sz sc o
def execAtomAnd (g : Guard) (d : BitVec 8) (m : MAddr) (sz : Size) (sc : Scope) (o : AOrd) :
    State → Out := atomicOp (.atomAnd g d m sz sc o) g .and false d m sz sc o
def execAtomOr (g : Guard) (d : BitVec 8) (m : MAddr) (sz : Size) (sc : Scope) (o : AOrd) :
    State → Out := atomicOp (.atomOr g d m sz sc o) g .or false d m sz sc o
def execAtomXor (g : Guard) (d : BitVec 8) (m : MAddr) (sz : Size) (sc : Scope) (o : AOrd) :
    State → Out := atomicOp (.atomXor g d m sz sc o) g .xor false d m sz sc o
def execAtomXchg (g : Guard) (d : BitVec 8) (m : MAddr) (sz : Size) (sc : Scope) (o : AOrd) :
    State → Out := atomicOp (.atomXchg g d m sz sc o) g .xchg false d m sz sc o
def execAtomCas (g : Guard) (d : BitVec 8) (m : MAddr) (sz : Size) (sc : Scope) (o : AOrd) :
    State → Out := atomicOp (.atomCas g d m sz sc o) g .cas false d m sz sc o

/-- The held updates of an instruction: one lodge entry for each sector that a crew's fibres touch,
which holds their updates in order (R159, R197, R198). -/
def holdUpdates {α : Type} (s : State) (r : Run) (l : List (Nat × Nat × α))
    (eff : List (Nat × α) → Effect) : State :=
  let keys := dedup (l.map fun x => (x.1, canonPa s x.2.1 / 64))
  if !lodgeRoom s r keys.length then holdLodge s r keys.length
  else finish (keys.foldl (fun s (slot, sector) =>
    let mine := (l.filter fun x => x.1 == slot && canonPa s x.2.1 / 64 == sector).map (·.2)
    lodgeNew s r.core slot .ffAtomic
      { sector, mask := 0, data := 0, attr := 0, cls := 0, ev := false
        home := crossHome s r.core (((mine.map (·.1)).head?).getD (64 * sector)), eff := eff mine }) s)
    r 0

def execAtomFireAndForget (g : Guard) (op : AtomOp) (sgn : Bool) (d : BitVec 8) (m : MAddr)
    (sz : Size) (s : State) : Out :=
  accessAll (.atomFireAndForget g op sgn d m sz) g .g m ⟨sz.bytes, true, true, false, false⟩
    (fun s r _ l => holdUpdates s r (l.map fun a =>
      let (v, cmp) := atomOperand a.x.crew a.x.lane op d sz
      (a.x.slot, a.pas.headD 0, BitVec.ofNat 128 v, BitVec.ofNat 128 cmp))
      (.atom op sgn sz.bytes)) s

/-- The combine of `ared` (R198). -/
def aredCombine (op : AredOp) (size a b : Nat) : Nat :=
  let w := 8 * size
  let slt := decide (sextNat w a < sextNat w b)
  match op with
  | .add => (a + b) % 2 ^ w
  | .fadd =>
    (FTy.f32.res .rn (FVal.add .rn (FTy.f32.value (BitVec.ofNat 64 a))
      (FTy.f32.value (BitVec.ofNat 64 b)))).toNat
  | .smin => if slt then a else b
  | .smax => if slt then b else a
  | .umin => min a b
  | .umax => max a b
  | .or => a ||| b
  | .and => a &&& b

def execAred (g : Guard) (op : AredOp) (a : Src) (m : MAddr) (sz : Size) (s : State) : Out :=
  accessAll (.ared g op a m sz) g .g m ⟨sz.bytes, true, true, false, false⟩
    (fun s r _ l =>
      let groups := dedup (l.map fun x => (x.x.slot, x.pas.headD 0))
      holdUpdates s r (groups.filterMap fun (slot, pa) =>
        let leaves := (List.range 64).map fun i =>
          (l.find? fun x => x.x.slot == slot && x.x.lane == i && x.pas.headD 0 == pa).map
            fun x => srcNat x.x.crew r x.x.lane sz.regs a
        let rec level : List (Option Nat) → List (Option Nat)
          | x :: y :: t =>
            (match x, y with
              | some p, some q => some (aredCombine op sz.bytes p q)
              | none, y => y
              | x, none => x) :: level t
          | t => t
        let v := ((level (level (level (level (level (level leaves)))))).headD none)
        v.map fun v => (slot, pa, BitVec.ofNat 64 v)) (.ared op sz.bytes)) s

/-! ### phase and fence (R192, R193) -/

def execPhase (g : Guard) (sc : Scope) (s : State) : Out :=
  issue (fun _ _ => []) (fun s r =>
    if netBusy s r.core then retryRun s r
    else
      let l := activeLanes s r g
      let todo := l.filter fun x => (replayed x).isNone
      let s1 := if todo.isEmpty then s
        else acquireActions (releaseActions s r.core sc fun _ => true) r.core sc fun _ => true
      finish (recordReplay s1 r.core (l.map fun x => (x, 0))) r 0) s

def execFence (g : Guard) (s : State) : Out :=
  issue (fun _ _ => []) (fun s r =>
    let slots := dedup ((activeLanes s r g).map (·.slot))
    finish (slots.foldl (fun s x =>
      let co := s.core r.core
      let running := (co.ctxs.cells.filter fun p =>
        p.2.slot == x && p.2.own && (p.2.state == 1 || p.2.state == 3)).map (·.2.id)
      s.mapCrew r.core x fun k => { k with fenced := running, fenceId := co.nextId }) s) r 0) s

/-! ### Prefetch, invalidate, write-back (R200 to R202) -/

/-- The fibres that act on a line of their crew: of those that name one line, the first. -/
def oncePerLine (r : Run) (m : MAddr) (l : List LaneCtx) : List LaneCtx :=
  let key := fun (x : LaneCtx) => (x.slot, vaOf x.crew r x.lane m / 256)
  (dedup (l.map key)).filterMap fun q => l.find? fun x => key x == q

/-- The translation of one address of `inv` or `wbk`, as of a load (R201, R202). -/
def lineXlate (s : State) (r : Run) (m : MAddr) (x : LaneCtx) : State × AccRes :=
  let va := vaOf x.crew r x.lane m
  match pageFor s r x.slot (tctxPasid (tctxOf s x.slot x.crew)) va false with
  | .miss => (s, .miss va)
  | .fault cause => (s, .fault cause va)
  | .ok s e => (s, .ok [leafPa e.leaf e.level va] [(leafAttr e.leaf, leafCls e.leaf)])

/-- What `inv` and `wbk` do for each line that a crew's active fibres name: a failed translation is
dropped silently, and a miss holds the batch as a load's does, so that it acts when it issues (R174,
R201, R202; log entry 71). -/
def perAddress (i : Instr) (g : Guard) (m : MAddr)
    (act : State → Run → LaneCtx → Nat → BitVec 3 → State) (s : State) : Out :=
  issue (fun s r => regsOf (r.narrow s) i) (fun s r =>
    let (s1, res) := (oncePerLine r m (activeLanes s r g)).foldl (fun p x =>
      let (t, a) := lineXlate p.1 r m x
      (t, p.2 ++ [(x, a)])) (s, [])
    if res.any fun p => match p.2 with | .miss _ => true | _ => false then
      requeue (queueMisses s r false res) { r with hold := some .walk, asked := s.now }
    else
      finish ((accOk res).foldl (fun s a => act s r a.x (canonPa s (a.pas.headD 0)) a.attr) s1) r 0) s

/-- A prefetch is dropped and counted (R200). -/
def dropPrefetch (s : State) (c : Nat) : State := countFixed s c 8 1

/-- Whether a translated address may be prefetched or written back (R200, R202). -/
def plainDevice (pa : Nat) (attr : BitVec 3) : Bool := attr != 2 && zoneOf pa == .device

/-- The four sectors of a line filled into an L2. -/
def l2FillLine (s : State) (k line : Nat) (cls : BitVec 2) (ev : Bool) : State :=
  [0, 1, 2, 3].foldl (fun s q => l2Fill s k (line * 4 + q) cls ev) s

/-- A translated prefetch acts: `prf.d` fills its line up to a level, `prf.i` has the line filled into
the instruction cache (R172, R200). -/
def prefetchAct (s : State) (c tenant va : Nat) (lvl : Option PrfLevel) (e : TlbE) : State :=
  let pa := canonPa s (leafPa e.leaf e.level va)
  let attr := leafAttr e.leaf
  let cls := leafCls e.leaf
  let from_ := [0, 1, 2, 3].map fun q => l2Site s (clusterOf c) (pa / 256 * 4 + q)
  let (s, bad) := if lvl.isNone || !plainDevice pa attr then (s, none)
    else readSites s c none from_.contains
  if !plainDevice pa attr || bad.isSome then dropPrefetch s c
  else match lvl with
  | none =>
    let co := s.core c
    if co.icache.any (fun l => l.line == va / 256 && l.tenant == tenant) ||
        co.ifills.any (fun f => f.1 == va / 256 && f.2.1 == tenant) then s
    else s.setCore c { co with ifills := co.ifills ++ [(va / 256, tenant, false)] }
  | some .llc => [0, 1, 2, 3].foldl (fun s q => llcFill s (pa / 256 * 4 + q)) s
  | some .l2 => if attr = 1 then s else l2FillLine s (clusterOf c) (pa / 256) cls (attr == 3)
  | some .l1 =>
    if attr = 1 then s
    else if attr = 3 then l2FillLine s (clusterOf c) (pa / 256) cls true
    else if (l1Find (s.core c) (pa / 256)).isSome then s
    else l1Fill s c (pa / 256) cls false

/-- A prefetch of one line: it acts at once where its translation is at hand, and otherwise when its
walk is done; it is dropped where that fails or the walk queue is full (R174, R200). -/
def prefetchLine (s : State) (r : Run) (x : LaneCtx) (m : MAddr) (lvl : Option PrfLevel) : State :=
  let va := vaOf x.crew r x.lane m
  match unitXlate s (tctxOf s x.slot x.crew)
      { core := r.core, kind := .prefetch x.crew.tenant lvl, keeper := isKeeper x.slot
        write := false, fetch := lvl.isNone, va } with
  | .hit s e => prefetchAct s r.core x.crew.tenant va lvl e
  | .fault s _ => dropPrefetch s r.core
  | .wait s => s
  | .full => dropPrefetch s r.core

/-- `prf.d` and `prf.i`: once for each line that a crew's active fibres name, without a hold (R200). -/
def prefetch (i : Instr) (g : Guard) (m : MAddr) (lvl : Option PrfLevel) (s : State) : Out :=
  issue (fun s r => regsOf (r.narrow s) i) (fun s r =>
    finish ((oncePerLine r m (activeLanes s r g)).foldl (fun s x => prefetchLine s r x m lvl) s) r 0) s

def execPrfD (g : Guard) (lvl : PrfLevel) (m : MAddr) : State → Out :=
  prefetch (.prfD g lvl m) g m (some lvl)
def execPrfI (g : Guard) (m : MAddr) : State → Out := prefetch (.prfI g m) g m none

/-- The cores and the clusters of a scope around a core (R201, R221); domain acts as
package. -/
def scopeCores (c : Nat) : Scope → List Nat
  | .crew | .core => [c]
  | .cluster => (List.range 8).map fun i => clusterOf c * 8 + i
  | .die => (List.range 64).map fun i => dieOf c * 64 + i
  | .package | .domain => List.range 256

def scopeClusters (c : Nat) : Scope → List Nat
  | .crew | .core => []
  | .cluster => [clusterOf c]
  | .die => (List.range 8).map fun i => dieOf c * 8 + i
  | .package | .domain => List.range 32

/-- Units of a scope that the state holds anything for. -/
def touchedCores (s : State) (c : Nat) (sc : Scope) : List Nat :=
  (scopeCores c sc).filter fun x => (s.cores.get? x).isSome
def touchedClusters (s : State) (c : Nat) (sc : Scope) : List Nat :=
  (scopeClusters c sc).filter fun x => (s.clusters.get? x).isSome

def execInvD (g : Guard) (sc : Scope) (m : MAddr) : State → Out :=
  perAddress (.invD g sc m) g m fun s r _ pa _ =>
    let s := (touchedCores s r.core sc).foldl (fun s x => l1Drop s x fun l => l == pa / 256) s
    (touchedClusters s r.core sc).foldl (fun s k => l2Drop s k (pa / 256)) s

/-- Instruction-cache lines dropped from the cores of a scope. -/
def dropILines (s : State) (c : Nat) (sc : Scope) (f : ILine → Bool) : State :=
  (touchedCores s c sc).foldl (fun s x =>
    s.mapCore x fun co => { co with icache := co.icache.filter fun l => !f l }) s

def execInvI (g : Guard) (sc : Scope) (m : MAddr) : State → Out :=
  perAddress (.invI g sc m) g m fun s r x pa _ =>
    let s := dropILines s r.core sc fun l =>
      l.line == vaOf x.crew r x.lane m / 256 && l.tenant == x.crew.tenant
    (touchedClusters s r.core sc).foldl (fun s k => l2Drop s k (pa / 256)) s

/-- PRIVILEGE for the active fibres of crews other than the Keeper's (R201, R384). -/
def privTraps (l : List LaneCtx) : List (Nat × Nat × Cause × W64) :=
  (l.filter fun x => !isKeeper x.slot).map fun x => (x.lane, x.slot, .privilege, 0)

def execInvIall (g : Guard) (sc : Scope) (s : State) : Out :=
  issue (fun _ _ => []) (fun s r =>
    let l := activeLanes s r g
    let (s1, r1) := trapFibres s r (privTraps l)
    let mine := (l.filter fun x => isKeeper x.slot).map (·.crew.tenant)
    finish (if mine.isEmpty then s1 else dropILines s1 r.core sc fun l => mine.contains l.tenant)
      r1 0) s

/-- The pages that an invalidation names: those of an address space in a range of addresses. -/
structure PageSet where
  pasid : BitVec 20
  lo : Nat
  hi : Nat
deriving DecidableEq, Repr

/-- Whether an aligned block of 2^bits addresses, known by its number, meets a set of pages. -/
def PageSet.meets (q : PageSet) (pasid : BitVec 20) (n bits : Nat) : Bool :=
  q.pasid == pasid && decide (n * 2 ^ bits < q.hi) && decide (q.lo < (n + 1) * 2 ^ bits)

/-- Whether a walk for a page of the set is queued in a cluster (R175). -/
def walksFor (k : Cluster) (q : PageSet) : Bool :=
  k.misses.any fun m => q.meets m.pasid (failKey m.va) 16

/-- Matching entries removed from the TLBs of some cores, and from the TLBs and the walk caches of some
clusters (R175). -/
def tlbClear (s : State) (cores clusters : List Nat) (q : PageSet) : State :=
  let stays := fun (e : TlbE) => !q.meets e.pasid e.page (pageBits e.level)
  let s := cores.foldl (fun s x =>
    s.mapCore x fun co => { co with tlb := co.tlb.filter stays }) s
  clusters.foldl (fun s k => s.mapCluster k fun cl =>
    { cl with tlb := cl.tlb.filter stays
              wcache := cl.wcache.filter fun x => !q.meets x.pasid x.page (prefixBits x.level) }) s

/-- What a fibre's `inv.tlb` names: the page that holds its address, or all of the tenant's address
space (R201; log entry 9). -/
def invPages (s : State) (r : Run) (m : MAddr) (x : LaneCtx) : PageSet :=
  let pasid := tctxPasid (tctxOf s x.slot x.crew)
  if m = ⟨.zero, .zero, 0⟩ then ⟨pasid, 0, 2 ^ 56⟩
  else ⟨pasid, vaOf x.crew r x.lane m, vaOf x.crew r x.lane m + 1⟩

/-- `inv.tlb` (R175, R201): held until the walks of its scope that began before have finished. -/
def execInvTlb (g : Guard) (sc : Scope) (m : MAddr) (s : State) : Out :=
  issue (fun s r => regsOf (r.narrow s) (.invTlb g sc m)) (fun s r =>
    let l := activeLanes s r g
    let pages := (l.filter fun x => isKeeper x.slot).map (invPages s r m)
    let ks := touchedClusters s r.core sc
    if pages.any fun q => (dedup (clusterOf r.core :: ks)).any fun k => walksFor (s.cluster k) q then
      retryRun s r
    else
      let (s1, r1) := trapFibres s r (privTraps l)
      finish (pages.foldl (fun s q => tlbClear s (touchedCores s r.core sc) ks q) s1) r1 0) s

def execWbk (g : Guard) (mem : Bool) (m : MAddr) : State → Out :=
  perAddress (.wbk g mem m) g m fun s _ _ pa attr =>
    if !plainDevice pa attr then s
    else
      let s := s.clusters.keys.foldl (fun s k => l2Clean s k (pa / 256)) s
      if mem then llcWriteBack s (pa / 256) else s

end Sys2Proof.Machine
end

