-- ==== Sys2Proof/Machine/Clause.lean ====
section
/-! DEFINITION. The clause: what each instruction may do to its position (R59, R60, R64, R70),
what it is charged at the clause boundary (R114, R343), the checks of R68, and the fetch of a
clause from the instruction cache (R157, R158, R395). -/
namespace Sys2Proof

/-- The home class of an instruction form (R59, R70). -/
def Instr.home : Instr → Nat
  | .orsv .. | .orel .. | .omap .. | .mma .. | .mmaJoint .. | .mmaz .. | .aclr .. | .ard ..
  | .awr .. | .ascl .. | .gang .. | .gangLeave .. => 1
  | .ldG .. | .ldS .. | .ldW .. | .ldP .. | .ldGIo .. | .stG .. | .stS .. | .stW .. | .stP ..
  | .ldAcq .. | .stRel .. | .atomAdd .. | .atomMin .. | .atomMax .. | .atomAnd .. | .atomOr ..
  | .atomXor .. | .atomXchg .. | .atomCas .. | .atomFireAndForget .. | .ared .. | .phase ..
  | .fence .. | .prfD .. | .prfI .. | .invD .. | .invI .. | .invIall .. | .invTlb ..
  | .wbk .. => 2
  | .cpy .. | .cpyT .. | .cwait .. | .node .. | .nlink .. | .narm .. | .sbind .. | .srun ..
  | .sstop .. | .rfill .. | .rdrain .. => 3
  | .spawn .. | .launch .. | .qbind .. | .qpop .. | .qpush .. | .sigPut .. | .sigTake ..
  | .sigFill .. | .sigRoom .. | .gate .. | .rel .. => 4
  | .tbrd .. | .tbwr .. | .tbwrSwap .. | .ccreq .. | .ccrel .. | .bread .. | .bgive ..
  | .btopAdd .. | .btopSet .. | .tick .. | .tkt .. | .wdogSet .. | .wdogPet .. | .wdogBeat ..
  | .pcr .. | .crsv .. | .trap .. | .brk .. | .eretRetry .. | .eretNext .. | .eretCont ..
  | .eretQuit .. | .halt .. | .haltLaunch .. | .sysrd .. | .syswr .. | .migMove ..
  | .migSave .. | .migLoad .. | .migLsave .. | .migLload .. => 5
  | _ => 0

/-- The clause-ending instructions (R60). -/
def Instr.endsClause : Instr → Bool
  | .br .. | .brx .. | .call .. | .ret .. | .quit .. | .yield .. | .trap .. | .eretRetry ..
  | .eretNext .. | .eretCont .. | .eretQuit .. | .brk .. | .halt .. | .haltLaunch ..
  | .vote .. | .shfl .. | .red .. | .bar .. | .arrive .. | .await .. => true
  | _ => false

/-- The commit points (R60). -/
def Instr.commitPoint : Instr → Bool
  | .ldAcq .. | .stRel .. | .phase .. | .qpop .. | .ldGIo .. | .atomAdd .. | .atomMin ..
  | .atomMax .. | .atomAnd .. | .atomOr .. | .atomXor .. | .atomXchg .. | .atomCas .. => true
  | _ => false

/-- The position-0 instructions that are no commit points (R60). -/
def Instr.firstOnly : Instr → Bool
  | .mmaJoint .. | .cwait .. | .qpush .. | .gate .. => true
  | .sigFill _ w _ _ _ | .sigRoom _ w _ _ _ => w
  | _ => false

/-- The `%ib` charge of an instruction (R114, R138, R185, R245, R275, R307, R327, R354, R384).
A joint `mma` is charged at the release of its latch (R252). -/
def Instr.ib : Instr → Nat
  | .mmaJoint .. => 0
  | .idiv .. | .irem .. | .fdiv .. | .ldAcq .. | .stRel .. | .phase .. | .mma .. | .mmaz ..
  | .spawn .. | .launch .. => 4
  | .vote .. | .shfl .. | .red .. | .bar .. | .arrive .. | .fork .. | .frcp .. | .frsq ..
  | .fsqrt .. | .fexp2 .. | .flog2 .. | .fsin .. | .fcos .. | .ldGIo .. | .atomAdd ..
  | .atomMin .. | .atomMax .. | .atomAnd .. | .atomOr .. | .atomXor .. | .atomXchg ..
  | .atomCas .. | .orsv .. | .omap .. | .ascl .. | .ard .. | .awr .. | .gang .. | .gangLeave ..
  | .cpy .. | .cpyT .. | .node .. | .sbind .. | .rfill .. | .rdrain .. | .qbind .. | .qpop ..
  | .rel .. | .tbrd .. | .tbwr .. | .tbwrSwap .. | .ccreq .. | .ccrel .. | .bgive ..
  | .btopAdd .. | .btopSet .. | .tkt .. | .eretRetry .. | .eretNext .. | .eretCont ..
  | .eretQuit .. | .halt .. | .haltLaunch .. | .syswr .. | .migMove .. | .migSave ..
  | .migLoad .. | .migLsave .. | .migLload .. => 2
  | _ => 1

/-- The fixed part of the `%mb` charge (R185, R275, R307). -/
def Instr.mbFixed : Instr → Nat
  | .stRel .. => 2
  | .prfD .. | .prfI .. | .wbk .. => 4
  | .launch .. => 1
  | .node _ kind .. => if kind = 3 then 1 else 0
  | _ => 0

/-- The instructions that create held effects (R159), before whose clause a pressed crew opens
a region (R160). -/
def Instr.held : Instr → Bool
  | .stG .. | .stS .. | .stW .. | .stP .. | .atomFireAndForget .. | .ared .. | .bar ..
  | .arrive .. | .quit .. | .cpy .. | .cpyT .. | .narm .. | .srun .. | .rfill .. | .rdrain ..
  | .spawn .. | .launch .. | .qpush .. | .sigPut .. | .sigTake .. | .rel .. | .tbwr ..
  | .tbwrSwap .. | .ccreq .. | .ccrel .. | .bgive .. | .btopAdd .. | .btopSet .. | .tkt ..
  | .wdogBeat .. | .eretRetry .. | .eretNext .. | .eretCont .. | .eretQuit .. | .halt ..
  | .haltLaunch .. | .syswr .. | .migMove .. | .migSave .. | .migLoad .. | .migLsave ..
  | .migLload .. => true
  | _ => false

end Sys2Proof

namespace Sys2Proof.Machine
open Sys2Proof

/-! ### The checks of R68 -/

/-- The last latch width that positions before k put into latch j: `ws` lists the widths of
positions k - 1 down to 0 (R64). -/
def latchAt (j : Nat) : Nat → List (Option Nat) → Option Nat
  | _, [] => none
  | 0, _ => none
  | k + 1, w :: r =>
    match w with
    | some n => if k % 4 = j then some n else latchAt j k r
    | none => latchAt j k r

/-- The field checks of one word, in their order (R65, R68): `regs` is the declared register
count, `k` the position, `ws` the latch widths of the earlier positions, latest first. -/
def checkFields (nw : Bool) (regs k : Nat) (ws : List (Option Nat)) (w : W64) :
    Except Cause Instr :=
  match decode w with
  | none => .error .illegalInstruction
  | some i =>
    let badMode := match i with | .vote _ _ _ narrow _ _ _ => narrow != nw | _ => false
    let ops := opnds nw i
    if badMode then .error .illegalInstruction
    else if ops.any (fun o => match o with | .reg b n _ | .dst b n _ => decide (regs < b + n) | _ => false) then
      .error .registerBound
    else if ops.any (fun o => match o with | .reg b _ a | .dst b _ a => b % a != 0 | _ => false) then
      .error .operandAlignment
    else if ops.any (fun o => match o with
        | .lat j n => match latchAt j k ws with | some m => decide (m < n) | none => true
        | _ => false) then .error .staleLatch
    else .ok i

/-- The checks of the words from position k on (R68): the first failing one and its position. -/
def checkWords (nw : Bool) (regs cls n : Nat) : Nat → List (Option Nat) → List W64 →
    Except (Cause × Nat) Unit
  | _, _, [] => .ok ()
  | k, ws, w :: r =>
    match checkFields nw regs k ws w with
    | .error e => .error (e, k)
    | .ok i =>
      if (i.home != 0 && i.home != cls) || (i.endsClause && k != n - 1) ||
          (i.commitPoint && k != 0) || (i.firstOnly && k != 0) then .error (.illegalClause, k)
      else checkWords nw regs cls n (k + 1) (i.latchRegs :: ws) r

/-- The header check of R68. -/
def badHeader (h : W64) : Bool := decide (5 < hdrClass h) || fld h 39 0 != 0

/-- The words of a clause (R58). -/
def hdrWords (h : W64) : Nat := fld h 59 56 + 1

/-- The instruction at a position, if its word decodes. -/
def wordAt (words : List W64) (k : Nat) : Option Instr := (words[k]?).bind decode

/-- All checks on the words of a clause whose header passed (R68). -/
def checkClause (nw : Bool) (regs : Nat) (h : W64) (words : List W64) :
    Except (Cause × Nat) Unit :=
  match checkWords nw regs (hdrClass h) words.length 0 [] words with
  | .error e => .error e
  | .ok _ =>
    if hdrCommit h != (wordAt words 0).any Instr.commitPoint then .error (.illegalClause, 0)
    else .ok ()

/-- The fixed charges of a clause from a position on (R114). -/
def fixedCharge (words : List W64) (from_ : Nat) : Nat × Nat :=
  ((words.drop from_).filterMap decode).foldl (fun p i => (p.1 + i.ib, p.2 + i.mbFixed)) (0, 0)

/-! ### Fetch (R157, R158, R395) -/

/-- The line of the instruction cache that holds an address for a tenant. -/
def icFind (co : Core) (tenant a : Nat) : Option ILine :=
  co.icache.find? fun l => l.line == a / 256 && l.tenant == tenant

/-- An instruction word from the instruction cache. -/
def icWord (co : Core) (tenant a : Nat) : Option W64 :=
  (icFind co tenant a).map fun l => BitVec.ofNat 64 (l.data.toNat >>> (8 * (a % 256)))

/-- What a fetch of a clause finds: a line that is absent, a header that R68 refuses, or the
header and the words. -/
inductive FetchRes where
  | missing (at_ : Nat)
  | badHeader
  | ok (hdr : W64) (words : List W64)

/-- A clause read from the instruction cache, in address order (R157, R68). -/
def fetchClause (co : Core) (tenant : Nat) (pc : BitVec 56) : FetchRes :=
  let a := pc.toNat
  match icWord co tenant a with
  | none => .missing a
  | some h =>
    if badHeader h then .badHeader
    else
      let at_ := fun i => (a + 8 * (i + 1)) % 2 ^ 56
      let ws := (List.range (hdrWords h)).map fun i => (at_ i, icWord co tenant (at_ i))
      match ws.find? fun p => p.2.isNone with
      | some p => .missing p.1
      | none => .ok h (ws.map fun p => p.2.getD 0)

/-- The address space in which a tenant's code is fetched (R171); the Keeper's crew names no
tenant. -/
def tenantTctx (s : State) (tenant : Nat) : W64 :=
  if tenant = Config.noTenant then s.mod.ktctx
  else match s.launch? tenant with | some l => l.tctx | none => 0

/-- The subcause of a fetch whose translation fails (R158, R173). -/
def fetchFail : Cause → Nat
  | .translation => 0
  | .permission => 2
  | _ => 1

/-- Who asks for the translation of an instruction line. -/
def fillAsker (c line tenant : Nat) : Asker :=
  { core := c, kind := .fetch line tenant, keeper := tenant == Config.noTenant, write := false
    fetch := true, va := line * 256 }

/-- What becomes of the fill of an instruction line. -/
inductive FillRes where
  | done (s : State)
  | failed (s : State) (sub : Nat)
  | wait (s : State)

/-- The replacement of a set of four ways, the line filled longest ago leaving (R157, R395). -/
def icInsert (l : List ILine) (x : ILine) : List ILine :=
  let same := l.filter fun y => y.line % 64 == x.line % 64
  if same.length < 4 then x :: l
  else match pickBy (fun (a b : ILine) => a.stamp < b.stamp) same with
    | some y => x :: l.filter fun z => z != y
    | none => x :: l

/-- The fill of a line of the instruction cache through the L2, or the subcause with which it
fails (R157, R158). -/
def icFill (s : State) (c line tenant : Nat) : FillRes :=
  match unitXlate s (tenantTctx s tenant) (fillAsker c line tenant) with
  | .wait s => .wait s
  | .full => .wait s
  | .fault s cause => .failed s (fetchFail cause)
  | .hit s e =>
    let pa := canonPa s (leafPa e.leaf e.level (line * 256))
    if leafAttr e.leaf = 1 ∨ leafAttr e.leaf = 2 ∨ zoneOf pa ≠ .device then .failed s 3
    else
      let from_ := [0, 1, 2, 3].map fun q => l2Site s (clusterOf c) (pa / 64 + q)
      let (s, bad) := readSites s c none from_.contains
      let s := [0, 1, 2, 3].foldl (fun s q =>
        l2Fill s (clusterOf c) (pa / 64 + q) (leafCls e.leaf) (leafAttr e.leaf = 3)) s
      let data := (List.range 256).foldl (fun (d : BitVec 2048) i =>
        setByte d i ((l2Byte (s.cluster (clusterOf c)) (pa + i)).getD (homeGet s (pa + i)))) 0
      if bad.isSome then .failed s 4
      else .done ((s.heal (· == .icache c line)).mapCore c fun co =>
        { co with nextId := co.nextId + 1
                  icache := icInsert co.icache { line, tenant, data, stamp := co.nextId } })

/-- The header word at a program counter, read without any effect: from the instruction cache,
or else through the page tables. -/
def peekHeader (s : State) (c tenant : Nat) (pc : BitVec 56) : Option W64 :=
  match icWord (s.core c) tenant pc.toNat with
  | some w => some w
  | none =>
    let t := tenantTctx s tenant
    match walk s (clusterOf c) (tctxPasid t) (tctxRoot t) pc.toNat with
    | .ok (leaf, _) => some (BitVec.ofNat 64 (homeWord s (leafPa leaf.w leaf.level pc.toNat) 8))
    | .error _ => none

/-- Whether the clause at a program counter is of class 1 or 3, whose bins gather (R39). -/
def gathers (s : State) (c tenant : Nat) (pc : BitVec 56) : Bool :=
  (peekHeader s c tenant pc).any fun h => hdrClass h == 1 || hdrClass h == 3

/-! ### Crews that may not issue, and the bins (R37, R211, R345, R364, R377, R380, R381) -/

/-- A debugger's hold on a crew (R380). -/
def dbgHeld (k : Crew) : Bool := bit k.dbg 0

/-- Whether a held crew freezes the other crews of its launch (R381). -/
def freezes (s : State) (tenant : Nat) : Bool :=
  s.cores.vals.any fun co => co.crews.vals.any fun k =>
    k.tenant == tenant && dbgHeld k && bit k.dbg 5

/-- Whether no fibre of a crew may issue now: held, frozen, yielding, moving, or between a
restart and the issue at its head. -/
def crewStopped (s : State) (k : Crew) : Bool :=
  k.stopAll || k.pause || dbgHeld k || k.yield != .none || k.still ||
    k.move.any (fun t => decide (t ≤ s.now)) || decide (s.now < k.restartAt) || freezes s k.tenant || k.region.any fun g => g.again == 1

/-- A fibre's continuation enters the bins of its core at its program counter (R37), or is
kept at the clause boundary while its crew may not issue. -/
def binFibre (s : State) (c slot lane : Nat) (young : Bool) : State :=
  match s.crew? c slot with
  | some k =>
    match k.fibres.get? lane with
    | some f =>
      if crewStopped s k then s.mapFibre c slot lane fun f => { f with st := .stopped }
      else enterBin (gathers s c k.tenant f.pc) s c slot lane young
    | none => s
  | none => s

/-- The fibres of a crew that stand at a clause boundary enter the bins once their crew may
issue. -/
def unstop (s : State) (c slot : Nat) : State :=
  match s.crew? c slot with
  | some k =>
    if crewStopped s k then s
    else (k.fibres.cells.filter fun p => p.2.st == .stopped).foldl
      (fun s p => binFibre s c slot p.1 false) s
  | none => s

/-- The fibres of a crew in the bins are held at their clause boundary. -/
def stopFibres (s : State) (c slot : Nat) : State :=
  (leaveBins s c slot fun _ => true).mapCrew c slot fun k =>
    { k with fibres := k.fibres.mapKV fun _ f =>
        if f.st = .binned then { f with st := .stopped } else f }

/-- Whether a batch of a crew is inside a clause (R208). -/
def insideClause (s : State) (c slot : Nat) : Bool :=
  s.runs.any fun r => r.core == c && r.fibres.any fun f => f.2 == slot

/-! ### Returning from a trap (R367, R386) -/

/-- How a trapped fibre resumes. -/
inductive Resume where
  | retry | next | cont | quit
deriving DecidableEq, Repr

/-- A trapped fibre as it resumes: at its position with the saved latches, at the clause that
follows or the recorded continuation, or at `%cont` (R386). -/
def resumed (cont : W64) (f : Fibre) (t : Trap) : Resume → Fibre
  | .retry => { f with pc := t.res, rpos := t.pos, rlat := t.lat
                       st := match t.was with | some w => .blocked w | none => .stopped }
  | .next => { f with pc := t.next, rpos := 0, rlat := .empty, paid := false, st := .stopped }
  | .cont => { f with pc := cont.setWidth 56, rpos := 0, rlat := .empty, paid := false, st := .stopped }
  | .quit => f

/-- A trapped fibre of a crew resumes. -/
def resumeFibre (s : State) (c slot lane : Nat) (how : Resume) : State :=
  match s.crew? c slot with
  | none => s
  | some k =>
    match k.fibres.get? lane with
    | none => s
    | some f =>
      match f.st with
      | .trapped t =>
        let g := resumed k.cont f t how
        -- a restart does not take the resumption back
        let again := fun (x : Region) => match x.ck.fibres.get? lane with
          | some y => if y.st == f.st then
              { x with ck := { x.ck with fibres := x.ck.fibres.put lane g } } else x
          | none => x
        s.setCrew c slot { k with fibres := k.fibres.put lane g, region := k.region.map again }
      | _ => s

/-- Whether a crew still has a trapped fibre. -/
def anyTrapped (k : Crew) : Bool :=
  k.fibres.vals.any fun f => match f.st with | .trapped _ => true | _ => false

/-- The hold of a crew ends when its last trapped fibre has resumed (R380). -/
def releaseHold (s : State) (c slot : Nat) : State :=
  s.mapCrew c slot fun k =>
    if anyTrapped k then k else { k with dbg := setBit k.dbg 0 false, stopAll := false }

/-- Every core's crews of a launch that were frozen go on (R381). -/
def thaw (s : State) (tenant : Nat) : State :=
  s.cores.cells.foldl (fun s (c, co) =>
    (co.crews.cells.filter fun p => p.2.tenant == tenant).foldl
      (fun s p => unstop s c p.1) s) s

/-- Arrivals that fibres which have just resumed complete, as held effects of the region that is
open, if one is (R134). -/
def lateArrivals (s : State) (c slot : Nat) : State :=
  match s.crew? c slot with
  | none => s
  | some k => (k.groups.filter fun g => crewArrives k g).foldl (fun s g =>
      let s1 := sendArrival s c slot g
      if k.region.isSome then s1
      else s1.mapCore c fun co => { co with lodge := co.lodge.map fun e =>
        if e.id == co.nextId then { e with cleared := true } else e }) s

/-- Returning from traps: each masked lane whose fibre is trapped is resumed, and the crew goes
on (R386). -/
def returnFrom (s : State) (c slot : Nat) (mask : W64) (how : Resume) : State :=
  match s.crew? c slot with
  | none => s
  | some k =>
    let lanes := (lanesOf 64 mask).filter fun l =>
      (k.fibres.get? l).any fun f => match f.st with | .trapped _ => true | _ => false
    let s1 := lanes.foldl (fun s l => resumeFibre s c slot l how) s
    let s2 := match how with
      | .quit =>
        (quitCrew s1 c slot lanes).mapCrew c slot fun k =>
          let cut := fun (x : Region) =>
            { x with ck := { x.ck with fibres := x.ck.fibres.keep fun l _ => !lanes.contains l } }
          let k := { k with fibres := k.fibres.keep fun _ (f : Fibre) => f.st != FibSt.quitting
                            region := k.region.map cut }
          { k with ended := k.ended || k.fibres.cells.isEmpty }
      | _ => s1
    thaw (releaseHold (lateArrivals s2 c slot) c slot) k.tenant

end Sys2Proof.Machine
end

