-- ==== Sys2Proof/Machine/Region.lean ====
section
/-! DEFINITION. Regions of a crew: the checkpoint and the opening (R48, R102, R207, R210,
R239, R423), quiet crews (R208), and crew-wide instructions with their member masks and
leader (R46, R62, R244, R274). -/
namespace Sys2Proof.Machine
open Sys2Proof

/-! ### Opening a region -/

/-- The checkpoint of a crew: its state as it stands, the issuing fibres at the clause header
(R48, R423). -/
def checkpoint (k : Crew) (lanes : List Nat) (clause : BitVec 56) : Ckpt :=
  { fibres := k.fibres.mapKV fun l f =>
      if lanes.contains l then { f with pc := clause, st := .stopped } else f
    ib := k.ib, mb := k.mb, cont := k.cont, recs := k.recs, queues := k.queues
    spawned := k.reserve, rdvs := k.rdvs }

/-- A crew with a region opened now (R207, R102, R240): its sequence number rises, and every
granule and block is clean. The fibres at its first clause have that clause yet to issue. -/
def openCrew (now win : Nat) (lanes : List Nat) (clause : BitVec 56) (commit : Bool)
    (link : List Nat) (k : Crew) : Crew :=
  { k with
    rseq := k.rseq + 1, dirty := 0, adirty := 0, opening := 0, pressed := k.pressure, woken := none
    region := some
      { close := now, win, ck := checkpoint k lanes clause, replay := none, commit,
        head := clause, link, freed := [], lanes, again := 0, redo := lanes } }

/-- A crew opens a region at the issue of a clause by some of its fibres. -/
def openRegion (s : State) (c slot : Nat) (lanes : List Nat) (clause : BitVec 56)
    (commit : Bool) (link : List Nat) : State :=
  s.mapCrew c slot (openCrew s.now (fld (s.core c).qwin 15 0) lanes clause commit link)

/-- Whether the matrix queue holds an entry of a crew (R241). -/
def inMatrixQueue (co : Core) (slot : Nat) : Bool :=
  co.mq.any fun e => e.crews.any fun p => p.1 == slot

/-- Whether every scoreboard counter of a crew is zero (R66). -/
def countersZero (k : Crew) : Bool := k.sb.vals.all fun v => v == 0

/-- Whether a crew waits at a region opening at issue (R208, R423). -/
def waitsAtOpening (s : State) (c slot : Nat) : Bool :=
  (s.core c).waits.any (fun w =>
      w.opens && !w.quiet && w.fibres.any fun f => f.2 == slot) ||
    (s.crew? c slot).any (fun k => k.fibres.vals.any fun f =>
      match f.st with | .blocked (.head ..) => true | _ => false) ||
    (s.core c).latchQ.any fun a => a.slot == slot

/-- Whether a crew is quiet (R208, R241): no batch of it is inside a clause, except one that
waits in the joint latch, its counters are zero and the matrix queue holds nothing of it. -/
def quietCrew (s : State) (c slot : Nat) : Bool :=
  !(s.runs.any fun r => r.core == c && r.hold != some .latch && r.fibres.any fun f => f.2 == slot) &&
    (s.crew? c slot).all countersZero && !inMatrixQueue (s.core c) slot

/-! ### Taking fibres out of the front end -/

/-- Every fibre of a crew leaves the bins, the batches and the waiting clauses (R211, R364). -/
def pullCrew (s : State) (c slot : Nat) : State :=
  let s1 := leaveBins s c slot fun _ => true
  let mine := fun (r : Run) => r.core == c && (r.fibres ++ r.forks).any fun f => f.2 == slot
  let cut := fun (r : Run) =>
    if r.core == c then { r with fibres := r.fibres.filter fun f => f.2 != slot
                                 forks := r.forks.filter fun f => f.2 != slot }
    else r
  let none_ := fun (r : Run) => r.fibres == [] && r.forks == []
  let gone := s1.runs.filter fun r => mine r && none_ (cut r)
  let s2 := gone.foldl endBurst s1
  let s3 := { s2 with runs := (s2.runs.map cut).filter fun r => !none_ r }
  s3.mapCore c fun co =>
    { co with
      waits := (co.waits.map fun (w : WaitB) =>
        { w with fibres := w.fibres.filter fun x => x.2 != slot }).filter fun w => w.fibres != []
      fetches := (co.fetches.map fun (f : FetchB) =>
        { f with fibres := f.fibres.filter fun x => x.2 != slot }).filter fun f => f.fibres != []
      gangQ := co.gangQ.filter fun a => a.slot != slot
      latchQ := co.latchQ.filter fun a => a.slot != slot }

/-- Whether a fibre is trapped. -/
def isTrapped (f : Fibre) : Bool := match f.st with | .trapped _ => true | _ => false

/-- Every live fibre of a crew takes a trap with one record; `mk` gives the trap of a lane
(R244, R274, R365). The instruction that stood at its issue has issued then (R208). -/
def trapLive (s : State) (c slot : Nat) (mk : Nat → Trap) : State :=
  let (s1, id) := freshId (pullCrew s c slot) c
  match s1.crew? c slot with
  | none => s1
  | some k => ((liveFibres k).filter fun p => !isTrapped p.2).foldl (fun s (lane, _) =>
      takeTrap s c slot lane { mk lane with group := id }) (touchRegion s1 c slot)

/-- Every live fibre of a crew of the batch takes a trap at the batch's position (R244). -/
def trapCrewAt (s : State) (r : Run) (slot : Nat) (cause : Cause) (data : W64) : State × Run :=
  let s1 := trapLive { s with runs := s.runs.tail } r.core slot fun lane =>
    batchTrap r lane cause data 0
  ({ s1 with runs := r :: s1.runs },
    { r with fibres := r.fibres.filter fun f => f.2 != slot })

/-! ### Crew-wide instructions in a gathered batch (R46, R62, R244, R274) -/

/-- What a crew-wide instruction sees of one crew of the batch. -/
structure CrewCtx where
  slot : Nat
  crew : Crew
  lanes : List LaneCtx
  mask : W64
  named : List LaneCtx      -- named and active, in order of the lane
  cause : Option Cause      -- the trap of R46

/-- The mask of a fibre: a pair, or one register in narrow-wave mode. -/
def maskVal (nw : Bool) (r : Run) (x : LaneCtx) (mask : Src) : W64 :=
  srcVal x.crew r x.lane (!nw) mask

/-- The trap of R46 for the arrivals of a whole crew. -/
def memberTrap (k : Crew) (l : List (Nat × W64)) : Option Cause :=
  match l with
  | [] => none
  | (_, m) :: _ =>
    let live := (liveFibres k).map (·.1)
    if (lanesOf (footLanes k.foot) m).any fun i => !live.contains i then some .memberExited
    else if l.any fun (i, n) => n != m || !bit n i then some .memberMismatch
    else none

/-- The crews of the batch as a crew-wide instruction sees them. -/
def crewsOf (s : State) (r : Run) (g : Guard) (mask : Src) : List CrewCtx :=
  let nw := r.narrow s
  let all := lanesUnder s r g
  r.slots.filterMap fun slot =>
    match s.crew? r.core slot with
    | none => none
    | some k =>
      let lanes := all.filter fun x => x.slot == slot
      let ms := lanes.map fun x => (x.lane, maskVal nw r x mask)
      let m := (ms.head?.map (·.2)).getD 0
      some { slot, crew := k, lanes, mask := m
             named := lanes.filter fun x => x.act && bit m x.lane
             cause := memberTrap k ms }

/-- The shape of a crew-wide instruction: the part of its charge that depends on values, its
traps in order, a reason to hold the batch, and its effect for each crew that has a named
active fibre; `chk` and `act` receive the leader. -/
def crewWide (i : Instr) (g : Guard) (mask : Src)
    (extra : State → Run → List (CrewCtx × LaneCtx) → Nat)
    (charge : State → Run → CrewCtx → Nat)
    (chk : State → Run → CrewCtx → LaneCtx → Option Cause)
    (wait : State → Run → List (CrewCtx × LaneCtx) → Option Hold)
    (act : State → Run → CrewCtx → LaneCtx → State) (s : State) : Out :=
  issue (fun s r => regsOf (r.narrow s) i) (fun s r =>
    let cs := crewsOf s r g mask
    let s1 := if r.taken then s
      else cs.foldl (fun s x => chargeCrew s r.core x.slot 0 (charge s r x)) s
    let bad := cs.filterMap fun x =>
      match x.cause with
      | some e => some (x.slot, e)
      | none =>
        match x.named with
        | [] => none
        | a :: _ => (chk s r x a).map fun e => (x.slot, e)
    let (s2, r2) := bad.foldl (fun (p : State × Run) x => trapCrewAt p.1 p.2 x.1 x.2 0)
      (s1, { r with taken := true })
    let ok := (cs.filter fun x => !bad.any fun b => b.1 == x.slot).filterMap fun x =>
      x.named.head?.map fun a => (x, a)
    match wait s2 r2 ok with
    | some h => requeue s2 { r2 with hold := some h, asked := s2.now }
    | none =>
      let cc := extra s2 r2 ok
      finish (ok.foldl (fun s p => landAt (act s r2 p.1 p.2) r2.core p.1.slot cc) s2) r2 cc) s

/-- The value of a one-register crew-wide operand (R244). -/
def leaderVal (r : Run) (a : LaneCtx) (x : Src) : W32 :=
  (srcVal a.crew r a.lane false x).setWidth 32

end Sys2Proof.Machine
end

