-- ==== Sys2Proof/Machine/Matrix.lean ====
section
/-! DEFINITION. Operand records, accumulator blocks, the matrix queue and gangs: 0x160 to 0x170
(R232 to R253) and the events of the fill engine, the matrix unit, the current arbiter and the
rendezvous latch. -/
namespace Sys2Proof.Machine
open Sys2Proof

/-! ### Records (R232 to R237) -/

def Rec.free : Rec :=
  { desc := 0, map := 0, first := 0, count := 0, fault := none, relSeq := none }

def recOf (k : Crew) (n : Nat) : Rec := k.recs.getD n Rec.free

/-- Fields of RDESC (R234). -/
def recRole (d : W64) : Bool := bit d 63
def recFmt (d : W64) : Nat := fld d 62 60
def recSenc (d : W64) : Nat := fld d 59 58
def recBlk32 (d : W64) : Bool := bit d 57
def recOuter (d : W64) : Bool := bit d 56
def recRows (d : W64) : Nat := if recRole d then 16 * (fld d 55 51 + 1) else 64
def recKx (d : W64) : Nat := 64 * (fld d 50 47 + 1)
def recStride (d : W64) : Nat := 16 * fld d 46 33
def recFilled (d : W64) : Bool := bit d 19
def recState (d : W64) : Nat := fld d 18 17
/-- Records a crew declares (R33). -/
def footOrec (f : W64) : Nat := fld f 21 17
/-- Accumulator blocks a crew declares (R33). -/
def footAcc (f : W64) : Nat := fld f 29 22

/-- Bits of an element (R236). -/
def fmtBits (fmt : Nat) : Nat := if fmt ≤ 1 then 16 else if fmt = 6 then 4 else 8

/-- Scale blocks along K (R236). -/
def recKb (d : W64) : Nat := recKx d / (if recBlk32 d then 32 else 64)

/-- Bytes of the data of a record, and of its effective scales (R237). -/
def recData (d : W64) : Nat := recRows d * recKx d * fmtBits (recFmt d) / 8
def recScales (d : W64) : Nat := if recSenc d = 0 then 0 else 2 * recRows d * recKb d
def recLines (d : W64) : Nat := ceilDiv (recData d + recScales d) 256

/-- The descriptors that `orsv` refuses with FORMAT (R234). -/
def descBad (d : W64) (tr : Bool) : Bool :=
  fld d 32 0 != 0 || recFmt d == 7 || (recFmt d == 6 && recOuter d) ||
    (recSenc d != 0 && decide (recFmt d ≤ 1)) || (recBlk32 d && recSenc d == 0) ||
    (!recRole d && fld d 55 51 != 0) || (recSenc d == 3 && !tr)

/-- The maps that `orsv` and `omap` refuse with FORMAT (R235). -/
def mapBad (d m : W64) : Bool :=
  fld m 63 60 != 0 || (recSenc d == 1 && fld m 39 20 % 2 != 0) ||
    (recSenc d == 2 && fld m 59 40 % 4 != 0)

/-- The place offsets held in RDESC (R234). -/
def recPlace (d : W64) : PlaceOp :=
  ⟨d.extractLsb' 0 6, d.extractLsb' 8 6, d.extractLsb' 14 3⟩

/-- Whether the offsets of a record are relative to the crew's own scratchpad (R235). -/
def ownPlace (p : PlaceOp) : Bool := p.dx == 0 && p.dy == 0 && p.dd == 0

/-- Byte offsets that a fill reads for the data (R236), in the order of the lines (R237), each
element as an offset with a nibble. -/
def dataByte (d m : W64) (r k : Nat) : Nat :=
  let w := fmtBits (recFmt d)
  fld m 19 0 + (if recOuter d then k * recStride d + r * w / 8 else r * recStride d + k * w / 8)

/-- The byte offsets of the scales at their longest, with the D4 stream at three nibbles a
block (R245). -/
def scaleBytes (d m : W64) : List Nat :=
  let nb := recRows d * recKb d
  match recSenc d with
  | 1 => (List.range (2 * nb)).map fun i => fld m 39 20 + i
  | 2 => ((List.range nb).map fun b => fld m 39 20 + b) ++
      (List.range (4 * ceilDiv nb 256)).map fun i => fld m 59 40 + i
  | 3 => (List.range (ceilDiv (3 * nb) 2)).map fun i => fld m 39 20 + i
  | _ => []

/-- Every byte offset of the data, without repeats in a row. -/
def dataBytes (d m : W64) : List Nat :=
  ((List.range (recRows d)).map fun r =>
    ((List.range (recKx d)).map fun k =>
      (List.range (max 1 (fmtBits (recFmt d) / 8))).map fun i => dataByte d m r k + i).flatten).flatten

/-- S of `orsv` and `omap`: sectors of another core's store (R245). -/
def fillSectors (d m : W64) : Nat :=
  (dedup ((dataBytes d m ++ scaleBytes d m).map fun a => a / 64)).length

/-! ### Filling (R238) -/

/-- A byte of the source of a fill: the crew's own scratchpad, newest lodge bytes first, or the
scratchpad of a crew on another core, which a multicast may have brought already. -/
def fillByte (s : State) (c slot : Nat) (k : Crew) (own : Bool) (t a : Nat) :
    Except Cause Byte :=
  if own then
    if scratchBytes k.foot ≤ a then .error .scratchBound
    else match lodgeByte (s.core c) slot (chipPa c (k.sbase + a)) with
      | some b => .ok b
      | none =>
        if (readSites s c (some (c, slot)) (· == .scratch (a / 4))).2.isSome then .error .machineCheck
        else .ok (k.scratch.getD a 0)
  else match winTarget (s.core t) a with
    | .scratch .. => match (s.core c).fillGot.get? a with
      | some b => .ok b
      | none => if (readWin s c t a).2.isSome then .error .machineCheck else .ok (winGet (s.core t) a)
    | _ => .error .windowUnowned

/-- Bytes read in order, or the first failure. -/
def readBytes (f : Nat → Except Cause Byte) : List Nat → Except Cause (List Byte)
  | [] => .ok []
  | a :: r =>
    match f a with
    | .error e => .error e
    | .ok b => match readBytes f r with
      | .error e => .error e
      | .ok l => .ok (b :: l)

/-- The element patterns of a record in the order of its lines (R236, R237). -/
def readElems (f : Nat → Except Cause Byte) (d m : W64) : Except Cause (List Nat) :=
  let w := fmtBits (recFmt d)
  let idx := ((List.range (recKx d / 64)).map fun ks =>
    ((List.range (recRows d)).map fun r =>
      (List.range 64).map fun i => (r, 64 * ks + i)).flatten).flatten
  idx.foldr (fun (r, k) acc =>
    match readBytes f ((List.range (max 1 (w / 8))).map fun i => dataByte d m r k + i), acc with
    | .error e, _ => .error e
    | _, .error e => .error e
    | .ok l, .ok t =>
      let v := ofBytes l
      .ok ((if w = 4 then (if k % 2 = 0 then v % 16 else v / 16) else v) :: t)) (.ok [])

/-- The bytes that hold element patterns (R237). -/
def elemBytes (w : Nat) : List Nat → List Byte
  | [] => []
  | [a] => toBytes (max 1 (w / 8)) a
  | a :: b :: r =>
    if w = 4 then BitVec.ofNat 8 (a + 16 * b) :: elemBytes w r
    else toBytes (w / 8) a ++ elemBytes w (b :: r)

/-- The D4 stream (R89): n scales from the nibbles, with the exponent index so far. -/
def d4Decode : Nat → Int → List Nat → Except Cause (List Nat)
  | 0, _, _ => .ok []
  | n + 1, e, ns =>
    match ns with
    | [] => .error .format
    | x :: r =>
      let d := sextNat 4 x
      let step : Except Cause (Int × List Nat) :=
        if d = -8 then
          match r with
          | lo :: hi :: t => .ok (sextNat 8 (lo + 16 * hi), t)
          | _ => .error .format
        else if e + d < -127 ∨ 127 < e + d then .error .format
        else .ok (e + d, r)
      match step with
      | .error c => .error c
      | .ok (e, t) => match d4Decode n e t with
        | .error c => .error c
        | .ok l => .ok (d4Scale e :: l)

/-- Whether nibbles hold a whole D4 stream of n blocks (R89). -/
def d4Full : Nat → List Nat → Bool
  | 0, _ => true
  | n + 1, ns =>
    match ns with
    | [] => false
    | x :: r =>
      if sextNat 4 x = -8 then decide (2 ≤ r.length) && d4Full n (r.drop 2) else d4Full n r

/-- A stream's nibbles read on demand, byte by byte until n blocks are whole (R89). -/
def d4Bytes (f : Nat → Except Cause Byte) (at_ n : Nat) : Nat → List Nat → Except Cause (List Nat)
  | 0, ns => .ok ns
  | fuel + 1, ns =>
    if d4Full n ns then .ok ns
    else match f (at_ + ns.length / 2) with
      | .error e => .error e
      | .ok b => d4Bytes f at_ n fuel (ns ++ [b.toNat % 16, b.toNat / 16])

/-- The effective scales of a record in order of the block, and the bytes read (R86 to R90,
R236). -/
def readScales (f : Nat → Except Cause Byte) (d m : W64) : Except Cause (List Nat × Nat) :=
  let nb := recRows d * recKb d
  match recSenc d with
  | 1 =>
    match readBytes f (scaleBytes d m) with
    | .error e => .error e
    | .ok l => .ok ((List.range nb).map fun b =>
        (l.getD (2 * b) 0).toNat + 256 * (l.getD (2 * b + 1) 0).toNat, l.length)
  | 2 =>
    match readBytes f (scaleBytes d m) with
    | .error e => .error e
    | .ok l => .ok ((List.range nb).map fun b =>
        let sup := ofBytes ((List.range 4).map fun i => l.getD (nb + 4 * (b / 256) + i) 0)
        q8Scale (l.getD b 0).toNat (FTy.f32.decode sup), l.length)
  | 3 =>
    match d4Bytes f (fld m 39 20) nb (ceilDiv (3 * nb) 2) [] with
    | .error e => .error e
    | .ok ns => match d4Decode nb 0 ns with
      | .error e => .error e
      | .ok l => .ok (l, ns.length / 2)
  | _ => .ok ([], 0)

/-- Where the source of a record lies now: own, or a core found again through its place
(R170, R238). -/
def recSource (s : State) (c slot : Nat) (k : Crew) (d : W64) : Except Cause (Bool × Nat) :=
  if ownPlace (recPlace d) then .ok (true, c)
  else match placeResolve s c slot k (recPlace d) with
    | .ok (_, t) => .ok (false, t)
    | .error e => .error e

/-- A whole fill: the bytes of the lines and the number of bytes read. -/
def fillBytes (s : State) (c slot : Nat) (k : Crew) (r : Rec) : Except Cause (List Byte × Nat) :=
  match recSource s c slot k r.desc with
  | .error e => .error e
  | .ok (own, t) =>
    let f := fillByte s c slot k own t
    match readElems f r.desc r.map with
    | .error e => .error e
    | .ok es => match readScales f r.desc r.map with
      | .error e => .error e
      | .ok (sc, n) =>
        .ok (elemBytes (fmtBits (recFmt r.desc)) es ++ (sc.map fun x => toBytes 2 x).flatten,
          recData r.desc + n)

def setRec (k : Crew) (n : Nat) (r : Rec) : Crew := { k with recs := k.recs.put n r }

/-- The operand buffer with bytes written from an address on; zero bytes are not listed. -/
def obPuts (t : Tab Byte) (a : Nat) : List Byte → Tab Byte
  | [] => t
  | b :: r => obPuts (if b = 0 then t.del a else t.put a b) (a + 1) r

/-- The fill engine starts nothing more of its head. -/
def Core.fillOver (co : Core) : Core := { co with fillEnd := none, fillGot := .empty }

/-- The 256-byte ranges of another core's window that a running fill of a core reads (R238). -/
def fillRanges (s : State) (c t : Nat) : List Nat :=
  match (s.core c).fills, (s.core c).fillEnd with
  | (slot, n) :: _, some _ => match s.crew? c slot with
    | none => []
    | some k =>
      let r := recOf k n
      match recSource s c slot k r.desc with
      | .ok (false, u) =>
        if u = t then dedup ((dataBytes r.desc r.map ++ scaleBytes r.desc r.map).map (· / 256)) else []
      | _ => []
  | _, _ => []

/-- The fill of a core reads ranges of another core's store: every core of its cluster whose running fill
needs one of them receives the same bytes of it (R238). -/
def multicast (s : State) (c t : Nat) : State :=
  let mine := fillRanges s c t
  ((List.range 8).map fun i => 8 * clusterOf c + i).foldl (fun s x =>
    let both := if x = c then [] else (fillRanges s x t).filter mine.contains
    both.foldl (fun s q => s.mapCore x fun co =>
      { co with fillGot := (List.range 256).foldl (fun (g : Tab Byte) i =>
          let a := 256 * q + i
          if (g.get? a).isSome then g
          else g.put a (((s.core c).fillGot.get? a).getD (winGet (s.core t) a))) co.fillGot }) s) s

/-- The correctable errors in what a fill has read of its source are corrected (R178). -/
def mendSource (s : State) (c slot : Nat) (k : Crew) (r : Rec) : State :=
  let as_ := dataBytes r.desc r.map ++ scaleBytes r.desc r.map
  match recSource s c slot k r.desc with
  | .ok (true, _) =>
    if k.upsets.isEmpty then s
    else (readSites s c (some (c, slot)) fun x => match x with
      | .scratch w => as_.any fun a => a / 4 == w
      | _ => false).1
  | .ok (false, t) =>
    if (s.core t).crews.vals.all fun k => k.upsets.isEmpty then s
    else as_.foldl (fun s a => (readWin s c t a).1) s
  | .error _ => s

/-- OPERAND_FILL (R238): the fill engine serves fills in order of issue. An idle engine starts
the oldest; at its end the lines hold the fill, or the record holds its fault. A fill that a
squash or the end of its crew made void is passed over. -/
def execOperandFill (c : Nat) (s : State) : Out :=
  let co := s.core c
  match co.fills with
  | [] => .next s
  | (slot, n) :: rest =>
    match (s.crew? c slot).map fun k => (k, recOf k n) with
    | none => .next (s.setCore c { co with fills := rest }.fillOver)
    | some (k, r) =>
      if recState r.desc = 0 then .next (s.setCore c { co with fills := rest }.fillOver)
      else
        let res := fillBytes s c slot k r
        match co.fillEnd with
        | none =>
          let n := match res with | .ok (_, n) => n | .error _ => 0
          let rate := if ownPlace (recPlace r.desc) then 128 else 64
          .next (s.setCore c { co with fillEnd := some (s.now + (8 + ceilDiv n rate) * clockDiv s c) })
        | some t =>
          if s.now < t then .next s
          else
            let s0 := mendSource (match recSource s c slot k r.desc with
              | .ok (false, t) => multicast s c t
              | _ => s) c slot k r
            let s1 := s0.mapCore c fun co => { co with fills := rest }.fillOver
            match res with
            | .error e =>
              .next (s1.mapCrew c slot fun k => setRec k n { r with fault := some e })
            | .ok (bytes, _) =>
              let lines := fun (x : Site) => match x with
                | .operand y w => y == c && r.first ≤ w / 64 && decide (w / 64 < r.first + r.count)
                | _ => false
              let s2 := (s1.heal lines).mapCore c fun co => { co with ob := obPuts co.ob (256 * r.first) bytes }
              .next (s2.mapCrew c slot fun k =>
                setRec k n { r with desc := setBit r.desc 19 true, fault := none })

/-- No extra cycles. -/
def noCc : State → Run → List (CrewCtx × LaneCtx) → Nat := fun _ _ _ => 0

/-! ### orsv, omap, orel (R246, R247) -/

/-- The lines of a crew's share that its records hold. -/
def takenLines (k : Crew) : List (Nat × Nat) :=
  (k.recs.vals.filter fun r => recState r.desc != 0).map fun r => (r.first, r.count)

/-- The lowest run of free lines in a crew's share (R233). -/
def freeLines (k : Crew) (n : Nat) : Option Nat :=
  ((List.range (64 * footOrec k.foot)).map fun i => k.obase + i).find? fun a =>
    a + n ≤ k.obase + 64 * footOrec k.foot &&
      (takenLines k).all fun (f, m) => a + n ≤ f || f + m ≤ a

/-- Whether a core accepts D4 scales (R90). -/
def trMode (s : State) (c : Nat) : Bool := bit (s.core c).trmode 0

/-- The descriptor and the map that `orsv` reads from its quad, and `omap` from its pair. -/
def orsvVals (a : LaneCtx) (r : Run) (q : Src) : W64 × W64 :=
  let x := srcNat a.crew r a.lane 4 q
  (BitVec.ofNat 64 x, BitVec.ofNat 64 (x / 2 ^ 64))

/-- The trap of a record's place (R26, R246). -/
def recPlaceTrap (s : State) (r : Run) (x : CrewCtx) (pl : PlaceOp) : Option Cause :=
  if ownPlace pl then none
  else match placeResolve s r.core x.slot x.crew pl with
    | .error e => some e
    | .ok (_, t) => if clusterOf t = clusterOf r.core then none else some .operandPlace

/-- Whether a record may not be used at all, or stands in another state (R246 to R248). -/
def recNot (k : Crew) (n st : Nat) : Bool :=
  decide (footOrec k.foot ≤ n) || recState (recOf k n).desc != st

/-- Whether an earlier entry of a crew in the matrix queue has yet to read a record (R241). -/
def recInUse (s : State) (c slot n : Nat) : Bool :=
  (s.core c).mq.any fun e => e.ends.isNone && e.crews.any (fun p => p.1 == slot) &&
    ((match e.instr with
      | .mma _ a b .. | .mmaJoint _ a b .. | .mmaz _ a b .. => a.toNat == n || b.toNat == n
      | _ => false) ||
      e.join.any fun j => match j.instr with
        | .mmaJoint _ a b .. => a.toNat == n || b.toNat == n
        | _ => false)

/-- The place offsets in RDESC, with the state bits kept. -/
def withPlace (d : W64) (pl : PlaceOp) : W64 :=
  setFld (setFld (setFld d 5 0 pl.dx.toNat) 13 8 pl.dy.toNat) 16 14 pl.dd.toNat

/-- A fill joins the queue of the fill engine; one of the same record that has not ended is overtaken by
it (R238, R246). -/
def startFill (s : State) (c slot n : Nat) : State :=
  s.mapCore c fun co =>
    let co := if co.fills.head? = some (slot, n) then co.fillOver else co
    { co with fills := co.fills.filter (· != (slot, n)) ++ [(slot, n)] }

/-- S of a fill by a crew's leader (R245). -/
def fillCharge (r : Run) (x : CrewCtx) (pl : PlaceOp) (dm : LaneCtx → Run → W64 × W64) : Nat :=
  match x.named with
  | a :: _ => if ownPlace pl then 0 else fillSectors (dm a r).1 (dm a r).2
  | [] => 0

/-- The fills of a crew leave the fill engine. -/
def dropFills (slot : Nat) (co : Core) : Core :=
  let co := if co.fills.head?.any fun p => p.1 == slot then co.fillOver else co
  { co with fills := co.fills.filter fun p => p.1 != slot }

/-- Every reserved record of a crew is filled again from its map, in record order: what a restart,
a move and a restore begin with (R232, R239). -/
def refillRecs (s : State) (c slot : Nat) : State :=
  match s.crew? c slot with
  | none => s
  | some k => ((List.range 32).filter fun n => recState (recOf k n).desc == 1).foldl
      (fun s n => startFill s c slot n) s

def execOrsv (g : Guard) (k : BitVec 4) (q mask : Src) (pl : PlaceOp) : State → Out :=
  crewWide (.orsv g k q mask pl) g mask noCc
    (fun _ r x => fillCharge r x pl fun a r => orsvVals a r q)
    (fun s r x a =>
      let (d, m) := orsvVals a r q
      if recNot x.crew k.toNat 0 then some .recordState
      else if descBad d (trMode s r.core) || mapBad d m then some .format
      else match recPlaceTrap s r x pl with
        | some e => some e
        | none => if (freeLines x.crew (recLines d)).isNone then some .operandSpace else none)
    (fun _ _ _ => none)
    (fun s r x a =>
      let (d, m) := orsvVals a r q
      let rec_ : Rec :=
        { desc := withPlace (setFld d 18 17 1) pl, map := m
          first := (freeLines x.crew (recLines d)).getD 0, count := recLines d
          fault := none, relSeq := none }
      startFill (s.mapCrew r.core x.slot fun k' => setRec k' k.toNat rec_) r.core x.slot k.toNat)

/-- Whether a crew of a batch still has a queue entry that is to read record n, which holds an
`omap` or `orel` at issue (R241). -/
def recHeld (n : Nat) (s : State) : Bool :=
  match s.runs with
  | r :: _ => r.slots.any fun x => recInUse s r.core x n
  | [] => false

/-- A position that waits without effect until its condition holds. -/
def whenFree (busy : State → Bool) (f : State → Out) (s : State) : Out :=
  match s.runs with
  | r :: _ => if busy s then .next (retryRun s r) else f s
  | [] => f s

def omapVals (k : BitVec 4) (m : Src) (a : LaneCtx) (r : Run) : W64 × W64 :=
  ((recOf a.crew k.toNat).desc, srcVal a.crew r a.lane true m)

def execOmap (g : Guard) (k : BitVec 4) (m mask : Src) (pl : PlaceOp) : State → Out :=
  whenFree (recHeld k.toNat) <| crewWide (.omap g k m mask pl) g mask noCc
    (fun _ r x => fillCharge r x pl (omapVals k m))
    (fun s r x a =>
      let (d, w) := omapVals k m a r
      if recNot x.crew k.toNat 1 then some .recordState
      else if mapBad d w then some .format
      else recPlaceTrap s r x pl)
    (fun _ _ _ => none)
    (fun s r x a =>
      let (d, w) := omapVals k m a r
      startFill (s.mapCrew r.core x.slot fun k' => setRec k' k.toNat
        { recOf k' k.toNat with
          desc := withPlace (setBit d 19 false) pl, map := w, fault := none })
        r.core x.slot k.toNat)

def execOrel (g : Guard) (k : BitVec 4) (mask : Src) : State → Out :=
  whenFree (recHeld k.toNat) <| crewWide (.orel g k mask) g mask noCc (fun _ _ _ => 0)
    (fun _ _ x _ => if recNot x.crew k.toNat 1 then some .recordState else none)
    (fun _ _ _ => none)
    (fun s r x _ => s.mapCrew r.core x.slot fun c =>
      setRec c k.toNat { recOf c k.toNat with
        desc := setFld (recOf c k.toNat).desc 18 17 2, fault := none, relSeq := some c.rseq })

/-! ### Accumulator blocks (R240) -/

/-- A table whose entries of one block are those of another table. -/
def copyBlock (src dst : Tab W32) (b : Nat) : Tab W32 :=
  ⟨(dst.keep fun i _ => i < b * 1024).cells ++
    ((src.keep fun i _ => b * 1024 ≤ i && i < b * 1024 + 1024).cells ++
      (dst.keep fun i _ => b * 1024 + 1024 ≤ i).cells)⟩

/-- The elements of a block in one copy. -/
def blockSites (copy : Bool) (b : Nat) : Site → Bool
  | .acc x key => x == copy && key / 1024 == b
  | _ => false

/-- The first write to a block in a region switches its copy; `keep` copies the current one. -/
def renameBlock (k : Crew) (b : Nat) (keep : Bool) : Crew :=
  if bit k.adirty b then k
  else
    let src : Tab W32 := if keep then (if bit k.acur b then k.acc1 else k.acc0) else .empty
    let k := if keep then k.carry (blockSites (bit k.acur b) b) else k.heal (blockSites (!bit k.acur b) b)
    let k := { k with acur := setBit k.acur b (!bit k.acur b), adirty := setBit k.adirty b true }
    if bit k.acur b then { k with acc1 := copyBlock src k.acc1 b }
    else { k with acc0 := copyBlock src k.acc0 b }

/-- An element written into the current copy. -/
def accPut (k : Crew) (key : Nat) (w : W32) : Crew :=
  let k := k.heal (· == .acc (bit k.acur (key / 1024)) key)
  if bit k.acur (key / 1024) then { k with acc1 := k.acc1.put key w }
  else { k with acc0 := k.acc0.put key w }

/-- Blocks written, each renamed first. -/
def accWrite (k : Crew) (keep : Bool) (l : List (Nat × W32)) : Crew :=
  let bs := dedup (l.map fun p => p.1 / 1024)
  l.foldl (fun k p => accPut k p.1 p.2) (bs.foldl (fun k b => renameBlock k b keep) k)

/-- Blocks that a write copies because they are clean (R240). -/
def cleanBlocks (k : Crew) (bs : List Nat) : Nat := (bs.filter fun b => !bit k.adirty b).length

/-! ### The sums (R91 to R93, R242, R248) -/

/-- The exact value of an element pattern. -/
def elemVal (fmt v : Nat) : FVal :=
  match fmt with
  | 0 => FTy.bf16.decode v
  | 1 => FTy.f16.decode v
  | 2 => FTy.f8e4.decode v
  | 3 => FTy.f8e5.decode v
  | 4 => FVal.ofInt (sextNat 8 v) 0
  | 5 => FVal.ofInt v 0
  | _ => FVal.ofInt (cbLevel v) (-10)

/-- Element (r, k) of K-step ks in the operand lines of a record (R237). -/
def recElem (co : Core) (x : Rec) (ks r k : Nat) : FVal :=
  let w := fmtBits (recFmt x.desc)
  let i := (ks * recRows x.desc + r) * 64 + k
  let a := 256 * x.first + i * w / 8
  let b0 := (co.ob.getD a 0).toNat
  elemVal (recFmt x.desc)
    (if w = 4 then (if k % 2 = 0 then b0 % 16 else b0 / 16)
     else if w = 8 then b0 else b0 + 256 * (co.ob.getD (a + 1) 0).toNat)

/-- The scale of row r in the 32-element half h of K-step ks (R236, R242). -/
def recScale (co : Core) (x : Rec) (ks r h : Nat) : FVal :=
  if recSenc x.desc = 0 then .fin false 1 0
  else
    let t := if recBlk32 x.desc then 2 * ks + h else ks
    let a := 256 * x.first + recData x.desc + 2 * (r * recKb x.desc + t)
    FTy.bf16.decode ((co.ob.getD a 0).toNat + 256 * (co.ob.getD (a + 1) 0).toNat)

/-- An exact zero sum is +0 (R91). -/
def plusZero : FVal → FVal
  | .fin s m e => if m = 0 then .fin false 0 e else .fin s m e
  | v => v

/-- The sum of a block of a K-step with its scales (R91): whole, or the half h of it. -/
def blockSum (co : Core) (a b : Rec) (ka kb m n : Nat) (whole : Bool) (h : Nat) : FVal :=
  let ks := if whole then List.range 64 else (List.range 32).map fun i => 32 * h + i
  let p := ks.foldl (fun acc k =>
    FVal.add .rn acc (FVal.mul (recElem co a ka m k) (recElem co b kb n k))) (.fin false 0 0)
  FVal.mul (FVal.mul p (recScale co a ka m h)) (recScale co b kb n h)

/-- The exact sum of R248 for row m and column n of B. -/
def kStep (co : Core) (a b : Rec) (ka kb m n : Nat) : FVal :=
  if recBlk32 a.desc || recBlk32 b.desc then
    plusZero (FVal.add .rn (blockSum co a b ka kb m n false 0) (blockSum co a b ka kb m n false 1))
  else plusZero (blockSum co a b ka kb m n true 0)

/-- Fields of the spec register (R248). -/
def specCb (w : W32) : Nat := fld w 28 24
def specKb (w : W32) : Nat := fld w 23 20
def specKa (w : W32) : Nat := fld w 19 16
def specNm1 (w : W32) : Nat := fld w 12 8
def specBlk (w : W32) : Nat := fld w 5 0

/-- The rate and the units of a format pair, none where it is not in R242. -/
def fmtPair (a b : Nat) : Option (Nat × Nat) :=
  let f16 := fun (x : Nat) => decide (x ≤ 1)
  let f8 := fun (x : Nat) => x == 2 || x == 3
  let i8 := fun (x : Nat) => x == 4 || x == 5
  if (f16 a || a = 6) && f16 b then some (4096, 8)
  else if (f8 a || a = 6) && f8 b then some (8192, 10)
  else if i8 a && i8 b then some (8192, 10)
  else if a = 6 && b = 6 then some (16384, 12)
  else none

/-- The records that an instruction of the queue reads, with whether it adds. -/
def mmaRecs : Instr → Option (Nat × Nat × Bool)
  | .mma _ a b .. | .mmaJoint _ a b .. => some (a.toNat, b.toNat, true)
  | .mmaz _ a b .. => some (a.toNat, b.toNat, false)
  | _ => none

/-- The crews of an entry with their own instruction and spec: one, or those of a joint
`mma`. -/
def entryParts (e : MEntry) : List (Nat × W32 × Instr) :=
  if e.join.isEmpty then e.crews.map fun p => (p.1, p.2, e.instr)
  else e.crews.filterMap fun p =>
    (e.join.find? fun j => j.slot == p.1).map fun j => (p.1, p.2, j.instr)

/-- The records of one part of an entry. -/
def partRecs (s : State) (c : Nat) (p : Nat × W32 × Instr) : Option (Crew × Rec × Rec × Bool) :=
  match s.crew? c p.1, mmaRecs p.2.2 with
  | some k, some (a, b, add) => some (k, recOf k a, recOf k b, add)
  | _, _ => none

/-- The fault that a record of an entry has recorded (R238, R248, R252). -/
def entryFault (s : State) (c : Nat) (e : MEntry) : Option Cause :=
  (entryParts e).findSome? fun p =>
    match partRecs s c p with
    | some (_, a, b, _) => match a.fault with | some x => some x | none => b.fault
    | none => none

/-- The blocks that `aclr` and `ascl` name (R249). -/
def specBlocks (w : W32) : List Nat := (List.range (fld w 12 8 + 1)).map fun i => specBlk w + i

/-- The blocks whose elements an entry reads or copies for a part of it (R178, R240). -/
def blocksRead (k : Crew) (p : Nat × W32 × Instr) : List Nat :=
  let w := p.2.1
  match p.2.2 with
  | .mma .. | .mmaJoint .. => (List.range (specNm1 w + 1)).map fun i => specBlk w + i
  | .ascl .. => specBlocks w
  | .ard .. => [specBlk w]
  | .awr .. => if bit k.adirty (specBlk w) then [] else [specBlk w]
  | _ => []

/-- The lines of the records of an entry, and the accumulators that it reads, read from their arrays:
the physical sector of an error that is left (R178). -/
def entryError (s : State) (c : Nat) (e : MEntry) : State × Option Nat :=
  let lines := ((entryParts e).filterMap fun p => (partRecs s c p).map fun (_, a, b, _) =>
    [(a.first, a.count), (b.first, b.count)]).flatten
  let inLines := fun (x : Site) => match x with
    | .operand y w => y == c && lines.any fun (f, n) => f ≤ w / 64 && decide (w / 64 < f + n)
    | _ => false
  match readSites s c none inLines with
  | (s, some (.operand _ w)) => (s, some (chipPa c (0x180000 + 4 * w) / 64))
  | (s, _) =>
    (((entryParts e).take 1).foldl (fun (q : State × Option Nat) p =>
      match q.1.crew? c p.1 with
      | none => q
      | some k =>
        let blocks := blocksRead k p
        let mine := fun (x : Site) => match x with
          | .acc copy key => blocks.contains (key / 1024) && bit k.acur (key / 1024) == copy
          | _ => false
        match readSites q.1 c (some (c, p.1)) mine with
        | (s, some x) => (s, some (cellSector c k x))
        | (s, none) => (s, q.2)) (s, none))

/-- Whether the records of an entry are filled, or have failed. -/
def entryReady (s : State) (c : Nat) (e : MEntry) : Bool :=
  (entryParts e).all fun p =>
    match partRecs s c p with
    | some (_, a, b, _) =>
      (recFilled a.desc || a.fault.isSome) && (recFilled b.desc || b.fault.isSome)
    | none => true

/-- The results of a matrix entry: the elements written, for the crew in SLOT 0 (R248, R252). -/
def mmaOut (s : State) (c : Nat) (e : MEntry) : List (Nat × W32) :=
  let co := s.core c
  match entryParts e with
  | [] => []
  | p :: rest =>
    match partRecs s c p with
    | none => []
    | some (k, _, _, add) =>
      let n := 16 * (specNm1 p.2.1 + 1)
      let parts := (p :: rest).filterMap fun q => (partRecs s c q).map fun x => (q.2.1, x)
      ((List.range 64).map fun m => (List.range n).map fun j =>
        let sum := plusZero (parts.foldl (fun acc (w, (_, a, b, _)) =>
          FVal.add .rn acc (kStep co a b (specKa w) (specKb w) m (16 * specCb w + j)))
            (.fin false 0 0))
        let blk := specBlk p.2.1 + j / 16
        let acc := if add then FTy.f32.decode (accGet k blk m (j % 16)).toNat else .fin false 0 0
        (accKey blk m (j % 16),
          BitVec.ofNat 32 (FTy.f32.round .rn false (FVal.add .rn acc sum)))).flatten

/-! ### The matrix queue (R241) -/

/-- The row of a fibre (R249). -/
def rowOf (nw : Bool) (w : W32) (lane : Nat) : Nat :=
  if nw then lane + 32 * (bit w 16).toNat else lane

/-- Whether the queue lacks room for the crews of a batch (R241). -/
def mqFull (s : State) (r : Run) (l : List (CrewCtx × LaneCtx)) : Option Hold :=
  if 32 < (s.core r.core).mq.length + l.length then some .matrix else none

/-- A new entry of one crew (R241). -/
def mqPush (s : State) (r : Run) (x : CrewCtx) (i : Instr) (spec : W32) (vals : Tab W32)
    (lanes : List Nat) (flight : Nat) : State :=
  let (s, id) := freshId s r.core
  s.mapCore r.core fun co => { co with mq := co.mq ++
    [{ id, instr := i, clause := r.clause, pos := r.pos, next := nextClause r.clause r.hdr
       crews := [(x.slot, spec)], vals, lanes, flight, asked := false, units := 0, ends := none
       out := [], join := [] }] }

/-- The checks of `mma`, `mmaz` and the joint `mma` at issue (R248). -/
def mmaTrap (s : State) (c : Nat) (k : Crew) (joint : Bool) (ra rb : BitVec 4) (w : W32) :
    Option Cause :=
  let a := recOf k ra.toNat
  let b := recOf k rb.toNat
  if joint && fld k.gang 34 32 == 0 then some .gangState
  else if recNot k ra.toNat 1 || recNot k rb.toNat 1 || recRole a.desc || !recRole b.desc then
    some .recordState
  else if (fmtPair (recFmt a.desc) (recFmt b.desc)).isNone ||
      ((recSenc a.desc == 3 || recSenc b.desc == 3) && !trMode s c) then some .format
  else if fld a.desc 50 47 < specKa w || fld b.desc 50 47 < specKb w ||
      recRows b.desc < 16 * (specCb w + specNm1 w + 1) then some .operandRange
  else if footAcc k.foot < specBlk w + specNm1 w + 1 then some .accBound
  else none

/-- `mma` and `mmaz` (R248). -/
def mmaOp (i : Instr) (g : Guard) (ra rb : BitVec 4) (spec mask : Src) : State → Out :=
  crewWide i g mask noCc (fun _ _ _ => 0)
    (fun s r x a => mmaTrap s r.core x.crew false ra rb (leaderVal r a spec))
    mqFull
    (fun s r x a => mqPush s r x i (leaderVal r a spec) .empty [] 0)

def execMma (g : Guard) (ra rb : BitVec 4) (spec mask : Src) : State → Out :=
  mmaOp (.mma g ra rb spec mask) g ra rb spec mask
def execMmaz (g : Guard) (ra rb : BitVec 4) (spec mask : Src) : State → Out :=
  mmaOp (.mmaz g ra rb spec mask) g ra rb spec mask

def execAclr (g : Guard) (spec mask : Src) : State → Out :=
  crewWide (.aclr g spec mask) g mask noCc (fun _ _ _ => 0)
    (fun _ r x a =>
      let w := leaderVal r a spec
      if footAcc x.crew.foot < specBlk w + fld w 12 8 + 1 then some .accBound else none)
    mqFull
    (fun s r x a => mqPush s r x (.aclr g spec mask) (leaderVal r a spec) .empty [] 0)

def execAscl (g : Guard) (spec mask a : Src) : State → Out :=
  crewWide (.ascl g spec mask a) g mask noCc (fun _ _ _ => 0)
    (fun _ r x l =>
      let w := leaderVal r l spec
      if footAcc x.crew.foot < specBlk w + fld w 12 8 + 1 then some .accBound else none)
    mqFull
    (fun s r x l => mqPush s r x (.ascl g spec mask a) (leaderVal r l spec)
      (x.named.foldl (fun t y => t.put y.lane (leaderVal r y a)) .empty)
      (x.named.map (·.lane)) 0)

/-- ACC_BOUND of `ard` and `awr` (R250). -/
def colTrap (k : Crew) (w : W32) (lg : BitVec 3) : Option Cause :=
  if footAcc k.foot ≤ specBlk w || 16 < fld w 11 8 + 2 ^ lg.toNat then some .accBound else none

/-- `ard` (R250): scoreboarded, its values written when the entry executes. The counter of
every crew of the batch rises (R66). -/
def execArd (g : Guard) (lg : BitVec 3) (d : Dst) (spec mask : Src) (s : State) : Out :=
  if (match s.runs with | r :: _ => sbFull s r | [] => false) then
    match s.runs with
    | r :: _ => .next (retryRun s r)
    | [] => .fault .noBatch
  else
    crewWide (.ard g lg d spec mask) g mask noCc (fun _ _ _ => 0)
      (fun _ r x a => colTrap x.crew (leaderVal r a spec) lg)
      mqFull
      (fun s r x a =>
        let (s, id) := freshId s r.core
        let fl := x.named.foldl (fun (t : Tab FLane) y =>
          let (reg, n) := loadRegs d (2 ^ lg.toNat)
          t.put y.lane { reg, n, size := 4, sx := false, data := 0, req := none, dead := [] }) .empty
        let s := s.mapCrew r.core x.slot fun k =>
          { k with sb := k.sb.put (r.pos % 8) (k.sb.getD (r.pos % 8) 0 + 1)
                   flights := k.flights ++ [{ id, sbi := r.pos % 8, lanes := fl, ready := false }] }
        mqPush s r x (.ard g lg d spec mask) (leaderVal r a spec) .empty
          (x.named.map (·.lane)) id) s

/-- The values that `awr` reads at issue (R250). -/
def awrVals (lg : BitVec 3) (a : Src) (r : Run) (l : List LaneCtx) : Tab W32 :=
  l.foldl (fun t y => (List.range (2 ^ lg.toNat)).foldl (fun t i =>
    t.put (16 * y.lane + i) (match a with
      | .reg b => regGet y.crew (b.toNat + i) y.lane
      | x => (srcVal y.crew r y.lane true x >>> (32 * i)).setWidth 32)) t) .empty

def execAwr (g : Guard) (lg : BitVec 3) (spec mask a : Src) : State → Out :=
  crewWide (.awr g lg spec mask a) g mask noCc (fun _ _ _ => 0)
    (fun _ r x l => colTrap x.crew (leaderVal r l spec) lg)
    mqFull
    (fun s r x l => mqPush s r x (.awr g lg spec mask a) (leaderVal r l spec)
      (awrVals lg a r x.named) (x.named.map (·.lane)) 0)

/-- MATRIX_QUEUE_ENTRY (R241): the oldest batch that waits for the full matrix queue takes its
entry once one is free. -/
def execMatrixQueueEntry (c : Nat) (s : State) : Out :=
  if 32 ≤ (s.core c).mq.length then .next s
  else
    match pickBy (fun (a b : Run) => a.asked < b.asked)
        (s.runs.filter fun r => r.core == c && r.hold == some .matrix) with
    | none => .next s
    | some r => .next { s with runs := { r with hold := none, due := s.now } :: s.runs.erase r }

/-! ### The current arbiter (R243) -/

/-- Whether a request fits under CAP. -/
def currentFits (cl : Cluster) (n : Nat) : Bool := fld cl.curcap 23 16 + n ≤ fld cl.curcap 7 0

/-- What a grant releases: the head of the matrix queue, a vector burst or a copy context. -/
def grantTo (s : State) (q : CurReq) : State :=
  match q.who with
  | 0 => s.mapCore q.core fun co => { co with mq := match co.mq with
      | e :: r => { e with units := q.units } :: r
      | [] => [] }
  | 1 =>
    match s.runs.find? fun r => r.core == q.core && r.hold == some .current with
    | some r => { s with runs := s.runs.map fun x =>
        if x == r then { x with hold := none, due := s.now + 1 } else x }
    | none => s
  | n + 2 => s.mapCore q.core fun co => { co with ctxs := match co.ctxs.get? n with
      | some x => co.ctxs.put n { x with granted := true }
      | none => co.ctxs }

/-- CURRENT_GRANT (R243): the oldest request is granted when USED plus its units fits CAP; no
later request passes it. -/
def execCurrentGrant (k : Nat) (s : State) : Out :=
  let cl := s.cluster k
  match cl.curQ with
  | [] => .next s
  | q :: rest =>
    if currentFits cl q.units then
      .next (grantTo (s.setCluster k
        { cl with curQ := rest, curcap := setFld cl.curcap 23 16 (fld cl.curcap 23 16 + q.units) }) q)
    else .next s

/-- A request that arrives in a cycle in which others arrived stands by physical core (R243). -/
def currentAsk (s : State) (c who units : Nat) : State :=
  let later := fun (q : CurReq) => q.at_ == s.now && decide (c < q.core)
  s.mapCluster (clusterOf c) fun cl =>
    { cl with curQ := (cl.curQ.filter fun q => !later q) ++
                { core := c, who, units, at_ := s.now } :: cl.curQ.filter later }

/-! ### Executing entries (R241, R242) -/

/-- The units of an entry (R242, R252). -/
def entryUnits (s : State) (c : Nat) (e : MEntry) : Nat :=
  (entryParts e).foldl (fun u p => match partRecs s c p with
    | some (_, a, b, _) =>
      max u ((fmtPair (recFmt a.desc) (recFmt b.desc)).map (·.2) |>.getD 0)
    | none => u) 0

/-- The time an entry takes (R242). -/
def entryTime (s : State) (c : Nat) (e : MEntry) : Nat :=
  match e.instr with
  | .aclr .. => (e.crews.map fun p => fld p.2 12 8 + 1).sum
  | .ascl .. =>
    (e.crews.map fun p => fld p.2 12 8 + 1 + 4 * ((s.crew? c p.1).map fun k =>
      cleanBlocks k (specBlocks p.2)).getD 0).sum
  | .ard .. => 4
  | .awr .. =>
    4 + (e.crews.map fun p => 4 * ((s.crew? c p.1).map fun k =>
      cleanBlocks k [specBlk p.2]).getD 0).sum
  | _ =>
    let mac := ((entryParts e).map fun p => match partRecs s c p with
      | some (_, a, b, _) => match fmtPair (recFmt a.desc) (recFmt b.desc) with
        | some (rate, _) => 4096 * (16 * (specNm1 p.2.1 + 1)) / rate
        | none => 0
      | none => 0).sum
    let copies := match entryParts e with
      | p :: _ => match partRecs s c p with
        | some (k, _, _, true) =>
          4 * cleanBlocks k ((List.range (specNm1 p.2.1 + 1)).map fun i => specBlk p.2.1 + i)
        | _ => 0
      | [] => 0
    8 + mac + copies

/-- Whether an entry is one of the matrix multiplications, which need records and current. -/
def isMma (e : MEntry) : Bool := (mmaRecs e.instr).isSome

/-- A recorded fill fault, or an array error in what the entry reads, raised at the entry's clause to
every live fibre of its crews (R178, R248, R252); a result that it was to give is in flight no more. -/
def faultEntry (s : State) (c : Nat) (e : MEntry) (cause : Cause) (sector : Nat) : State :=
  e.crews.foldl (fun s p =>
    let s := s.mapCrew c p.1 fun k => match k.flights.find? fun f => f.id == e.flight with
      | some f => { k with sb := k.sb.put f.sbi (k.sb.getD f.sbi 0 - 1)
                           flights := k.flights.filter fun x => x.id != f.id }
      | none => k
    let (clause, pos, next) := match e.join.find? fun j => j.slot == p.1 with
      | some j => (j.clause, 0, j.next)
      | none => (e.clause, e.pos, e.next)
    trapLive s c p.1 fun _ =>
      { cause, sub := 0, code := 0, clause, at_ := pos, res := clause, pos, lat := .empty
        next, data := BitVec.ofNat 64 sector, delivered := false, group := 0, was := none
        wr := false }) s

/-- A landing result moves the close point of its region (R208, R241). -/
def landIn (s : State) (c slot : Nat) : State := touchRegion s c slot

/-- MATRIX_ENTRY_EXECUTE (R241 to R243): the entry at the head requests its current once its
records are filled; granted, it reads its operands and runs. -/
def execMatrixEntryExecute (c : Nat) (s : State) : Out :=
  match (s.core c).mq with
  | [] => .next s
  | e :: rest =>
    let put := fun (s : State) (f : MEntry) => s.mapCore c fun co => { co with mq := f :: rest }
    let fail := fun (s : State) (cause : Cause) (sector : Nat) =>
        let s1 := faultEntry (s.mapCore c fun co => { co with mq := rest }) c e cause sector
        let s2 := if e.units ≠ 0 then returnUnits s1 (clusterOf c) e.units
          else if e.asked then s1.mapCluster (clusterOf c) fun cl =>
            { cl with curQ := cl.curQ.filter fun q => !(q.core == c && q.who == 0) }
          else s1
        e.crews.foldl (fun s p => landIn s c p.1) s2
    if e.ends.isSome || (isMma e && !entryReady s c e) then .next s
    else match (if isMma e then entryFault s c e else none), entryError s c e with
      | some cause, _ => .next (fail s cause 0)
      | none, (s, some sector) => .next (fail s .machineCheck sector)
      | none, (s, none) =>
        if !isMma e then .next (put s { e with ends := some (s.now + entryTime s c e * clockDiv s c) })
        else if !e.asked then
          .next (currentAsk (put s { e with asked := true }) c 0 (entryUnits s c e))
        else if e.units = 0 then .next s
        else
          let out := match e.crews with
            | p :: _ => [(p.1, mmaOut s c e)]
            | [] => []
          .next (put s { e with ends := some (s.now + entryTime s c e * clockDiv s c), out })

/-- The elements that `aclr`, `ascl` and `awr` write for a crew (R249, R250). -/
def smallOut (k : Crew) (e : MEntry) (w : W32) : List (Nat × W32) :=
  let nw := footNarrow k.foot
  match e.instr with
  | .aclr .. =>
    ((specBlocks w).map fun b => (List.range 1024).map fun i => (b * 1024 + i, (0 : W32))).flatten
  | .ascl .. =>
    ((specBlocks w).map fun b => (e.lanes.map fun l =>
      (List.range 16).map fun q =>
        let m := rowOf nw w l
        let v := FVal.mul (FTy.f32.decode (accGet k b m q).toNat)
          (FTy.f32.decode (e.vals.getD l 0).toNat)
        (accKey b m q, BitVec.ofNat 32 (FTy.f32.round .rn false v))).flatten).flatten
  | .awr _ lg .. =>
    (e.lanes.map fun l => (List.range (2 ^ lg.toNat)).map fun i =>
      (accKey (specBlk w) (rowOf nw w l) (fld w 11 8 + i), e.vals.getD (16 * l + i) 0)).flatten
  | _ => []

/-- The values that `ard` reads (R250), put into the flight of its issue. -/
def ardLand (k : Crew) (e : MEntry) (w : W32) : Crew :=
  match e.instr with
  | .ard _ lg .. =>
    let nw := footNarrow k.foot
    { k with flights := k.flights.map fun f =>
        if f.id = e.flight then
          { f with ready := true
                   lanes := f.lanes.mapKV fun l x =>
                     let v := (List.range (2 ^ lg.toNat)).foldr (fun i acc =>
                       (accGet k (specBlk w) (rowOf nw w l) (fld w 11 8 + i)).toNat + 2 ^ 32 * acc) 0
                     { x with data := BitVec.ofNat 512 v, size := 4 * 2 ^ lg.toNat } }
        else f }
  | _ => k

/-- MATRIX_ENTRY_COMPLETE (R242): the head entry writes its results, returns its units and
leaves the queue. -/
def execMatrixEntryComplete (c : Nat) (s : State) : Out :=
  match (s.core c).mq with
  | [] => .next s
  | e :: rest =>
    match e.ends with
    | none => .next s
    | some t =>
      if s.now < t then .next s
      else
        let s1 := s.mapCore c fun co => { co with mq := rest }
        let s2 := if isMma e then
            e.out.foldl (fun s p => s.mapCrew c p.1 fun k =>
              accWrite k (match e.instr with | .mmaz .. => false | _ => true) p.2) s1
          else e.crews.foldl (fun s p => s.mapCrew c p.1 fun k =>
            ardLand (accWrite k (match e.instr with | .aclr .. => false | _ => true)
              (smallOut k e p.2)) e p.2) s1
        let s3 := e.crews.foldl (fun s p => note (landIn s c p.1) c p.1 13 (isMma e).toNat) s2
        .next (if e.units ≠ 0 then returnUnits s3 (clusterOf c) e.units else s3)

/-! ### Gangs (R110, R251) -/

/-- The crew slots that `%gang` lists (R110). -/
def gangSlots (k : Crew) : List Nat :=
  (List.range (fld k.gang 34 32)).map fun i => fld k.gang (5 * i + 4) (5 * i)

/-- `%gang` of crew slots in rising order (R110). -/
def gangWord (l : List Nat) : W64 :=
  (List.range l.length).foldl (fun w i => setFld w (5 * i + 4) (5 * i) (l.getD i 0))
    (setFld (0 : W64) 34 32 l.length)

/-- The trap that withdraws a joint arrival (R252): every live fibre of the crew, at the
position where its batch holds. -/
def latchTrap (s : State) (c slot : Nat) (cause : Cause) : State :=
  match s.runs.find? fun r => r.core == c && r.fibres.any fun f => f.2 == slot with
  | some r => trapLive s c slot fun lane => batchTrap r lane cause 0 0
  | none => s

/-- The gang of a crew dissolves (R110, R251); joint arrivals that wait take GANG_STATE
(R252). -/
def dissolveGang (s : State) (c slot : Nat) : State :=
  match s.crew? c slot with
  | none => s
  | some k =>
    let l := gangSlots k
    let s1 := l.foldl (fun s x => s.mapCrew c x fun k => { k with gang := 0, gkeys := [] }) s
    (((s.core c).latchQ.filter fun a => l.contains a.slot).map (·.slot)).foldl
      (fun s x => latchTrap s c x .gangState) s1

def execGangLeave (g : Guard) (key mask : Src) : State → Out :=
  crewWide (.gangLeave g key mask) g mask noCc (fun _ _ _ => 0) (fun _ _ _ _ => none)
    (fun _ _ _ => none) (fun s r x _ => dissolveGang s r.core x.slot)

/-- The arrivals of a batch's crews that are not yet in a gang. -/
def gangWaits (c : BitVec 3) (key : Src) (s : State) (r : Run) (l : List (CrewCtx × LaneCtx)) :
    List GangArr :=
  (l.filter fun p => fld p.1.crew.gang 34 32 == 0).map fun p =>
    { slot := p.1.slot, c := c.toNat, key := leaderVal r p.2 key, at_ := s.now }

/-- `gang` (R251): a crew in a gang goes on when it names a count and key it had used; a crew
in none arrives and holds its batch. -/
def execGang (g : Guard) (c : BitVec 3) (key mask : Src) (s : State) : Out :=
  let chk := fun (_ : State) (r : Run) (x : CrewCtx) (a : LaneCtx) =>
    if fld x.crew.gang 34 32 = 0 then none
    else if x.crew.gkeys.contains (c.toNat, leaderVal r a key) then none
    else some Cause.gangState
  match crewWide (.gang g c key mask) g mask noCc (fun _ _ _ => 0) chk
      (fun s r l => if (gangWaits c key s r l).isEmpty then none else some .gang)
      (fun s _ _ _ => s) s, s.runs with
  | .next s1, r :: _ =>
    let held := s1.runs.getLast?.any fun q => q.hold == some .gang && q.clause == r.clause &&
      q.core == r.core
    if !held then .next s1
    else
      let cs := (crewsOf s1 r g mask).filterMap fun x => x.named.head?.map fun a => (x, a)
      let live := cs.filter fun p => s1.runs.getLast?.any fun q => q.slots.contains p.1.slot
      let add := fun (q : List GangArr) => (gangWaits c key s1 r live).foldl (fun l a =>
        if l.any fun b => b.slot == a.slot then l else l ++ [a]) q
      .next (s1.mapCore r.core fun co => { co with gangQ := add co.gangQ })
  | o, _ => o

/-- The c earliest arrivals with one key and count, of one launch (R251). -/
def gangMatch (s : State) (c : Nat) : Option (List GangArr) :=
  let q := (s.core c).gangQ
  q.findSome? fun a =>
    let tenant := (s.crew? c a.slot).map (·.tenant)
    let l := q.filter fun b => b.c == a.c && b.key == a.key &&
      (s.crew? c b.slot).map (·.tenant) == tenant
    if l.length < a.c then none
    else
      let rec sorted : Nat → List GangArr → List GangArr
        | 0, _ => []
        | n + 1, l =>
          match pickBy (fun (x y : GangArr) =>
              decide (x.at_ < y.at_) || (x.at_ == y.at_ && decide (x.slot < y.slot))) l with
          | some x => x :: sorted n (l.erase x)
          | none => []
      some (sorted a.c l)

/-- The holds of a core's batches that wait for a gang and whose crews wait no more. -/
def wakeGangs (s : State) (c : Nat) : State :=
  { s with runs := s.runs.map fun r =>
      if r.core == c && r.hold == some .gang &&
          !r.slots.any (fun x => (s.core c).gangQ.any fun a => a.slot == x) then
        { r with hold := none, due := s.now }
      else r }

/-- GANG_FORM (R251): crews whose arrivals carry the same key and count form a gang. -/
def execGangForm (c : Nat) (s : State) : Out :=
  match gangMatch s c with
  | none => .next s
  | some l =>
    let slots := l.foldl (fun t a => insertNat a.slot t) []
    let w := gangWord slots
    let s1 := l.foldl (fun s a => s.mapCrew c a.slot fun k =>
      { k with gang := w, gkeys := k.gkeys ++ [(a.c, a.key)] }) s
    .next (wakeGangs (s1.mapCore c fun co =>
      { co with gangQ := co.gangQ.filter fun a => !slots.contains a.slot }) c)

/-- GANG_TIMEOUT (R251, R252): an arrival held longer than FECTL.GATHER is withdrawn, and its
crew takes GANG_TIMEOUT at the position where its batch holds. -/
def execGangTimeout (c slot : Nat) (s : State) : Out :=
  let co := s.core c
  let old := fun (a : GangArr) => a.slot == slot && decide (a.at_ + fld co.fectlNow 31 16 * clockDiv s c < s.now)
  if co.gangQ.any old then .next (wakeGangs (latchTrap s c slot .gangTimeout) c)
  else if co.latchQ.any old then
    -- every arrived crew of the gang takes it (R252)
    let l := ((s.crew? c slot).map gangSlots).getD []
    let missing := l.any fun x => !co.latchQ.any fun a => a.slot == x
    if missing then
      .next ((l.filter fun x => co.latchQ.any fun a => a.slot == x).foldl
        (fun s x => latchTrap s c x .gangTimeout) s)
    else .next s
  else .next s

/-! ### The joint mma (R252, R253) -/

/-- A clause issues for some crews of a joint batch that bring no arrival (R244, R423): one that has
no region opens its own, and the charge of the whole clause is taken. -/
def jointPass (s : State) (r : Run) (slots : List Nat) : State :=
  let (ib, mb) := fixedCharge r.words 0
  slots.foldl (fun s x =>
    let s1 := if (s.crew? r.core x).any fun k => k.region.isNone then
        openRegion s r.core x (r.lanesOf x) r.clause (hdrCommit r.hdr) []
      else touchRegion s r.core x
    (chargeCrew s1 r.core x (ib + 4) mb).mapCrew r.core x fun k =>
      { k with region := k.region.map fun g => { g with redo := [] } }) s

/-- A batch past its joint `mma`, with some of its crews. -/
def pastJoint (now cc : Nat) (slots : List Nat) (r : Run) : Run :=
  { r with fibres := r.fibres.filter fun p => slots.contains p.2
           hold := none, pos := 1, due := now + (if r.words.length = 1 then 4 else 1) * cc, taken := false }

/-- The joint `mma` (R252): the crews with a named active fibre arrive, and hold in the latch; their
regions are not touched, since the clause waits at its issue (R208, R423). The others of the batch
take the charge and go on (R244). -/
def execMmaJoint (g : Guard) (ra rb : BitVec 4) (spec mask : Src) (s : State) : Out :=
  match s.runs with
  | [] => .fault .noBatch
  | r :: _ =>
    if interlocked s r (regsOf (r.narrow s) (.mmaJoint g ra rb spec mask)) then .next (retryRun s r)
    else
      let cs := crewsOf s r g mask
      let bad := cs.filterMap fun x =>
        match x.cause with
        | some e => some (x.slot, e)
        | none => match x.named with
          | [] => none
          | a :: _ =>
            (mmaTrap s r.core x.crew true ra rb (leaderVal r a spec)).map fun e => (x.slot, e)
      let (s1, r1) := bad.foldl (fun (p : State × Run) x => trapCrewAt p.1 p.2 x.1 x.2 0) (s, r)
      let ok := (cs.filter fun x => !bad.any fun b => b.1 == x.slot).filterMap fun x =>
        x.named.head?.map fun a => (x, a)
      let into := ok.map (·.1.slot)
      let rest := r1.slots.filter fun x => !into.contains x
      let s2 := jointPass { s1 with runs := s1.runs.tail } r1 rest
      let held := { r1 with fibres := r1.fibres.filter fun p => into.contains p.2
                            taken := true, hold := some .latch, asked := s2.now }
      let runs := (if into.isEmpty then [] else [held]) ++
        (if rest.isEmpty then [] else [pastJoint s2.now (clockDiv s2 r.core) rest r1])
      let s3 := { s2 with runs := s2.runs ++ runs }
      let s4 := s3.mapCore r.core fun co => { co with latchQ := ok.foldl (fun l p =>
        if l.any fun b => b.slot == p.1.slot then l
        else l ++ [{ slot := p.1.slot, c := specNm1 (leaderVal r p.2 spec)
                     key := leaderVal r p.2 spec, at_ := s3.now : GangArr }]) co.latchQ }
      .next (if runs.isEmpty then endBurst s4 r1 else s4)

/-- The batch of a crew that holds in the latch. -/
def latchRun (s : State) (c slot : Nat) : Option Run :=
  s.runs.find? fun r => r.core == c && r.hold == some .latch && r.slots.contains slot

/-- Whether the latch of a gang may release: every listed crew has arrived and its previous
region has cleared with its queue entries done (R252, R423); a restarted region is the one that
this clause opened. -/
def latchReady (s : State) (c : Nat) (l : List Nat) : Bool :=
  l.all fun x => (s.core c).latchQ.any (fun a => a.slot == x) &&
    ((s.crew? c x).any fun k => k.region.all fun g => !g.redo.isEmpty) &&
    !inMatrixQueue (s.core c) x && (latchRun s c x).isSome

/-- A batch that holds in the latch, parted into the crews that go on and those that stay. -/
def splitLatch (now cc c : Nat) (l : List Nat) (r : Run) : List Run :=
  if r.core == c && r.hold == some .latch && r.slots.any l.contains then
    let stay := { r with fibres := r.fibres.filter fun p => !l.contains p.2 }
    pastJoint now cc l r :: (if stay.fibres.isEmpty then [] else [stay])
  else [r]

/-- JOINT_LATCH_RELEASE (R252): the regions of every listed crew open linked, the fixed charges
of the whole clause are taken from each, and one joint entry joins the queue; crews that name
different NM1 take GANG_MISMATCH. -/
def execJointLatchRelease (c : Nat) (s : State) : Out :=
  let co := s.core c
  let cand := co.latchQ.findSome? fun a =>
    match (s.crew? c a.slot).map gangSlots with
    | some l =>
      if l.all fun x => co.latchQ.any fun b => b.slot == x then some l else none
    | none => none
  match cand with
  | none => .next s
  | some l =>
    let arr := l.filterMap fun x => co.latchQ.find? fun a => a.slot == x
    if arr.any fun a => a.c != (arr.head?.map (·.c)).getD 0 then
      .next (l.foldl (fun s x => latchTrap s c x .gangMismatch) s)
    else if !latchReady s c l || 32 ≤ co.mq.length then .next s
    else
      let parts := l.filterMap fun x => (latchRun s c x).map fun r => (x, r)
      let s1 := parts.foldl (fun s (x, r) =>
        let s := if ((s.crew? c x).any fun k => k.region.isNone) then
            openRegion s c x (r.lanesOf x) r.clause false l
          else s
        let s := s.mapCrew c x fun k => { k with region := k.region.map fun g => { g with redo := [] } }
        let (ib, mb) := fixedCharge r.words 0
        chargeCrew s c x (ib + 4) mb) s
      let (s2, id) := freshId s1 c
      let first := parts.head?.map (·.2)
      let e : MEntry :=
        { id, instr := ((first.bind fun r => wordAt r.words 0)).getD
            (.mmaJoint ⟨false, false, 0⟩ 0 0 .zero .zero)
          clause := (first.map (·.clause)).getD 0, pos := 0
          next := (first.map fun r => nextClause r.clause r.hdr).getD 0
          crews := arr.map fun a => (a.slot, a.key), vals := .empty, lanes := [], flight := 0
          asked := false, units := 0, ends := none, out := []
          join := parts.map fun (x, r) =>
            { slot := x, clause := r.clause, next := nextClause r.clause r.hdr
              instr := (wordAt r.words 0).getD (.mmaJoint ⟨false, false, 0⟩ 0 0 .zero .zero) } }
      let s3 := s2.mapCore c fun co =>
        { co with mq := co.mq ++ [e], latchQ := co.latchQ.filter fun a => !l.contains a.slot }
      .next { s3 with runs := s3.runs.flatMap (splitLatch s.now (clockDiv s c) c l) }

end Sys2Proof.Machine
end

