-- ==== Sys2Proof/Machine/Copy.lean ====
section
/-! DEFINITION. Copy contexts, graph nodes and streams as their crew names them: handles (R254),
descriptors and records (R256 to R258, R268), and 0x180 to 0x199 (R274 to R283). -/
namespace Sys2Proof.Machine
open Sys2Proof

/-! ### Handles (R254) -/

/-- The tenant and the number by which the stream engine knows a crew. -/
def crewId (k : Crew) : Nat × BitVec 32 := (k.tenant, k.number)

/-- The key of a generation counter. -/
def genKey (kind idx : Nat) : Nat := kind * 256 + idx
def genOf (k : Crew) (kind idx : Nat) : BitVec 16 := k.gens.getD (genKey kind idx) 0

/-- The handle of an index of a crew (R254). -/
def handleOf (k : Crew) (kind idx : Nat) : W32 :=
  BitVec.ofNat 32 (kind * 2 ^ 30 + idx * 65536 + (genOf k kind idx).toNat)

def hKind (h : W32) : Nat := fld h 31 30
def hIdx (h : W32) : Nat := fld h 23 16
def hGen (h : W32) : BitVec 16 := h.extractLsb' 0 16

/-- The indexes of a kind: contexts, nodes, streams; kind 3 has none (R254). -/
def hRange : Nat → Nat
  | 0 => 64
  | 1 => 128
  | 2 => 8
  | _ => 0

/-- A context of a crew by its index, with its pool number. -/
def ctxOf (co : Core) (who : Nat × BitVec 32) (idx : Nat) : Option (Nat × Ctx) :=
  co.ctxs.cells.find? fun p => p.2.who == who && p.2.idx == idx
/-- A node of a crew by its index, with its place in the table. -/
def nodeOf (co : Core) (who : Nat × BitVec 32) (idx : Nat) : Option (Nat × Node) :=
  co.nodes.cells.find? fun p => p.2.who == who && p.2.idx == idx
/-- A stream of a crew by its index, with its key. -/
def streamOf (co : Core) (who : Nat × BitVec 32) (idx : Nat) : Option (Nat × Stream) :=
  co.streams.cells.find? fun p => p.2.who == who && p.2.idx == idx

/-- The indexes of a kind that a crew uses. -/
def usedIdx (co : Core) (who : Nat × BitVec 32) (kind : Nat) : List Nat :=
  match kind with
  | 0 => (co.ctxs.vals.filter fun x => x.who == who).map (·.idx)
  | 1 => (co.nodes.vals.filter fun x => x.who == who).map (·.idx)
  | _ => (co.streams.vals.filter fun x => x.who == who).map (·.idx)

/-- The lowest free index of a kind. -/
def freeIdx (co : Core) (who : Nat × BitVec 32) (kind : Nat) : Option Nat :=
  (List.range (hRange kind)).find? fun i => !(usedIdx co who kind).contains i

/-- The lowest number that a table does not hold, below a limit. -/
def freeKey {α : Type} (t : Tab α) (n : Nat) : Option Nat :=
  (List.range n).find? fun i => (t.get? i).isNone

/-- Whether a handle names an index of a kind that is in use with its generation (R254). -/
def handleGood (co : Core) (k : Crew) (kind : Nat) (h : W32) : Bool :=
  hKind h == kind && fld h 29 24 == 0 && decide (hIdx h < hRange kind) &&
    hGen h == genOf k kind (hIdx h) && (usedIdx co (crewId k) kind).contains (hIdx h)

/-- The crew slot of a crew on a core, by tenant and number. -/
def slotOf (co : Core) (who : Nat × BitVec 32) : Option (Nat × Crew) :=
  co.crews.cells.find? fun p => crewId p.2 == who

/-- A crew as the engine of a core knows it: resident, or evicted from the core while its
contexts, streams and nodes run on (R265, R369). -/
def ownerOf (co : Core) (who : Nat × BitVec 32) : Option Crew :=
  match slotOf co who with
  | some (_, k) => some k
  | none => (co.evicted.find? fun e => crewId e.crew == who).map (·.crew)

/-- An evicted crew changed, with the scratchpad bytes that the change wrote. -/
def Evicted.change (f : Crew → Crew) (e : Evicted) : Evicted :=
  let k := f e.crew
  let new := k.scratch.keep fun a b => e.crew.scratch.getD a 0 != b
  { e with crew := k, late := new.cells.foldl (fun t p => t.put p.1 p.2) e.late }

/-- A crew changed where the engine of a core finds it. -/
def mapOwner (s : State) (c : Nat) (who : Nat × BitVec 32) (f : Crew → Crew) : State :=
  match slotOf (s.core c) who with
  | some (slot, _) => s.mapCrew c slot f
  | none =>
    let one := fun (e : Evicted) => if crewId e.crew == who then e.change f else e
    s.mapCore c fun co =>
      { co with evicted := co.evicted.map one
                ghosts := co.ghosts.map fun k => if crewId k == who then f k else k }

/-- A crew as its commands read its scratchpad and its queues: an ended crew stands here until the
last of them is gone (R265, R273; log entry 72). -/
def sourceOf (co : Core) (who : Nat × BitVec 32) : Option Crew :=
  (ownerOf co who).or (co.ghosts.find? fun k => crewId k == who)

/-- A used index is freed: its generation rises (R254). -/
def raiseGen (s : State) (c : Nat) (who : Nat × BitVec 32) (kind idx : Nat) : State :=
  mapOwner s c who fun k =>
    { k with gens := k.gens.put (genKey kind idx) (genOf k kind idx + 1) }

/-! ### Descriptors and records (R256 to R258, R268, R274) -/

/-- A byte of the crew's scratchpad: its newest uncleared lodge byte, or the store's (R238,
R274). -/
def scrByte (s : State) (c slot : Nat) (k : Crew) (a : Nat) : Byte :=
  (lodgeByte (s.core c) slot (chipPa c (k.sbase + a))).getD (k.scratch.getD a 0)

/-- Words of the crew's scratchpad from an offset. -/
def scrWords (s : State) (c slot : Nat) (k : Crew) (a n : Nat) : List W64 :=
  (List.range n).map fun i => BitVec.ofNat 64
    (ofBytes ((List.range 8).map fun j => scrByte s c slot k (a + 8 * i + j)))

/-- The checks of an offset that names a record of n bytes (R274). -/
def recordAt (k : Crew) (a align n : Nat) : Option Cause :=
  if a % align ≠ 0 then some .alignment
  else if scratchBytes k.foot < a + n then some .scratchBound
  else none

/-- One side of a copy: its space and its address or offset. -/
structure Side where
  space : Nat
  base : Nat
deriving DecidableEq, Repr

/-- The signed value of a half of a word. -/
def half (w : W64) (hi : Bool) : Int := sextNat 32 (if hi then fld w 63 32 else fld w 31 0)

/-- A copy as the engine runs it: element size, extents and strides (R256, R257). A plain copy
has elements of one byte in one dimension. -/
structure Geom where
  esize : Nat
  e : List Nat
  sstr : List Int
  dstr : List Int
  src : Side
  dst : Side
deriving DecidableEq, Repr

def wordOf (ws : List W64) (i : Nat) : W64 := ws.getD i 0

/-- The geometry of a descriptor (R256) or of a tensor layout record (R257). -/
def geomOf (tensor : Bool) (ws : List W64) : Geom :=
  let side := fun i => (⟨fld (wordOf ws i) 57 56, fld (wordOf ws i) 55 0⟩ : Side)
  if tensor then
    let nd := fld (wordOf ws 2) 4 3
    let ext := fun i => if i ≤ nd then fld (wordOf ws 4) (16 * i + 15) (16 * i) else 1
    { esize := 2 ^ fld (wordOf ws 2) 2 0
      e := [ext 0, ext 1, ext 2, ext 3]
      sstr := [half (wordOf ws 5) false, half (wordOf ws 5) true, half (wordOf ws 6) false]
      dstr := [half (wordOf ws 7) false, half (wordOf ws 7) true, half (wordOf ws 6) true]
      src := side 0, dst := side 1 }
  else
    { esize := 1, e := [fld (wordOf ws 2) 39 0, 1, 1, 1], sstr := [0, 0, 0], dstr := [0, 0, 0]
      src := side 0, dst := side 1 }

/-- Elements of a copy, and its bytes T (R257). -/
def Geom.count (g : Geom) : Nat := g.e.foldl (· * ·) 1
def Geom.bytes (g : Geom) : Nat := g.count * g.esize

/-- The offset of element n from a side's base (R257). -/
def Geom.offset (g : Geom) (str : List Int) (n : Nat) : Int :=
  let e0 := g.e.getD 0 1
  let e1 := g.e.getD 1 1
  let e2 := g.e.getD 2 1
  (n % e0 * g.esize : Nat) + (n / e0 % e1 : Nat) * str.getD 0 0 +
    (n / e0 / e1 % e2 : Nat) * str.getD 1 0 + (n / e0 / e1 / e2 : Nat) * str.getD 2 0

/-- The lowest and one past the highest byte of a side, from its base (R257). -/
def Geom.extent (g : Geom) (str : List Int) : Int × Int :=
  let term := fun i => ((g.e.getD (i + 1) 1 - 1 : Nat) : Int) * str.getD i 0
  let lo := (List.range 3).foldl (fun a i => a + min 0 (term i)) 0
  let hi := (List.range 3).foldl (fun a i => a + max 0 (term i)) 0
  (lo, hi + (g.e.getD 0 1 * g.esize : Nat))

/-- Whether a place operand is zero. -/
def placeZero (p : PlaceOp) : Bool := p.dx == 0 && p.dy == 0 && p.dd == 0

/-- FORMAT for one side (R256). -/
def sideBad (w : W64) : Bool :=
  fld w 63 58 != 0 || fld w 57 56 == 3 || (fld w 57 56 == 1 && fld w 55 32 != 0)

/-- What R256 and R257 refuse with FORMAT. -/
def copyBad (tensor : Bool) (ws : List W64) (pl : PlaceOp) : Bool :=
  let w2 := wordOf ws 2
  let w3 := wordOf ws 3
  let w4 := wordOf ws 4
  sideBad (wordOf ws 0) || sideBad (wordOf ws 1) ||
    fld w2 63 52 != 0 || fld w2 43 40 != 0 || fld w3 63 56 != 0 ||
    decide (5 < fld w2 51 49) || decide (5 < fld w2 47 45) ||
    ((bit w2 48 || bit w2 44) && fld w3 2 0 != 0) ||
    (if tensor then
      fld w2 39 5 != 0 || decide (4 < fld w2 2 0) ||
        (List.range (fld w2 4 3 + 1)).any fun i => fld w4 (16 * i + 15) (16 * i) == 0
     else fld w2 39 0 == 0) ||
    (fld (wordOf ws 0) 57 56 != 2 && fld (wordOf ws 1) 57 56 != 2 && !placeZero pl)

/-- SCRATCH_BOUND for the side of a copy in space 1. -/
def sideBound (k : Crew) (x : Side) (ext : Int × Int) : Bool :=
  x.space == 1 && (decide ((x.base : Int) + ext.1 < 0) ||
    decide ((scratchBytes k.foot : Int) < x.base + ext.2))

/-- Whether two ranges of bytes overlap: addresses of the global space wrap (R258). -/
def rangesMeet (global : Bool) (a n b m : Int) : Bool :=
  if global then
    let w : Int := ((2 ^ 56 : Nat) : Int)
    decide ((b - a) % w < n) || decide ((a - b) % w < m)
  else decide (a < b + m) && decide (b < a + n)

/-- COPY_OVERLAP (R258). -/
def copyMeets (g : Geom) : Bool :=
  let se := g.extent g.sstr
  let de := g.extent g.dstr
  g.src.space == g.dst.space &&
    rangesMeet (g.src.space == 0) (g.src.base + se.1) (se.2 - se.1) (g.dst.base + de.1)
      (de.2 - de.1)

/-- The checks of R276, steps 4 to 6, on a descriptor that passed FORMAT. -/
def copyTrap (s : State) (c slot : Nat) (k : Crew) (tensor : Bool) (ws : List W64)
    (pl : PlaceOp) : Option Cause :=
  let g := geomOf tensor ws
  let win := g.src.space == 2 || g.dst.space == 2
  if sideBound k g.src (g.extent g.sstr) || sideBound k g.dst (g.extent g.dstr) then
    some .scratchBound
  else match (if win then placeResolve s c slot k pl else .ok (0, 0)) with
    | .error e => some e
    | .ok _ =>
      if (g.src.space == 2 && 0x200000 ≤ g.src.base) ||
          (g.dst.space == 2 && 0x200000 ≤ g.dst.base) then some .windowUnowned
      else if copyMeets g then some .copyOverlap
      else none

/-- C(n) of R275. -/
def sectorsOf (n : Nat) : Nat := ceilDiv n 64

/-- The `%mb` charge of a copy: each side in space 0 or 2, and each flag (R275). -/
def copyCharge (tensor : Bool) (ws : List W64) : Nat :=
  let g := geomOf tensor ws
  let n := sectorsOf g.bytes
  (if g.src.space = 1 then 0 else n) + (if g.dst.space = 1 then 0 else n) +
    (bit (wordOf ws 2) 48).toNat + (bit (wordOf ws 2) 44).toNat

/-- The fibre whose offset a charge is computed from: the leader, or the lowest named fibre
where none is active (R275). -/
def chargeLane (x : CrewCtx) : Option LaneCtx :=
  match x.named with
  | a :: _ => some a
  | [] => (x.lanes.filter fun y => bit x.mask y.lane).head?

/-- The charge computed from a record, 0 where it is misaligned, outside the scratchpad or in
breach of its table (R275). -/
def recordCharge (off : Src) (align n : Nat) (bad : List W64 → Bool) (f : List W64 → Nat)
    (s : State) (r : Run) (x : CrewCtx) : Nat :=
  match chargeLane x with
  | none => 0
  | some a =>
    let o := (leaderVal r a off).toNat
    match recordAt x.crew o align n with
    | some _ => 0
    | none =>
      let ws := scrWords s r.core x.slot x.crew o (n / 8)
      if bad ws then 0 else f ws

/-- The result of a crew-wide instruction written to every named active fibre (R274). -/
def writeNamed (s : State) (r : Run) (x : CrewCtx) (d : Dst) (w : W32) : State :=
  match d with
  | .reg b => writeLanes s r.core b.toNat 1 (x.named.map fun y => (y, w.toNat))
  | _ => s

/-- The cycles of the granule copies of such a write (R102). -/
def namedCc (l : List (CrewCtx × LaneCtx)) (d : Dst) : Nat :=
  match d with
  | .reg b => renameCc (l.map fun p => p.1.named).flatten b.toNat 1
  | _ => 0

/-- The region sequence that a command of a crew carries (R263): the open region's. -/
def commandSeq (k : Crew) : Option (BitVec 16) := k.region.map fun _ => k.rseq

/-! ### cpy and cpy.t (R276) -/

/-- A new context (R255). -/
def newCtx (s : State) (slot : Nat) (k : Crew) (idx : Nat) (nw tensor : Bool) (ws : List W64)
    (place : Nat) (own : Bool) (node : Option Nat) (after id : Nat) : Ctx :=
  { slot, idx, state := 1, cause := none, nw, tensor, desc := ws, place, own
    rseq := if own then commandSeq k else none, next := 0, acqDone := false, relStaged := false
    wsig := 0, wsatd := false, granted := false, asked := false, node, id
    fenceId := if own then k.fenceId else 0, after, tctx := tctxOf s slot k, who := crewId k }

/-- The place number of a copy (R276); zero where no side is a window. -/
def copyPlace (s : State) (c slot : Nat) (k : Crew) (pl : PlaceOp) : Nat :=
  match placeResolve s c slot k pl with
  | .ok (n, _) => n
  | .error _ => 0

/-- Whether the crews of a batch lack a pool entry or an index (R255). -/
def ctxShort (s : State) (r : Run) (l : List (CrewCtx × LaneCtx)) : Option Hold :=
  let co := s.core r.core
  let pool := ((List.range 256).filter fun i => (co.ctxs.get? i).isNone).length
  if pool < l.length || l.any (fun p => (freeIdx co (crewId p.1.crew) 0).isNone) then some .context
  else none

def copyOp (i : Instr) (g : Guard) (tensor nw : Bool) (d : Dst) (off mask : Src) (pl : PlaceOp) :
    State → Out :=
  let n := if tensor then 64 else 32
  let align := if tensor then 64 else 16
  crewWide i g mask (fun _ _ l => (if tensor then 4 else 2) + namedCc l d)
    (recordCharge off align n (fun ws => copyBad tensor ws pl) (copyCharge tensor))
    (fun s r x a =>
      let o := (leaderVal r a off).toNat
      match recordAt x.crew o align n with
      | some e => some e
      | none =>
        let ws := scrWords s r.core x.slot x.crew o (n / 8)
        if copyBad tensor ws pl then some .format
        else copyTrap s r.core x.slot x.crew tensor ws pl)
    ctxShort
    (fun s r x a =>
      let ws := scrWords s r.core x.slot x.crew (leaderVal r a off).toNat (n / 8)
      match s.crew? r.core x.slot with
      | none => s
      | some k =>
        let idx := (freeIdx (s.core r.core) (crewId k) 0).getD 0
        let pool := (freeKey (s.core r.core).ctxs 256).getD 0
        let (s1, id) := freshId s r.core
        let ctx := newCtx s1 x.slot k idx nw tensor ws
          (copyPlace s r.core x.slot k pl) true none (s.now + (if tensor then 4 else 2) * clockDiv s r.core) id
        writeNamed (s1.mapCore r.core fun co => { co with ctxs := co.ctxs.put pool ctx }) r x d
          (handleOf k 0 idx))

def execCpy (g : Guard) (nw : Bool) (d : Dst) (off mask : Src) (pl : PlaceOp) : State → Out :=
  copyOp (.cpy g nw d off mask pl) g false nw d off mask pl
def execCpyT (g : Guard) (nw : Bool) (d : Dst) (off mask : Src) (pl : PlaceOp) : State → Out :=
  copyOp (.cpyT g nw d off mask pl) g true nw d off mask pl

/-- CONTEXT_ALLOCATE (R255, R267): contexts that moved here without an entry take free ones in
ascending crew index; then the oldest batch that waits for a context tries again. -/
def execContextAllocate (c : Nat) (s : State) : Out :=
  let co := s.core c
  match freeKey co.ctxs 256 with
  | none => .next s
  | some p =>
    match pickBy (fun (a b : Nat × Ctx) => a.2.idx < b.2.idx)
        (co.ctxs.cells.filter fun x => decide (256 ≤ x.1)) with
    | some (q, x) => .next (s.setCore c { co with ctxs := (co.ctxs.del q).put p x })
    | none =>
      match pickBy (fun (a b : Run) => a.asked < b.asked)
          (s.runs.filter fun r => r.core == c && r.hold == some .context) with
      | none => .next s
      | some r => .next { s with runs := { r with hold := none, due := s.now } :: s.runs.erase r }

/-! ### cwait (R277) -/

/-- The status of a handle: HANDLE_STATE, none while its object is not final, or the status
word. -/
def handleStatus (co : Core) (k : Crew) (h : W32) : Except Cause (Option Nat) :=
  let who := crewId k
  if 2 < hKind h ∨ fld h 29 24 ≠ 0 ∨ hRange (hKind h) ≤ hIdx h then .error .handleState
  else if hGen h ≠ genOf k (hKind h) (hIdx h) then .ok (some 1)
  else
    let faulted := fun (e : Option Cause) => 2 + 256 * ((e.map Cause.code).getD 0)
    match hKind h with
    | 0 => match ctxOf co who (hIdx h) with
      | none => .error .handleState
      | some (_, x) =>
        .ok (if x.state = 2 then some 0 else if x.state = 4 then some (faulted x.cause) else none)
    | 1 => match nodeOf co who (hIdx h) with
      | none => .error .handleState
      | some (_, x) =>
        .ok (if x.state = 4 then some 0 else if x.state = 5 then some (faulted x.cause) else none)
    | _ => match streamOf co who (hIdx h) with
      | none => .error .handleState
      | some (_, x) =>
        .ok (match x.state with
          | 2 => some 0
          | 4 => some (faulted x.cause)
          | 5 => some 3
          | _ => none)

/-- Whether the handle of a crew's leader is not final yet, which keeps a `cwait` without POLL
at issue. -/
def cwaitBusy (g : Guard) (h mask : Src) (s : State) : Bool :=
  match s.runs with
  | [] => false
  | r :: _ => (crewsOf s r g mask).any fun x =>
      x.cause.isNone && match x.named with
        | [] => false
        | a :: _ => match handleStatus (s.core r.core) x.crew (leaderVal r a h) with
          | .ok none => true
          | _ => false

/-- `cwait` (R277): a final handle other than that of an `.nw` context is freed at the clear of
the region that the instruction opened. -/
def execCwait (g : Guard) (poll : Bool) (d : Dst) (h mask : Src) : State → Out :=
  whenFree (fun s => !poll && cwaitBusy g h mask s) <|
    crewWide (.cwait g poll d h mask) g mask (fun _ _ l => namedCc l d) (fun _ _ _ => 0)
      (fun s r x a =>
        match handleStatus (s.core r.core) x.crew (leaderVal r a h) with
        | .error e => some e
        | .ok _ => none)
      (fun _ _ _ => none)
      (fun s r x a =>
        let v := leaderVal r a h
        let st := match handleStatus (s.core r.core) x.crew v with
          | .ok o => o
          | .error _ => none
        let nw := hKind v == 0 && ((ctxOf (s.core r.core) (crewId x.crew) (hIdx v)).any
          fun p => p.2.nw)
        let s1 := writeNamed s r x d (BitVec.ofNat 32 (st.getD 0xFF))
        if st.isNone || st = some 1 || nw then s1
        else s1.mapCrew r.core x.slot fun k =>
          { k with region := k.region.map fun q =>
              { q with freed := q.freed ++ [(hKind v, hIdx v)] } })

/-! ### node, nlink, narm (R278 to R280) -/

/-- Payload alignment and size of a node kind (R271, R278). -/
def nodeAlign (kind : Nat) : Nat := if kind = 1 then 64 else 16
def nodeBytes : Nat → Nat
  | 0 => 32
  | 1 => 64
  | _ => 16

/-- FORMAT on a payload (R271, R278). -/
def nodeBad (kind : Nat) (ws : List W64) : Bool :=
  match kind with
  | 0 => copyBad false ws ⟨0, 0, 0⟩
  | 1 => copyBad true ws ⟨0, 0, 0⟩
  | 2 => fld (wordOf ws 0) 63 56 != 0 || fld (wordOf ws 0) 5 0 != 0 || wordOf ws 1 != 0
  | _ => fld (wordOf ws 0) 63 56 != 0 || fld (wordOf ws 0) 2 0 != 0 ||
      decide (5 < fld (wordOf ws 1) 2 0) || fld (wordOf ws 1) 63 3 != 0

/-- The part of a node's charge that its payload gives (R275). -/
def nodeCharge (kind : Nat) (ws : List W64) : Nat :=
  match kind with
  | 0 => copyCharge false ws
  | 1 => copyCharge true ws
  | _ => 0

/-- Nodes that a crew owns. -/
def nodesOwned (co : Core) (k : Crew) : Nat := (usedIdx co (crewId k) 1).length

def execNode (g : Guard) (kind : BitVec 2) (keep : Bool) (d : Dst) (off mask : Src) :
    State → Out :=
  let kd := kind.toNat
  let n := nodeBytes kd
  crewWide (.node g kind keep d off mask) g mask
    (fun _ _ l => (if kd = 0 then 2 else if kd = 1 then 4 else 1) + namedCc l d)
    (recordCharge off (nodeAlign kd) n (nodeBad kd) (nodeCharge kd))
    (fun s r x a =>
      let o := (leaderVal r a off).toNat
      match recordAt x.crew o (nodeAlign kd) n with
      | some e => some e
      | none =>
        if nodeBad kd (scrWords s r.core x.slot x.crew o (n / 8)) then some .format
        else if 128 ≤ nodesOwned (s.core r.core) x.crew then some .graphLimit
        else none)
    (fun s r l =>
      if ((List.range 512).filter fun i => ((s.core r.core).nodes.get? i).isNone).length < l.length
      then some .nodeTable else none)
    (fun s r x a =>
      match s.crew? r.core x.slot with
      | none => s
      | some k =>
        let co := s.core r.core
        let idx := (freeIdx co (crewId k) 1).getD 0
        let nd : Node :=
          { state := 1, kind := kd, keep, pred := 0, succ := [], slot := x.slot, idx, cause := none
            gen := genOf k 1 idx
            payload := scrWords s r.core x.slot k (leaderVal r a off).toNat (n / 8)
            armSeq := none, bornSeq := commandSeq k, links := [], ctx := none, fin := false
            orphan := false, tctx := tctxOf s x.slot k, who := crewId k }
        writeNamed (s.setCore r.core
          { co with nodes := co.nodes.put ((freeKey co.nodes 512).getD 0) nd }) r x d
          (handleOf k 1 idx))

/-- NODE_TABLE_ENTRY (R278): the oldest batch that waits for a free node table entry tries
again once one is free. -/
def execNodeTableEntry (c : Nat) (s : State) : Out :=
  match freeKey (s.core c).nodes 512 with
  | none => .next s
  | some _ =>
    match pickBy (fun (a b : Run) => a.asked < b.asked)
        (s.runs.filter fun r => r.core == c && r.hold == some .nodeTable) with
    | none => .next s
    | some r => .next { s with runs := { r with hold := none, due := s.now } :: s.runs.erase r }

/-- A node of a crew that a handle names, if it is in state 1 (R279, R280). -/
def building (co : Core) (k : Crew) (h : W32) : Option (Nat × Node) :=
  if handleGood co k 1 h then
    (nodeOf co (crewId k) (hIdx h)).filter fun p => p.2.state == 1
  else none

def execNlink (g : Guard) (from_ mask to_ : Src) : State → Out :=
  crewWide (.nlink g from_ mask to_) g mask noCc (fun _ _ _ => 0)
    (fun s r x a =>
      let co := s.core r.core
      let hf := leaderVal r a from_
      let ht := leaderVal r a to_
      match building co x.crew hf, building co x.crew ht with
      | some (_, p), some (_, q) =>
        if hf = ht then some .handleState
        else if 8 ≤ p.succ.length || q.pred = 255 then some .graphLimit
        else none
      | _, _ => some .handleState)
    (fun _ _ _ => none)
    (fun s r x a =>
      let co := s.core r.core
      match building co x.crew (leaderVal r a from_), building co x.crew (leaderVal r a to_) with
      | some (i, p), some (j, q) =>
        let tag := match commandSeq x.crew with | some t => [(j, t)] | none => []
        let p' := { p with succ := p.succ ++ [j], links := p.links ++ tag }
        s.setCore r.core
          { co with nodes := (co.nodes.put i p').put j { q with pred := q.pred + 1 } }
      | _, _ => s)

/-- `narm` (R273, R280): recorded in the node; it takes effect at the clear of its region. -/
def execNarm (g : Guard) (h mask : Src) : State → Out :=
  crewWide (.narm g h mask) g mask noCc (fun _ _ _ => 0)
    (fun s r x a =>
      if (building (s.core r.core) x.crew (leaderVal r a h)).isNone then some .handleState else none)
    (fun _ _ _ => none)
    (fun s r x a =>
      let co := s.core r.core
      match building co x.crew (leaderVal r a h) with
      | some (i, p) =>
        s.setCore r.core
          { co with nodes := co.nodes.put i { p with armSeq := some x.crew.rseq } }
      | none => s)

/-! ### Streams (R268, R281 to R283) -/

/-- Extents and steps of an affine program (R268). -/
def progExt (ws : List W64) (i : Nat) : Nat := fld (wordOf ws 1) (16 * i + 15) (16 * i)
def progSteps (ws : List W64) : Nat := progExt ws 0 * progExt ws 1 * progExt ws 2
def progSpace (ws : List W64) : Nat := fld (wordOf ws 0) 57 56
def progEsize (ws : List W64) : Nat := 2 ^ fld (wordOf ws 0) 59 58

/-- The offset of step j and lane l from BASE (R268). -/
def progOffset (ws : List W64) (j l : Nat) : Int :=
  let n0 := progExt ws 0
  let n1 := progExt ws 1
  l * half (wordOf ws 3) true + (j % n0 : Nat) * half (wordOf ws 2) false +
    (j / n0 % n1 : Nat) * half (wordOf ws 2) true + (j / n0 / n1 : Nat) * half (wordOf ws 3) false

/-- FORMAT of an affine program record (R268); a ring stream ignores ESIZE. -/
def progBad (ring : Bool) (ws : List W64) (pl : PlaceOp) : Bool :=
  let w0 := wordOf ws 0
  fld w0 63 61 != 0 || fld w0 57 56 == 3 || (!ring && fld w0 59 58 == 3) ||
    (fld w0 57 56 == 1 && fld w0 55 32 != 0) || fld (wordOf ws 1) 63 48 != 0 ||
    progExt ws 0 == 0 || progExt ws 1 == 0 || progExt ws 2 == 0 ||
    (fld w0 57 56 != 2 && !placeZero pl)

/-- Lowest and one past the highest byte that a program's lanes touch, from BASE. -/
def progRange (ws : List W64) (lanes : List Nat) : Int × Int :=
  let term := fun (n : Nat) (st : Int) => ((n - 1 : Nat) : Int) * st
  let ts := [term (progExt ws 0) (half (wordOf ws 2) false),
    term (progExt ws 1) (half (wordOf ws 2) true), term (progExt ws 2) (half (wordOf ws 3) false)]
  let ls := lanes.map fun (l : Nat) => (l : Int) * half (wordOf ws 3) true
  let lmin := ls.foldl min (ls.headD 0)
  let lmax := ls.foldl max (ls.headD 0)
  (lmin + ts.foldl (fun a t => a + min 0 t) 0,
    lmax + ts.foldl (fun a t => a + max 0 t) 0 + (progEsize ws : Nat))

/-- The charge of a stream's steps: T × C(n) for space 0 or 2 (R275). -/
def stepCharge (space steps n : Nat) : Nat := if space = 1 then 0 else steps * sectorsOf n

/-- A new stream in the lowest free index of its crew. -/
def newStream (s : State) (c slot : Nat) (k : Crew) (kind q src : Nat) (mask : W64)
    (prog : List W64) (place total state after : Nat) : State × W32 :=
  let co := s.core c
  let idx := (freeIdx co (crewId k) 2).getD 0
  let st : Stream :=
    { slot, idx, kind, q, src, mask, prog, place, total, next := 0, part := 0, state, cause := none
      born := commandSeq k, rseq := if state = 0 then none else commandSeq k, stop := none, before := 0, after
      tctx := tctxOf s slot k, who := crewId k, fenceId := k.fenceId }
  (s.setCore c { co with streams := co.streams.put ((freeKey co.streams 4096).getD 0) st },
    handleOf k 2 idx)

def execSbind (g : Guard) (store : Bool) (q : BitVec 2) (d : Dst) (off mask : Src)
    (pl : PlaceOp) : State → Out :=
  crewWide (.sbind g store q d off mask pl) g mask (fun _ _ l => 2 + namedCc l d)
    (fun _ _ _ => 0)
    (fun s r x a =>
      let o := (leaderVal r a off).toNat
      match recordAt x.crew o 16 32 with
      | some e => some e
      | none =>
        let ws := scrWords s r.core x.slot x.crew o 4
        let rng := progRange ws (lanesOf (footLanes x.crew.foot) x.mask)
        if progBad false ws pl then some .format
        else if sideBound x.crew ⟨progSpace ws, fld (wordOf ws 0) 55 0⟩ rng then some .scratchBound
        else match (if progSpace ws = 2 then placeResolve s r.core x.slot x.crew pl
            else .ok (0, 0)) with
          | .error e => some e
          | .ok _ =>
            if progSpace ws = 2 && 0x200000 ≤ fld (wordOf ws 0) 55 0 then some .windowUnowned
            else if (freeIdx (s.core r.core) (crewId x.crew) 2).isNone then some .handleState
            else none)
    (fun _ _ _ => none)
    (fun s r x a =>
      match s.crew? r.core x.slot with
      | none => s
      | some k =>
        let ws := scrWords s r.core x.slot k (leaderVal r a off).toNat 4
        let (s1, h) := newStream s r.core x.slot k (if store then 1 else 0) q.toNat 0 x.mask ws
          (copyPlace s r.core x.slot k pl) (progSteps ws) 0 0
        let s2 := s1.mapCrew r.core x.slot fun k => { k with queues := match k.queues.get? q.toNat with
          | some y => k.queues.put q.toNat { y with last := some (hIdx h, hGen h) }
          | none => k.queues }
        writeNamed s2 r x d h)

/-- The stream that a good handle names (R282). -/
def streamNamed (co : Core) (k : Crew) (h : W32) : Option (Nat × Stream) :=
  if handleGood co k 2 h then streamOf co (crewId k) (hIdx h) else none

/-- Bytes of one step of a stream: W elements, or a slot (R275). -/
def stepBytes (k : Crew) (slotBytes : Nat) (x : Stream) : Nat :=
  if x.kind ≤ 1 then footLanes k.foot * progEsize x.prog else slotBytes

/-- The declaration of a ring for the crew's launch (R290). -/
def ringDecl (s : State) (k : Crew) (r : Nat) : Option RingDecl :=
  (crewLaunch s k).bind fun l => l.rings.get? r

def ringSize (s : State) (k : Crew) (r : Nat) : Nat := ((ringDecl s k r).map (·.size)).getD 0

/-- The charge of n steps of a stream (R275). -/
def streamCharge (s : State) (k : Crew) (x : Stream) (n : Nat) : Nat :=
  if x.kind = 3 then 0
  else stepCharge (progSpace x.prog) n (stepBytes k (ringSize s k x.q) x)

def execSrun (g : Guard) (h mask : Src) : State → Out :=
  crewWide (.srun g h mask) g mask noCc
    (fun s r x => match chargeLane x with
      | none => 0
      | some a => match streamNamed (s.core r.core) x.crew (leaderVal r a h) with
        | some (_, y) => if y.state = 0 then streamCharge s x.crew y y.total else 0
        | none => 0)
    (fun s r x a => match streamNamed (s.core r.core) x.crew (leaderVal r a h) with
      | some (_, y) => if y.state = 0 then none else some .handleState
      | none => some .handleState)
    (fun _ _ _ => none)
    (fun s r x a => match streamNamed (s.core r.core) x.crew (leaderVal r a h) with
      | some (i, y) =>
        let y' := { y with state := 1, rseq := commandSeq x.crew, after := s.now
                           fenceId := x.crew.fenceId }
        s.mapCore r.core fun co => { co with streams := co.streams.put i y' }
      | none => s)

/-- A stream told to stop: the step in progress ends, no other starts (R282). -/
def stopStream (x : Stream) (tag : Option (BitVec 16)) : Stream :=
  let lim := x.next + (if x.part = 0 then 0 else 1)
  match x.state with
  | 0 | 3 => { x with state := 5, stop := some (lim, tag), before := x.state }
  | 1 => { x with stop := some (min lim x.total, tag), before := 1 }
  | _ => x

/-- The steps that a stop leaves unperformed. -/
def stepsLeft (x : Stream) : Nat :=
  if (x.state = 1 ∨ x.state = 3) ∧ x.stop.isNone then
    x.total - (x.next + (if x.part = 0 then 0 else 1))
  else 0

/-- `sstop` (R282): the charge of the steps not performed goes back to `%mb`. -/
def execSstop (g : Guard) (h mask : Src) : State → Out :=
  crewWide (.sstop g h mask) g mask noCc (fun _ _ _ => 0)
    (fun s r x a =>
      if (streamNamed (s.core r.core) x.crew (leaderVal r a h)).isNone then some .handleState
      else none)
    (fun _ _ _ => none)
    (fun s r x a => match streamNamed (s.core r.core) x.crew (leaderVal r a h) with
      | some (i, y) =>
        let back := streamCharge s x.crew y (stepsLeft y)
        let y' := if y.stop.isSome then y else stopStream y (commandSeq x.crew)
        let s1 := s.mapCore r.core fun co => { co with streams := co.streams.put i y' }
        s1.mapCrew r.core x.slot fun k =>
          { k with mb := BitVec.ofNat 48 (min (k.mb.toNat + back) (2 ^ 48 - 1)) }
      | none => s)

/-- Whether a ring of a launch has an engine filler or an engine drainer on a core (R270). -/
def ringUsed (co : Core) (tenant r : Nat) (fill : Bool) : Bool :=
  co.streams.vals.any fun x =>
    x.who.1 == tenant && (x.state == 1 || x.state == 3) &&
      (if fill then (x.kind == 2 || x.kind == 3) && x.q == r
       else (x.kind == 4 && x.q == r) || (x.kind == 3 && x.src == r))

/-- RING_STATE of `rfill` and `rdrain` (R283). -/
def ringTrap (s : State) (c : Nat) (k : Crew) (kind r src t : Nat) : Bool :=
  let co := s.core c
  (ringDecl s k r).isNone || ringUsed co k.tenant r (kind != 4) ||
    (kind == 3 && ((ringDecl s k src).isNone || ringUsed co k.tenant src false ||
      ringSize s k r != ringSize s k src || t == 0 || r == src))

/-- `rfill` from memory and `rdrain` (R283). -/
def ringMem (i : Instr) (g : Guard) (kind : Nat) (rg : BitVec 4) (d : Dst) (a mask : Src) :
    State → Out :=
  crewWide i g mask (fun _ _ l => 2 + namedCc l d)
    (fun s r x => recordCharge a 16 32 (fun ws => progBad true ws ⟨0, 0, 0⟩)
      (fun ws => stepCharge (progSpace ws) (progSteps ws) (ringSize s x.crew rg.toNat)) s r x)
    (fun s r x l =>
      let o := (leaderVal r l a).toNat
      match recordAt x.crew o 16 32 with
      | some e => some e
      | none =>
        if progBad true (scrWords s r.core x.slot x.crew o 4) ⟨0, 0, 0⟩ then some .format
        else if ringTrap s r.core x.crew kind rg.toNat 0 0 then some .ringState
        else if (freeIdx (s.core r.core) (crewId x.crew) 2).isNone then some .handleState
        else none)
    (fun _ _ _ => none)
    (fun s r x l =>
      match s.crew? r.core x.slot with
      | none => s
      | some k =>
        let ws := scrWords s r.core x.slot k (leaderVal r l a).toNat 4
        let (s1, h) := newStream s r.core x.slot k kind rg.toNat 0 0 ws
          (copyPlace s r.core x.slot k ⟨0, 0, 0⟩) (progSteps ws) 1 (s.now + 2 * clockDiv s r.core)
        writeNamed s1 r x d h)

/-- `rfill.ring` (R283): the source ring and T stand in a register. -/
def ringRing (i : Instr) (g : Guard) (rg : BitVec 4) (d : Dst) (a mask : Src) : State → Out :=
  crewWide i g mask (fun _ _ l => 2 + namedCc l d) (fun _ _ _ => 0)
    (fun s r x l =>
      let w := leaderVal r l a
      if ringTrap s r.core x.crew 3 rg.toNat (fld w 3 0) (fld w 31 16) then some .ringState
      else if (freeIdx (s.core r.core) (crewId x.crew) 2).isNone then some .handleState
      else none)
    (fun _ _ _ => none)
    (fun s r x l =>
      match s.crew? r.core x.slot with
      | none => s
      | some k =>
        let w := leaderVal r l a
        let (s1, h) := newStream s r.core x.slot k 3 rg.toNat (fld w 3 0) 0 [] 0 (fld w 31 16) 1
          (s.now + 2 * clockDiv s r.core)
        writeNamed s1 r x d h)

def execRfill (g : Guard) (ring : Bool) (rg : BitVec 4) (d : Dst) (a mask : Src) : State → Out :=
  if ring then ringRing (.rfill g ring rg d a mask) g rg d a mask
  else ringMem (.rfill g ring rg d a mask) g 2 rg d a mask

def execRdrain (g : Guard) (rg : BitVec 4) (d : Dst) (a mask : Src) : State → Out :=
  ringMem (.rdrain g rg d a mask) g 4 rg d a mask

end Sys2Proof.Machine
end

