-- ==== Sys2Proof/Machine/Tickets.lean ====
section
/-! DEFINITION. Control blocks (R287, R339, R340) and the ticket list (R295, R309): reading and
writing them at their home, posting a launch, and the gate word of a predecessor (R299). -/
namespace Sys2Proof.Machine
open Sys2Proof

/-! ### Control blocks (R339, R340) -/

/-- A word of physical memory at its home, with dirty copies collected first. -/
def cbRead (s : State) (pa : Nat) : State × W64 :=
  let s := homeCollect s pa
  (s, BitVec.ofNat 64 (homeWord s pa 8))

/-- A word written at its home; no cache of a cluster takes part. -/
def cbWrite (s : State) (pa : Nat) (w : W64) : State :=
  homePuts (homeCollect s pa) pa (toBytes 8 w.toNat)

/-- Word k of a control block. -/
def cbWord (s : State) (cb k : Nat) : W64 := (cbRead s (cb + 8 * k)).2

def cbSeq (s : State) (cb : Nat) : Nat := fld (cbWord s cb 0) 31 0
def cbSize (s : State) (cb : Nat) : Nat := 2 ^ fld (cbWord s cb 1) 4 0
def cbState (s : State) (cb : Nat) : Nat := fld (cbWord s cb 1) 31 28
def cbWriteIdx (s : State) (cb : Nat) : Nat := fld (cbWord s cb 3) 63 32
def cbReadIdx (s : State) (cb : Nat) : Nat := fld (cbWord s cb 3) 31 0
def cbPasid (s : State) (cb : Nat) : BitVec 20 := (cbWord s cb 1).extractLsb' 44 20
def cbQnum (s : State) (cb : Nat) : BitVec 12 := (cbWord s cb 1).extractLsb' 32 12
def cbBase (s : State) (cb : Nat) : Nat := fld (cbWord s cb 2) 55 0

/-- A walker's update: SEQ must be even and rises by 2 with the words (R340). -/
def cbUpdate (s : State) (cb : Nat) (l : List (Nat × W64)) : State :=
  let w0 := cbWord s cb 0
  let s := l.foldl (fun s p => cbWrite s (cb + 8 * p.1) p.2) s
  cbWrite s cb (setFld w0 31 0 (fld w0 31 0 + 2))

/-- A Keeper's update: SEQ is claimed and rises by 2, the live words are copied to the shadow with the
claimed number, and the new ones are written (R340). Nothing reads the block between its steps here. -/
def cbKeeper (s : State) (cb : Nat) (l : List (Nat × W64)) : State :=
  let w0 := cbWord s cb 0
  let sh := setFld (cbWord s (cb + 256) 0) 31 0 (fld w0 31 0 + 1)
  let s1 := (List.range 31).foldl (fun s i => cbWrite s (cb + 256 + 8 * (i + 1)) (cbWord s cb (i + 1))) s
  let s2 := l.foldl (fun s p => cbWrite s (cb + 8 * p.1) p.2) (cbWrite s1 (cb + 256) sh)
  cbWrite s2 cb (setFld (setFld w0 39 32 0) 31 0 (fld w0 31 0 + 2))

/-- Word 1 with STATE and ERR (R287, R293, R339). -/
def cbStateWord (s : State) (cb st err : Nat) : W64 :=
  setFld (setFld (cbWord s cb 1) 31 28 st) 27 20 err

/-- STATE and ERR of a control block set by a walker (R287, R293). -/
def cbSetState (s : State) (cb st err : Nat) : State := cbUpdate s cb [(1, cbStateWord s cb st err)]

/-- The same by a Keeper. -/
def cbKeeperState (s : State) (cb st err : Nat) : State := cbKeeper s cb [(1, cbStateWord s cb st err)]

/-- Whether a Keeper is updating a control block: others wait until its SEQ is even (R340). -/
def cbTaken (s : State) (cb : Nat) : Bool := cb != 0 && cbSeq s cb % 2 == 1

/-- The physical address of entry i of the recent-launch list (R339). -/
def recentAt (cb i : Nat) : Nat := cb + 8 * (5 + i)

/-- The launch with a tag among the 16 most recent of a queue, the latest first (R299). -/
def recentTag (s : State) (cb : Nat) (tag : Nat) : Option Nat :=
  let next := fld (cbWord s cb 4) 3 0
  ((List.range 16).map fun j => (next + 15 - j) % 16).find? fun i =>
    let w := cbWord s cb (5 + i)
    bit w 63 && fld w 15 0 == tag

/-- The key under which the model remembers the holder of a recent entry. -/
def recentKey (cb i : Nat) : Nat := cb + i

/-- A launch enters the recent list of its queue: V, its tag, DONE and GATE zero (R299, R339). These words
are not a walker's to update, so the Keeper of die 0 does it (R340; log entry 75). -/
def recentEnter (s : State) (cb tag tno : Nat) : State × Nat :=
  let i := fld (cbWord s cb 4) 3 0
  let e : W64 := setFld (setBit (0 : W64) 63 true) 15 0 tag
  let s := cbKeeper s cb [(4, setFld (cbWord s cb 4) 3 0 (i + 1)), (5 + i, e)]
  (s.mapMod fun m => { m with recents := m.recents.put (recentKey cb i) tno }, i)

/-- Whether a recent entry still belongs to the launch with a ticket number. -/
def recentHeld (s : State) (cb i tno : Nat) : Bool :=
  s.mod.recents.get? (recentKey cb i) == some tno

/-! ### The ticket list (R295, R309) -/

/-- Fields of a launch packet (R288, R289). -/
def pkDep (ws : List W64) : Bool := bit (ws.getD 0 0) 5
def pkBar (ws : List W64) : Bool := bit (ws.getD 0 0) 4
def pkTag (ws : List W64) : Nat := fld (ws.getD 2 0) 63 48
def pkPred (ws : List W64) : Nat := fld (ws.getD 3 0) 63 48

/-- A launch record posted to the ticket list, unless a Keeper is updating its control block or the list is
full (a claimed record stays
with the module until its check, outside the list): it takes the next
number, its predecessor is looked up, and it enters its queue's recent list (R295, R299). -/
def postLaunch (s : State) (p : Posted) : Option State :=
  if 256 ≤ s.mod.tickets.length - s.mod.claimed.length || cbTaken s p.cb then none
  else
    let tno := s.mod.posted.toNat
    let pred := if p.cb = 0 || !pkDep p.packet then none
      else (recentTag s p.cb (pkPred p.packet)).bind fun i =>
        (s.mod.recents.get? (recentKey p.cb i)).map fun n => (p.cb, i, n)
    let (s1, i) := if p.cb = 0 then (s, 0) else recentEnter s p.cb (pkTag p.packet) tno
    some (s1.mapMod fun m =>
      { m with tickets := m.tickets ++ [(tno, { p with recent := i, tno, pred })]
               posted := m.posted + 1 })

/-- The record of a launch that a crew or a node of it submits, as a packet of the crew's own
queue (R309). -/
def crewPosted (s : State) (tenant : Nat) (words : List W64) (va : BitVec 56)
    (node from_ : Option (Nat × Nat)) : Posted :=
  let q := (s.launch? tenant).map fun l => (l.post.pasid, l.post.qnum, l.post.cb)
  let (pasid, qnum, cb) := q.getD (tctxPasid s.mod.ktctx, 0, 0)
  { packet := words, pasid, qnum, cb, recent := 0, tno := 0, pred := none, node
    fromCrew := from_, va }

/-- What R288 refuses of a packet before it is taken. -/
def packetBad (ws : List W64) : Option Nat :=
  let w := fun k => ws.getD k 0
  let type := fld (w 0) 3 0
  if 4 ≤ type then some 0x01
  else if pkDep ws && (type != 1 || pkBar ws) then some 0x10
  else if type = 2 ∧ (fld (w 1) 2 0 ≠ 0 ∨ fld (w 3) 1 0 = 3 ∨ ! [w 4, w 5, w 6, w 7].all (· == 0))
    then some 0x10
  else if type = 3 ∧ (fld (w 1) 2 0 ≠ 0 ∨ fld (w 3) 63 1 ≠ 0 ∨
      ! [w 4, w 5, w 6, w 7].all (· == 0)) then some 0x10
  else none

/-- Whether a launch of a queue has been posted and has not completed (R298). -/
def queueBusy (s : State) (cb : Nat) : Bool :=
  s.mod.tickets.any (fun t => t.2.cb == cb) || s.mod.pendIn.any (fun l => l.post.cb == cb) ||
    s.mod.launches.vals.any fun l => l.post.cb == cb

/-- A launch of a crew or a node whose packet's word 0 a walker would refuse, or whose packet is no launch
(R288, R309). -/
def noLaunch (ws : List W64) : Bool := fld (ws.getD 0 0) 3 0 != 1 || (packetBad ws).isSome

/-- Whether a launch must wait for those of its queue before it (R288). -/
def barHeld (s : State) (p : Posted) : Bool := p.cb != 0 && pkBar p.packet && queueBusy s p.cb

/-- A launch of a crew or a node is posted, or with BAR = 1 kept until it may be (R288, R309); none while
the ticket list is full. -/
def submitLaunch (s : State) (p : Posted) : Option State :=
  if barHeld s p then some (s.mapMod fun m => { m with barred := m.barred ++ [p] }) else postLaunch s p

/-- The first launch that waited for its queue is posted (R288). -/
def postBarred (s : State) : State :=
  match s.mod.barred.find? fun p => !barHeld s p with
  | none => s
  | some p => (postLaunch (s.mapMod fun m => { m with barred := m.barred.erase p }) p).getD s

/-- CREWS of a launch (R289). -/
def launchCrews (l : Launch) : Nat := fld (l.post.packet.getD 0 0) 63 32

/-! ### Gates (R299) -/

/-- The active launch with a ticket number. -/
def launchByTicket (s : State) (tno : Nat) : Option (Nat × Launch) :=
  s.mod.launches.cells.find? fun p => p.2.post.tno == tno

/-- The gate word of a predecessor: in its queue's control block while the entry is its own,
and with the launch after that; all ones once it is gone. -/
def gateWord (s : State) (p : Nat × Nat × Nat) : BitVec 16 :=
  if recentHeld s p.1 p.2.1 p.2.2 then (cbWord s p.1 (5 + p.2.1)).extractLsb' 32 16
  else match launchByTicket s p.2.2 with
    | some (_, l) => l.gate
    | none => 0xFFFF

/-- Whether `gate k` passes in a crew of a launch (R299). -/
def gateOpen (s : State) (tenant k : Nat) : Bool :=
  match (s.launch? tenant).bind fun l => l.post.pred with
  | none => true
  | some p => bit (gateWord s p) k

/-- Bits set in the gate word of a launch: an atomic OR on one word of its control block (R340),
and in the launch's own copy. DONE is set with the last of them (R297). -/
def gateSet (s : State) (tenant : Nat) (bits : BitVec 16) (done : Bool) : State :=
  match s.launch? tenant with
  | none => s
  | some l =>
    let s := s.mapLaunch tenant fun l => { l with gate := l.gate ||| bits }
    if l.post.cb ≠ 0 && recentHeld s l.post.cb l.post.recent l.post.tno then
      let pa := recentAt l.post.cb l.post.recent
      let (s, w) := cbRead s pa
      cbWrite s pa (setBit (w ||| (bits.setWidth 64 <<< 32)) 62 (bit w 62 || done))
    else s

end Sys2Proof.Machine
end

