-- ==== Sys2Proof/Machine/Engine.lean ====
section
/-! DEFINITION. The stream engine: chunks (R259 to R261), output units and their release (R263,
R265), acquire and release (R262), squash and rewind (R264), faults (R266), stream steps (R269,
R270), rings (R306) and the dependence graph (R271 to R273). -/
namespace Sys2Proof.Machine
open Sys2Proof

/-! ### Small helpers -/

/-- A step over a list that stops at the first failure. -/
def eachM {α β : Type} (f : State → α → State × Except Cause β) :
    State → List α → State × Except Cause (List β)
  | s, [] => (s, .ok [])
  | s, a :: r =>
    match f s a with
    | (s, .error e) => (s, .error e)
    | (s, .ok b) =>
      match eachM f s r with
      | (s, .error e) => (s, .error e)
      | (s, .ok l) => (s, .ok (b :: l))

def mapCtx (s : State) (c p : Nat) (f : Ctx → Ctx) : State :=
  s.mapCore c fun co => { co with ctxs := match co.ctxs.get? p with
    | some x => co.ctxs.put p (f x)
    | none => co.ctxs }
def mapStream (s : State) (c p : Nat) (f : Stream → Stream) : State :=
  s.mapCore c fun co => { co with streams := match co.streams.get? p with
    | some x => co.streams.put p (f x)
    | none => co.streams }
def mapNode (s : State) (c p : Nat) (f : Node → Node) : State :=
  s.mapCore c fun co => { co with nodes := match co.nodes.get? p with
    | some x => co.nodes.put p (f x)
    | none => co.nodes }

/-- The handle by which a crew knows an index; the generation of a crew that has ended is not
kept (R255). -/
def engHandle (co : Core) (who : Nat × BitVec 32) (kind idx : Nat) : Nat :=
  match ownerOf co who with
  | some k => (handleOf k kind idx).toNat
  | none => kind * 2 ^ 30 + idx * 65536

/-- CONTEXT_FAULT to the Keeper (R266, R272, R366). -/
def reportCtx (s : State) (c : Nat) (who : Nat × BitVec 32) (kind idx : Nat) : State :=
  let co := s.core c
  report s c .contextFault (((slotOf co who).map (·.1)).getD 0) 0
    (BitVec.ofNat 64 (engHandle co who kind idx)) 0

/-! ### Rings (R306) -/

def ringKey (tenant r : Nat) : Nat := tenant * 16 + r
/-- PUT, TAKE and the fault flag of an instance. -/
def ringAt (co : Core) (tenant r : Nat) : BitVec 32 × BitVec 32 × Bool :=
  co.rings.getD (ringKey tenant r) (0, 0, false)
/-- The fill of an instance. -/
def ringFillOf (co : Core) (tenant r : Nat) : Nat :=
  let x := ringAt co tenant r
  (x.1 - x.2.1).toNat
/-- The slots of a declared ring. -/
def ringCount (s : State) (tenant r : Nat) : Nat :=
  (((s.launch? tenant).bind fun l => l.rings.get? r).map (·.count)).getD 0

/-- A stream stopped as `sstop` stops it, its unperformed charge returned (R282, R306). -/
def haltStream (s : State) (c p : Nat) (x : Stream) : State :=
  let s1 := mapStream s c p fun y => if y.stop.isSome then y else stopStream y none
  match ownerOf (s.core c) x.who with
  | some k =>
    let back := streamCharge s k x (stepsLeft x)
    mapOwner s1 c x.who fun k =>
      { k with mb := BitVec.ofNat 48 (min (k.mb.toNat + back) (2 ^ 48 - 1)) }
  | none => s1

/-- Whether a stream works on a ring instance. -/
def onRing (x : Stream) (tenant r : Nat) : Bool :=
  x.who.1 == tenant && decide (2 ≤ x.kind) && (x.q == r || (x.kind == 3 && x.src == r))

/-- An advance of a ring's counters (R306): an overflow sets the fault flag, stops the ring's
streams and is reported. -/
def ringAdvance (s : State) (c tenant r slot : Nat) (dput dtake : BitVec 32) : State :=
  let x := ringAt (s.core c) tenant r
  let put := x.1 + dput
  let take := x.2.1 + dtake
  let over_ := decide (ringCount s tenant r < (put - take).toNat)
  let s1 := s.mapCore c fun co =>
    { co with rings := co.rings.put (ringKey tenant r) (put, take, x.2.2 || over_) }
  if over_ then
    let s2 := ((s1.core c).streams.cells.filter fun p => onRing p.2 tenant r).foldl
      (fun s p => haltStream s c p.1 p.2) s1
    report s2 c .ringFault slot r 0 0
  else s1

/-! ### What the engine reads and writes (R259, R261, R266) -/

/-- For whom the engine works: the address space, the crew, and the place of its windows. -/
structure EngFor where
  tctx : W64
  who : Nat × BitVec 32
  place : Nat

def EngFor.keeper (e : EngFor) : Bool := e.who.1 == Config.noTenant

/-- The engine of a core as it asks for a translation. -/
def engAsker (c : Nat) (e : EngFor) (write : Bool) (va : Nat) : Asker :=
  { core := c, kind := .engine, keeper := e.keeper, write, fetch := false, va }

/-- The translations that an engine's next accesses need: none where all are at hand; otherwise the
misses join the walk queue, and the engine waits (R174). -/
def engWaits (s : State) (c : Nat) (e : EngFor) (l : List (Bool × Nat)) : Option State :=
  match l.filter fun p => !unitKnown s e.tctx (engAsker c e p.1 p.2) with
  | [] => none
  | l => some (l.foldl (fun s p =>
      (askWalk s (clusterOf c) e.tctx (engAsker c e p.1 p.2)).1) s)

/-- One end of each page that a side's bytes touch, where they lie in the global space. -/
def sidePages (space : Nat) (write : Bool) (l : List Int) : List (Bool × Nat) :=
  if space ≠ 0 then []
  else (dedup (l.map fun a => wrap 56 a / 65536)).map fun p => (write, p * 65536)

/-- A global address translated and checked as a load's or a store's (R259), once its translation is
at hand; one that has left the TLBs meanwhile is walked again. -/
def engXlate (s : State) (c : Nat) (e : EngFor) (write : Bool) (va : Nat) :
    State × Except Cause (Nat × W64) :=
  let pass := fun (s : State) (t : TlbE) =>
    if leafAttr t.leaf = 2 then (s, .error .permission)
    else
      let pa := leafPa t.leaf t.level va
      if zoneOf pa == .domain && !domainPresent s pa then (s, Except.error Cause.domainAbsent)
      else (s, .ok (canonPa s pa, t.leaf))
  match unitXlate s e.tctx (engAsker c e write va) with
  | .hit s t => pass s t
  | .fault s cause => (s, .error cause)
  | .wait _ | .full =>
    match walk s (clusterOf c) (tctxPasid e.tctx) (tctxRoot e.tctx) va with
    | .error cause => (s, .error cause)
    | .ok (l, _) =>
      match leafCheck l.w e.keeper write false with
      | some cause => (s, .error cause)
      | none =>
        let (s, t) := markLeaf s { pasid := tctxPasid e.tctx, level := l.level
                                   page := va / 2 ^ pageBits l.level, leaf := l.w, at_ := l.at_ } write
        pass s t

/-- The crew's own scratchpad, if the byte is inside it. -/
def ownScratch (co : Core) (who : Nat × BitVec 32) (a : Nat) : Option Crew :=
  (sourceOf co who).filter fun k => decide (a < scratchBytes k.foot)

/-- An address of a space: the global space wraps, an offset below 0 lies outside. -/
def spaceAddr (space : Nat) (a : Int) : Nat :=
  if space = 0 then wrap 56 a else if a < 0 then 0x200000 else a.toNat

/-- One byte read (R259): global through the L2 and the home, scratchpad, or window. The leaf
comes with it for the check of R177. -/
def engRead (c : Nat) (e : EngFor) (space : Nat) (s : State) (a : Int) :
    State × Except Cause (Byte × W64) :=
  let x := spaceAddr space a
  match space with
  | 0 =>
    match engXlate s c e false x with
    | (s, .error cause) => (s, .error cause)
    | (s, .ok (pa, leaf)) =>
      let at_ := if leafAttr leaf = 1 then homeSite s (pa / 64) else l2Site s (clusterOf c) (pa / 64)
      let (s, bad) := readSites s c none (· == at_)
      if bad.isSome then (s, .error .machineCheck)
      else if leafAttr leaf = 1 then
        let s := homeCollect s pa
        (s, .ok (homeGet s pa, leaf))
      else
        let (s, b) := l2Read s (clusterOf c) pa (leafCls leaf) (leafAttr leaf = 3)
        (s, .ok (b, leaf))
  | 1 =>
    match ownScratch (s.core c) e.who x with
    | some k =>
      let own := (slotOf (s.core c) e.who).map fun p => (c, p.1)
      let (s, bad) := if own.isNone then (s, none) else readSites s c own (· == .scratch (x / 4))
      (s, if bad.isSome then .error .machineCheck else .ok (k.scratch.getD x 0, 0))
    | none => (s, .error .scratchBound)
  | _ =>
    match placeCore s e.place with
    | none => (s, .error .placeAbsent)
    | some t =>
      if winTarget (s.core t) x = .unowned then (s, .error .windowUnowned)
      else
        let (s, bad) := readWin s c t x
        (s, if bad.isSome then .error .machineCheck else .ok (winGet (s.core t) x, 0))

/-- The check of one byte to write: where it lies (R259, R266). -/
def engTarget (c : Nat) (e : EngFor) (space : Nat) (s : State) (a : Int) :
    State × Except Cause (Nat × W64) :=
  let x := spaceAddr space a
  match space with
  | 0 => engXlate s c e true x
  | 1 =>
    match ownerOf (s.core c) e.who with
    | some k =>
      if x < scratchBytes k.foot then (s, .ok (x, 0)) else (s, .error .scratchBound)
    | none => (s, .ok (x, 0))
  | _ =>
    match placeCore s e.place with
    | none => (s, .error .placeAbsent)
    | some t =>
      match winTarget (s.core t) x with
      | .unowned => (s, .error .windowUnowned)
      | .operand _ => (s, .error .permission)
      | _ => (s, .ok (x, 0))

/-- Whether the two ends of one access lie on pages that differ in the attributes of R177. -/
def endsSplit (l : List W64) : Bool :=
  match l.head?, l.getLast? with
  | some a, some b => !sameAttrs a b
  | _, _ => false

/-- The bytes of one element read as one access. -/
def engReads (c : Nat) (e : EngFor) (space n : Nat) (s : State) (a : Int) :
    State × Except Cause (List Byte) :=
  match eachM (engRead c e space) s ((List.range n).map fun (i : Nat) => a + (i : Int)) with
  | (s, .error cause) => (s, .error cause)
  | (s, .ok l) =>
    if endsSplit (l.map (·.2)) then (s, .error .attrSplit) else (s, .ok (l.map (·.1)))

/-- The places of the bytes of one element as one store. -/
def engTargets (c : Nat) (e : EngFor) (space n : Nat) (s : State) (a : Int) :
    State × Except Cause (List Nat) :=
  match eachM (engTarget c e space) s ((List.range n).map fun (i : Nat) => a + (i : Int)) with
  | (s, .error cause) => (s, .error cause)
  | (s, .ok l) =>
    if endsSplit (l.map (·.2)) then (s, .error .attrSplit) else (s, .ok (l.map (·.1)))

/-- Elements copied: each read, then its destination checked. -/
def engMove (c : Nat) (e : EngFor) (sp dp n : Nat) (s : State) (l : List (Int × Int)) :
    State × Except Cause (List (Nat × Byte)) :=
  match eachM (fun s (p : Int × Int) =>
    match engReads c e sp n s p.1 with
    | (s, .error cause) => (s, .error cause)
    | (s, .ok bs) =>
      match engTargets c e dp n s p.2 with
      | (s, .error cause) => (s, .error cause)
      | (s, .ok as_) => (s, .ok (as_.zip bs))) s l with
  | (s, .error cause) => (s, .error cause)
  | (s, .ok ls) => (s, .ok ls.flatten)

/-- Bytes grouped by sector, a later byte at one place winning (R257, R261). -/
def bySector (l : List (Nat × Byte)) : List (List (Nat × Byte)) :=
  let t : Tab Byte := l.foldl (fun t p => t.put p.1 p.2) .empty
  (dedup (t.cells.map fun p => p.1 / 64)).map fun q => t.cells.filter fun p => p.1 / 64 == q

/-- The crew whose window or scratchpad a window byte lies in, with its bases (R169, R261). -/
def winOwnerOf (co : Core) (o : Nat) : Option WinOwner :=
  let slot := match winTarget co o with
    | .reg x .. | .acc x .. | .scratch x _ => some x
    | _ => none
  (slot.bind fun x => co.crews.get? x).map fun k =>
    ⟨k.tenant, k.number, k.base0, k.base1, k.sbase, k.abase⟩

/-- A window offset found again for the crew that owned it, from its bases now (R169). -/
def winAgain (co : Core) (o : Nat) (w : WinOwner) : Option Nat :=
  match slotOf co (w.tenant, w.number) with
  | none => none
  | some (_, k) =>
    let n := winBytes k.foot
    if w.base0 * 1024 ≤ o ∧ o < w.base0 * 1024 + n then some (o - w.base0 * 1024 + k.base0 * 1024)
    else if w.base1 * 1024 ≤ o ∧ o < w.base1 * 1024 + n then
      some (o - w.base1 * 1024 + k.base1 * 1024)
    else if w.sbase ≤ o ∧ o < w.sbase + scratchBytes k.foot then some (o - w.sbase + k.sbase)
    else if 0x100000 + w.abase * 4096 ≤ o then some (o - w.abase * 4096 + k.abase * 4096)
    else none

/-- Released window bytes: resolved again through the place and the owner; dropped and counted
where the place is absent or the owner has ended (R169, R170). -/
def windowRelease (s : State) (c place : Nat) (w : WinOwner) (l : List (Nat × Byte)) : State :=
  match placeCore s place with
  | none => countFixed s c 9 1
  | some t =>
    match slotOf (s.core t) (w.tenant, w.number) with
    | none => countFixed s t 9 1
    | some _ => l.foldl (fun s p => match winAgain (s.core t) p.1 w with
        | some o => s.mapCore t fun co => winPut co o p.2
        | none => s) s

/-- Whether a batch inside a clause holds the lane of a register that a byte is written into: the
write waits for the clause's end (R116); or whether an entry of the matrix queue runs, during which no
accumulator byte is written (R241). -/
def laneBusy (s : State) (t o : Nat) : Bool :=
  match winTarget (s.core t) o with
  | .reg slot _ lane _ => s.runs.any fun r => r.core == t && r.fibres.contains (lane, slot)
  | .acc .. => (s.core t).mq.head?.any fun e => e.ends.isSome
  | _ => false

/-- Whether released window bytes must wait for the end of a clause (R116). -/
def windowBusy (s : State) (place : Nat) (w : WinOwner) (l : List (Nat × Byte)) : Bool :=
  match placeCore s place with
  | none => false
  | some t => l.any fun p => (winAgain (s.core t) p.1 w).any (laneBusy s t)

/-! ### Output units (R263) -/

/-- Units of one context, stream or node. -/
def unitsOf (co : Core) (owner idx : Nat) : List Unit_ :=
  co.units.filter fun u => u.owner == owner && u.idx == idx

/-- Free room in the engine staging of a core (R263). -/
def stagingRoom (co : Core) : Nat := 512 - co.units.length

/-- The die of another home of a unit: of the memory that it writes, or of the core whose scratchpad or
registers it writes (R215, R263). -/
def unitHome (s : State) (c : Nat) (u : UKind) : Option Nat :=
  match u with
  | .bytes 0 _ l _ => crossHome s c ((l.headD (0, 0)).1)
  | .bytes 2 place _ _ =>
    (placeCore s place).bind fun t => if dieOf t = dieOf c then none else some (dieOf t)
  | _ => none

/-- Units staged now, with the window of QWIN; one homed on another die crosses into its staging
(R263). -/
def stageUnits (s : State) (c owner idx chunk slot : Nat) (rseq : Option (BitVec 16))
    (l : List UKind) : State :=
  l.foldl (fun s u =>
    let (s, id) := freshId s c
    let home := unitHome s c u
    let s1 := s.mapCore c fun co => { co with units := co.units ++
      [{ id, kind := u, owner, idx, chunk, slot, rseq, staged := s.now, win := fld co.qwin 15 0
         home, acked := false, back := false, told := false }] }
    match home with
    | some d => netSend s1 c d (.unit_ id)
    | none => s1) s

/-- The units of written bytes (R261). -/
def byteUnits (s : State) (space place : Nat) (l : List (Nat × Byte)) : List UKind :=
  (bySector l).map fun g =>
    let owner := if space = 2 then
        (placeCore s place).bind fun t => winOwnerOf (s.core t) ((g.headD (0, 0)).1)
      else none
    .bytes space place g owner

/-- The engine is busy for the cycles that its bandwidth takes for a chunk (R260). -/
def engOccupy (s : State) (c bytes : Nat) : State :=
  s.mapCore c fun co => { co with engBusy := s.now + max 1 (ceilDiv bytes 128) * clockDiv s c }

/-! ### Copy contexts (R255, R260, R262, R266) -/

/-- A context's unit of current returned, or its request withdrawn (R243). -/
def dropCurrent (s : State) (c p : Nat) (x : Ctx) : State :=
  let s1 := if x.granted then returnUnits s (clusterOf c) 1
    else if x.asked then s.mapCluster (clusterOf c) fun cl =>
      { cl with curQ := cl.curQ.filter fun q => !(q.core == c && q.who == 2 + p) }
    else s
  mapCtx s1 c p fun x => { x with granted := false, asked := false }

/-- A context leaves its pool entry; `used` raises the generation of its index (R254). -/
def freeCtx (s : State) (c p : Nat) (used : Bool) : State :=
  match (s.core c).ctxs.get? p with
  | none => s
  | some x =>
    let s1 := dropCurrent s c p x
    let s2 := s1.mapCore c fun co => { co with ctxs := co.ctxs.del p }
    if used then raiseGen s2 c x.who 0 x.idx else s2

/-- What becomes of a context in state 2 or 4 whose units are gone: an `.nw` context and one of
an ended crew are freed; a node's context completes its node (R255, R271). -/
def settleFinal (s : State) (c p : Nat) : State :=
  match (s.core c).ctxs.get? p with
  | none => s
  | some x =>
    if (x.state ≠ 2 ∧ x.state ≠ 4) ∨ unitsOf (s.core c) 0 p ≠ [] then s
    else match x.node with
      | some n => mapNode s c n fun nd => { nd with fin := true, cause := x.cause }
      | none =>
        if x.nw || (ownerOf (s.core c) x.who).isNone then freeCtx s c p true else s

/-- A context whose outputs are staged and released: the release is staged, or the context is
done (R255, R262). -/
def settleCtx (s : State) (c p : Nat) : State :=
  match (s.core c).ctxs.get? p with
  | none => s
  | some x =>
    if x.state ≠ 1 ∨ x.cause.isSome ∨ x.next < (geomOf x.tensor x.desc).bytes ∨
        unitsOf (s.core c) 0 p ≠ [] then settleFinal s c p
    else if bit (wordOf x.desc 2) 48 && !x.relStaged then
      if stagingRoom (s.core c) = 0 then s
      else mapCtx (stageUnits s c 0 p x.next x.slot x.rseq [.release]) c p
        fun x => { x with relStaged := true }
    else
      settleFinal (mapCtx (dropCurrent s c p x) c p fun x => { x with state := 2 }) c p

/-- A fault found by the engine stops a context or a stream until CONTEXT_FAULT (R266). -/
def ctxFails (s : State) (c p : Nat) (cause : Cause) : State :=
  mapCtx s c p fun x => { x with cause := some cause }

def ctxFor (x : Ctx) : EngFor := ⟨x.tctx, x.who, x.place⟩

/-- The scope that a code names (R63). -/
def scopeOf (n : Nat) : Scope :=
  match n with
  | 0 => .crew | 1 => .core | 2 => .cluster | 3 => .die | 4 => .package | _ => .domain

/-- The acquire of a copy before its first read, and the signatures as the command begins to
read (R226, R230, R262). -/
def ctxBegin (s : State) (c p : Nat) (x : Ctx) : State × Except Cause Unit :=
  let grown := fun (k : Crew) (x : Ctx) =>
    { x with wsig := x.wsig ||| k.wsig ||| k.asig, wsatd := x.wsatd || k.wsat || k.asat }
  let capture := fun (s : State) => mapCtx s c p fun x =>
    match ownerOf (s.core c) x.who with
    | some k => { grown k x with acqDone := true }
    | none => { x with acqDone := true }
  if !bit (wordOf x.desc 2) 44 then (capture s, .ok ())
  else
    match engXlate s c (ctxFor x) false (fld (wordOf x.desc 3) 55 0) with
    | (s, .error cause) => (s, .error cause)
    | (s, .ok (pa, _)) =>
      let (g, t) := sideRead (s.die (homeOf pa)) (pa / 64)
      let sc := scopeOf (fld (wordOf x.desc 2) 47 45)
      let s := match slotOf (s.core c) x.who with
        | some (slot, _) => acquire s c slot sc [(g, t)]
        | none => acquireActions s c sc (sigMatch g (sigSat g t))
      (capture s, .ok ())

/-- The bytes of the next chunk, numbered in element order: those from `next` that lie in one 256-byte
block of the destination (R260). -/
def chunkBytes (g : Geom) (next : Nat) : List Nat :=
  let block := fun n =>
    ((g.dst.base : Int) + g.offset g.dstr (n / g.esize) + (n % g.esize : Nat)) / 256
  ((List.range 256).map fun i => next + i).takeWhile fun n =>
    decide (n < g.bytes) && block n == block next

/-- Whether effects before the fence that a copy follows have been released (R193). -/
def ctxFenced (co : Core) (x : Ctx) : Bool :=
  co.lodge.any fun e => e.slot == x.slot && decide (e.id ≤ x.fenceId)

/-- The same for a stream. -/
def streamFenced (co : Core) (x : Stream) : Bool :=
  co.lodge.any fun e => e.slot == x.slot && decide (e.id ≤ x.fenceId)

/-- Whether the engine of a core starts nothing more of a crew: the core is halted, a move has
stopped every crew of it, or a debugger holds the crew with FRZENG (R351, R377, R380). -/
def engStopped (co : Core) (who : Nat × BitVec 32) : Bool :=
  co.halted || co.captured ||
    (co.moving.isSome && co.crews.cells.all fun p =>
      isKeeper p.1 || (p.2.still && p.2.region.all fun g => g.again == 1)) ||
    (slotOf co who).any fun p => bit p.2.dbg 0 && bit p.2.dbg 6

/-- Whether the engine may serve a context now (R243, R255, R260, R264). -/
def ctxReady (s : State) (c : Nat) (q : Nat × Ctx) : Bool :=
  let co := s.core c
  let x := q.2
  x.state == 1 && x.cause.isNone && decide (q.1 < 256) && decide (x.after ≤ s.now) &&
    !engStopped co x.who && !ctxFenced co x && decide (x.next < (geomOf x.tensor x.desc).bytes) &&
    (!x.asked || (x.granted && decide (co.engBusy ≤ s.now) && decide (5 ≤ stagingRoom co)))

/-- The next context in turn, by ascending pool number (R260). -/
def nextCtx (s : State) (c : Nat) : Option (Nat × Ctx) :=
  let co := s.core c
  let l := co.ctxs.cells.filter (ctxReady s c)
  match l.find? fun q => decide (co.ctxTurn < q.1) with
  | some q => some q
  | none => l.head?

/-- One chunk moved: its bytes are read and staged, or the context fails there (R260, R266). -/
def moveChunk (s : State) (c p : Nat) (x : Ctx) : State :=
  let g := geomOf x.tensor x.desc
  let l := chunkBytes g x.next
  let es := dedup (l.map fun n => n / g.esize)
  let pairs := es.map fun n =>
    ((g.src.base : Int) + g.offset g.sstr n, (g.dst.base : Int) + g.offset g.dstr n)
  match engMove c (ctxFor x) g.src.space g.dst.space g.esize s pairs with
  | (s, .error cause) => ctxFails s c p cause
  | (s, .ok all) =>
    let names := (es.map fun n => (List.range g.esize).map fun i => n * g.esize + i).flatten
    let bs := ((names.zip all).filter fun q => l.contains q.1).map (·.2)
    let s1 := stageUnits s c 0 p x.next x.slot x.rseq (byteUnits s g.dst.space x.place bs)
    let lines := match g.dst.space with
      | 0 => dedup (bs.map fun (b : Nat × Byte) => b.1 / 256)
      | 2 => match placeCore s x.place with
        | some t => dedup (bs.map fun (b : Nat × Byte) => chipPa t b.1 / 256)
        | none => []
      | _ => []
    engOccupy (mapCtx s1 c p fun y =>
      { y with next := x.next + l.length, wsig := lines.foldl sigAdd y.wsig }) c
      l.length

/-- The pages that the next chunk of a context touches, and that of its location of R262. -/
def chunkPages (x : Ctx) : List (Bool × Nat) :=
  let g := geomOf x.tensor x.desc
  let es := dedup ((chunkBytes g x.next).map fun n => n / g.esize)
  let ends := fun (b : Int) => [b, b + (g.esize : Int) - 1]
  sidePages g.src.space false (es.flatMap fun n => ends ((g.src.base : Int) + g.offset g.sstr n)) ++
    (sidePages g.dst.space true (es.flatMap fun n => ends ((g.dst.base : Int) + g.offset g.dstr n)) ++
      if bit (wordOf x.desc 2) 44 && !x.acqDone then [(false, fld (wordOf x.desc 3) 55 0)] else [])

/-- ENGINE_CHUNK (R260): the next context in turn asks for its unit of current, or moves one
chunk. -/
def execEngineChunk (c : Nat) (s : State) : Out :=
  match nextCtx s c with
  | none => .next s
  | some (p, x) =>
    if !x.asked then
      .next (currentAsk (mapCtx s c p fun x => { x with asked := true }) c (2 + p) 1)
    else
      match engWaits s c (ctxFor x) (chunkPages x) with
      | some s1 => .next s1
      | none =>
      let s1 := s.mapCore c fun co => { co with ctxTurn := p }
      if x.acqDone then .next (moveChunk s1 c p x)
      else match ctxBegin s1 c p x with
        | (s2, .error cause) => .next (ctxFails s2 c p cause)
        | (s2, .ok _) => match (s2.core c).ctxs.get? p with
          | some y => .next (moveChunk s2 c p y)
          | none => .next s2

/-! ### Releasing units (R261, R263) -/

/-- The staging of every die keeps only those units of a core that the core still holds (R211, R214). -/
def trimUnits (s : State) (c : Nat) : State :=
  let ids := (s.core c).units.map (·.id)
  { s with dies := s.dies.mapKV fun _ (d : Die) =>
      { d with units := d.units.filter fun p => p.1 != c || ids.contains p.2 } }

/-- Whether a clause of another core holds a window unit up (R116). -/
def unitHeld (s : State) (u : Unit_) : Bool :=
  match u.kind with
  | .bytes 2 place l (some w) => windowBusy s place w l
  | _ => false

/-- Whether a unit may be released: its region has cleared, its window has run, no earlier unit of
its owner is still staged, it has reached the staging of another home, and no clause holds it up
(R116, R261, R263). -/
def unitDue (s : State) (c : Nat) (u : Unit_) : Bool :=
  !unitHeld s u &&
  u.rseq.isNone && !u.told && (u.home.isNone || u.acked) &&
    decide (u.staged + u.win * clockDiv s c ≤ s.now) &&
    (s.core c).units.all fun v => !(v.owner == u.owner && v.idx == u.idx && decide (v.id < u.id))

/-- An entry of a load stream enters its queue (R269, R303). -/
def entryIn (k : Crew) (q : Nat) (vals : Tab W32) : Crew :=
  match k.queues.get? q with
  | none => k
  | some x =>
    let w := footLanes k.foot
    let base := x.off + x.tail % x.cap * 4 * w
    { (List.range w).foldl (fun (k : Crew) l =>
        (List.range 4).foldl (fun k i => k.scratchPut (base + 4 * l + i) (byteOf (vals.getD l 0) i)) k)
        k with
      queues := k.queues.put q { x with tail := x.tail + 1 } }

/-- The index a unit's stream has, for the advance of rings. -/
def unitTenant (co : Core) (u : Unit_) : Nat :=
  ((co.streams.get? u.idx).map fun x => x.who.1).getD Config.noTenant

/-- Bytes that the engine moved for a crew, counted while the crew is resident (R353). -/
def noteOwner (s : State) (c : Nat) (who : Nat × BitVec 32) (n : Nat) : State :=
  match slotOf (s.core c) who with
  | some (slot, _) => note s c slot 14 n
  | none => s

/-- The effect of a unit at its release (R261, R269, R270). -/
def unitEffect (s : State) (c : Nat) (u : Unit_) (who : Nat × BitVec 32) : State :=
  match u.kind with
  | .bytes 0 _ l _ =>
    noteOwner (l.foldl (fun s p => homeStore s c p.1 [p.2]) s) c who l.length
  | .bytes 1 _ l _ =>
    noteOwner (mapOwner s c who fun k =>
      l.foldl (fun x p => x.scratchPut p.1 p.2) k) c who l.length
  | .bytes _ place l owner =>
    match owner with
    | some w => noteOwner (windowRelease s c place w l) c who l.length
    | none => s
  | .entry q vals => mapOwner s c who fun k => entryIn k q vals
  | .pop q => mapOwner s c who fun k => { k with queues := match k.queues.get? q with
      | some x => k.queues.put q { x with drain := x.drain + 1 }
      | none => k.queues }
  | .advance r take src =>
    let t := unitTenant (s.core c) u
    let s := ringAdvance s c t r u.slot (if take then 0 else 1) (if take then 1 else 0)
    match src with
    | some q => ringAdvance s c t q u.slot 0 1
    | none => s
  | .release | .launch _ | .signal .. => s

/-- For whom a unit's owner works. -/
def unitWho (co : Core) (u : Unit_) : Nat × BitVec 32 :=
  match u.owner with
  | 0 => ((co.ctxs.get? u.idx).map (·.who)).getD (Config.noTenant, 0)
  | 1 => ((co.streams.get? u.idx).map (·.who)).getD (Config.noTenant, 0)
  | _ => ((co.nodes.get? u.idx).map (·.who)).getD (Config.noTenant, 0)

/-- Whether a window unit finds its place absent at its release (R170, R261). -/
def unitAbsent (s : State) (u : Unit_) : Bool :=
  match u.kind with
  | .bytes 2 place _ _ => (placeCore s place).isNone
  | _ => false

/-- A stream that has nothing left in the engine ends, or stops (R269, R282). -/
def settleStream (s : State) (c p : Nat) : State :=
  match (s.core c).streams.get? p with
  | none => s
  | some x =>
    if unitsOf (s.core c) 1 p ≠ [] then s
    else
      let limit := match x.stop with | some (n, _) => n | none => x.total
      let fin := if x.stop.isSome then 5 else 2
      let x' := if x.state = 1 ∧ x.cause.isNone ∧ limit ≤ x.next then { x with state := fin } else x
      let gone := (ownerOf (s.core c) x.who).isNone && decide (x'.state ≠ 1) && x'.state != 3
      let put := fun (t : Tab Stream) => if gone then t.del p else t.put p x'
      s.mapCore c fun co => { co with streams := put co.streams }

/-- What an owner does once a unit of it has left the staging. -/
def settleOwner (s : State) (c : Nat) (u : Unit_) : State :=
  match u.owner with
  | 0 => settleCtx s c u.idx
  | 1 => settleStream s c u.idx
  | _ => s

/-- The order of units released in one cycle: contexts by pool number, then streams, then nodes
(R261). -/
def unitBefore (a b : Unit_) : Bool :=
  decide (a.owner < b.owner) || (a.owner == b.owner &&
    (decide (a.idx < b.idx) || (a.idx == b.idx && decide (a.id < b.id))))

/-- Whether a unit is one that ENGINE_UNIT_RELEASE serves: a release has its own event, and a
node's launch or signal completes with its node. -/
def plainUnit (u : Unit_) : Bool :=
  match u.kind with
  | .release => false
  | _ => true

/-- The unit that is released next on a core. -/
def dueUnit (s : State) (c : Nat) : Option Unit_ :=
  pickBy unitBefore ((s.core c).units.filter fun u =>
    plainUnit u && u.owner != 2 && unitDue s c u)

/-- A window unit whose place is absent at its release stops its owner at that chunk, and the
chunk's units are dropped (R170, R261). -/
def dropAbsent (s : State) (c : Nat) (u : Unit_) : State :=
  let s1 := trimUnits (s.mapCore c fun co => { co with units := co.units.filter fun v =>
    !(v.owner == u.owner && v.idx == u.idx && decide (u.chunk ≤ v.chunk)) }) c
  match u.owner with
  | 0 => mapCtx s1 c u.idx fun x => { x with cause := some .placeAbsent, next := u.chunk }
  | _ => mapStream s1 c u.idx fun x =>
      { x with cause := some .placeAbsent, next := u.chunk, part := 0 }

/-- A unit acts at its home and leaves the staging (R261, R263). -/
def unitActs (s : State) (c : Nat) (u : Unit_) : State :=
  if unitAbsent s u then dropAbsent s c u
  else
    let who := unitWho (s.core c) u
    let s1 := unitEffect s c u who
    let s2 := s1.mapCore c fun co => { co with units := co.units.filter fun v => v.id != u.id }
    settleOwner (trimUnits s2 c) c u

/-- ENGINE_UNIT_RELEASE (R261, R263): a unit homed on its own die acts; for one homed on another
the clear message is sent, unless its place is absent. -/
def execEngineUnitRelease (c : Nat) (s : State) : Out :=
  match dueUnit s c with
  | none => .next s
  | some u =>
    match u.home with
    | none => .next (unitActs s c u)
    | some d =>
      if unitAbsent s u then .next (dropAbsent s c u)
      else .next (netSend (s.mapCore c fun co => { co with units := co.units.map fun v =>
        if v.id = u.id then { v with told := true } else v }) c d (.unitClear u.id))

/-- A release-order `atom.add` of 1 at a scope with a signature (R262, R271). -/
def engSignal (s : State) (c : Nat) (e : EngFor) (va : Nat) (sc : Scope) (sig : BitVec 1024)
    (sat : Bool) : State × Except Cause Unit :=
  match engXlate s c e true va with
  | (s, .error cause) => (s, .error cause)
  | (s, .ok (pa, _)) =>
    let s1 := releaseActions s c sc (sigMatch sig (sigSat sig sat))
    let (s2, _) := atomAt s1 c pa 8 .add false 1 0
    (sidePublish s2 pa (sig, sigSat sig sat) false, .ok ())

/-- COPY_RELEASE (R262): the release unit of a context, once it is due; a release that found the
engine staging full is staged. -/
def execCopyRelease (c p : Nat) (s : State) : Out :=
  match (s.core c).ctxs.get? p, (s.core c).units.find? fun u =>
      u.owner == 0 && u.idx == p && u.kind == .release with
  | some x, some u =>
    if !unitDue s c u then .next s
    else
      let s0 := s.mapCore c fun co => { co with units := co.units.filter fun v => v.id != u.id }
      let va := fld (wordOf x.desc 3) 55 0
      match engSignal s0 c (ctxFor x) va (scopeOf (fld (wordOf x.desc 2) 51 49)) x.wsig x.wsatd with
      | (s1, .error cause) =>
        .next (mapCtx s1 c p fun x => { x with cause := some cause, relStaged := false })
      | (s1, .ok _) => .next (settleCtx s1 c p)
  | _, _ => .next (settleCtx s c p)

/-! ### Faults (R266) -/

/-- CONTEXT_FAULT (R266): the fault that a context or a stream has met puts it in fault wait or
stops it, and goes to the Keeper. -/
def execContextFault (c : Nat) (isStream : Bool) (p : Nat) (s : State) : Out :=
  if isStream then
    match (s.core c).streams.get? p with
    | some x =>
      match x.cause with
      | some cause =>
        if x.state ≠ 1 then .next s
        else
          let s1 := mapStream s c p fun x =>
            { x with state := if cause = .translation then 3 else 4 }
          .next (settleStream (reportCtx s1 c x.who 2 x.idx) c p)
      | none => .next s
    | none => .next s
  else
    match (s.core c).ctxs.get? p with
    | some x =>
      match x.cause with
      | some cause =>
        if x.state ≠ 1 then .next s
        else
          let s1 := if cause = .translation then mapCtx s c p fun x => { x with state := 3 }
            else mapCtx (dropCurrent s c p x) c p fun x => { x with state := 4 }
          .next (settleFinal (reportCtx s1 c x.who 0 x.idx) c p)
      | none => .next s
    | none => .next s

/-- CONTEXT_RESUME (R266): the Keeper has served a translation fault, or fails the context. -/
def execContextResume (c : Nat) (isStream : Bool) (p : Nat) (served : Bool) (s : State) : Out :=
  if isStream then
    match (s.core c).streams.get? p with
    | some x =>
      if x.state ≠ 3 then .next s
      else .next (settleStream (mapStream s c p fun x =>
        if served then { x with state := 1, cause := none } else { x with state := 4 }) c p)
    | none => .next s
  else
    match (s.core c).ctxs.get? p with
    | some x =>
      if x.state ≠ 3 then .next s
      else if served then
        .next (settleCtx (mapCtx s c p fun x => { x with state := 1, cause := none }) c p)
      else .next (settleFinal (mapCtx (dropCurrent s c p x) c p fun x => { x with state := 4 }) c p)
    | none => .next s

/-! ### Stream steps (R268 to R270) -/

def streamFor (x : Stream) : EngFor := ⟨x.tctx, x.who, x.place⟩

/-- Whether a stream may start or go on with a step now. -/
def streamReady (s : State) (c : Nat) (x : Stream) : Bool :=
  let limit := match x.stop with | some (n, _) => n | none => x.total
  x.state == 1 && x.cause.isNone && decide (x.after ≤ s.now) && decide (x.next < limit) &&
    !engStopped (s.core c) x.who && !streamFenced (s.core c) x && decide ((s.core c).engBusy ≤ s.now)

/-- Entries staged for a queue and not yet in it. -/
def stagedEntries (co : Core) (who : Nat × BitVec 32) (q : Nat) : Nat :=
  (co.units.filter fun u => u.owner == 1 && unitWho co u == who &&
    (match u.kind with | .entry r _ => r == q | _ => false)).length
/-- Pops staged for a queue. -/
def stagedPops (co : Core) (who : Nat × BitVec 32) (q : Nat) : Nat :=
  (co.units.filter fun u => u.owner == 1 && unitWho co u == who &&
    (match u.kind with | .pop r => r == q | _ => false)).length

/-- The least cursor over the lanes that hold a live fibre; none without such a lane (R304). -/
def leastCursor (k : Crew) (x : OQueue) : Option Nat :=
  ((liveFibres k).map fun p => x.cur.getD p.1 0).foldl
    (fun m n => some (match m with | some a => min a n | none => n)) none

/-- Whether an in-queue has room for one more entry (R304). -/
def queueRoom (co : Core) (k : Crew) (q : Nat) (x : OQueue) : Bool :=
  let t := x.tail + stagedEntries co (crewId k) q
  decide (t - (leastCursor k x).getD t < x.cap)

/-- Whether an entry of an out-queue is complete: it has been pushed, and every lane of the
mask that holds a live fibre has a released push past it (R305). -/
def entryComplete (k : Crew) (x : OQueue) (mask : W64) (e : Nat) : Bool :=
  x.rel.vals.any (fun n => decide (e < n)) &&
    (liveFibres k).all fun p => !bit mask p.1 || decide (e < x.rel.getD p.1 0)

/-- The value a load stream extends to 32 bits (R269). -/
def extend32 (sx : Bool) (n v : Nat) : W32 :=
  if sx then BitVec.ofInt 32 (sextNat (8 * n) v) else BitVec.ofNat 32 v

/-- The stream that the engine serves has its turn (R260). -/
def streamTurn (s : State) (c p : Nat) : State := s.mapCore c fun co => { co with ctxTurn := 256 + p }

/-- The pages that the next step of a load or a store stream touches. -/
def stepPages (x : Stream) (lanes : List Nat) : List (Bool × Nat) :=
  let base : Int := fld (wordOf x.prog 0) 55 0
  let n := progEsize x.prog
  sidePages (progSpace x.prog) (x.kind == 1) (lanes.flatMap fun l =>
    let a := base + progOffset x.prog x.next l
    [a, a + (n : Int) - 1])

/-- A step of a load stream (R269). -/
def loadStep (s : State) (c p : Nat) (x : Stream) (k : Crew) (q : OQueue) : State :=
  if q.out || !queueRoom (s.core c) k x.q q || stagingRoom (s.core c) = 0 then s
  else
    let n := progEsize x.prog
    let base : Int := fld (wordOf x.prog 0) 55 0
    let lanes := lanesOf (footLanes k.foot) x.mask
    match engWaits s c (streamFor x) (stepPages x lanes) with
    | some s1 => s1
    | none =>
    match eachM (fun s l => engReads c (streamFor x) (progSpace x.prog) n s
        (base + progOffset x.prog x.next l)) s lanes with
    | (s, .error cause) => mapStream s c p fun x => { x with cause := some cause }
    | (s, .ok vs) =>
      let vals := (lanes.zip vs).foldl (fun (t : Tab W32) v =>
        t.put v.1 (extend32 (bit (wordOf x.prog 0) 60) n (ofBytes v.2))) .empty
      engOccupy (mapStream (stageUnits (streamTurn s c p) c 1 p x.next x.slot x.rseq
        [.entry x.q vals]) c p fun x => { x with next := x.next + 1 }) c (n * lanes.length)

/-- A step of a store stream (R269). -/
def storeStep (s : State) (c p : Nat) (x : Stream) (k : Crew) (q : OQueue) : State :=
  let e := q.drain + stagedPops (s.core c) x.who x.q
  if !q.out || !entryComplete k q x.mask e then s
  else
    let n := progEsize x.prog
    let w := footLanes k.foot
    let base : Int := fld (wordOf x.prog 0) 55 0
    let lanes := lanesOf w x.mask
    let at_ := fun (l i : Nat) => q.off + e % q.cap * 4 * w + 4 * l + i
    match engWaits s c (streamFor x) (stepPages x lanes) with
    | some s1 => s1
    | none =>
    match eachM (fun s l =>
        match engTargets c (streamFor x) (progSpace x.prog) n s
          (base + progOffset x.prog x.next l) with
        | (s, .error cause) => (s, .error cause)
        | (s, .ok as_) =>
          (s, .ok (as_.zip ((List.range n).map fun i => k.scratch.getD (at_ l i) 0)))) s lanes with
    | (s, .error cause) => mapStream s c p fun x => { x with cause := some cause }
    | (s, .ok ls) =>
      let us := byteUnits s (progSpace x.prog) x.place ls.flatten ++ [.pop x.q]
      if stagingRoom (s.core c) < us.length then s
      else
        engOccupy (mapStream (stageUnits (streamTurn s c p) c 1 p x.next x.slot x.rseq us) c p
          fun x => { x with next := x.next + 1 }) c (n * lanes.length)

/-- STREAM_STEP (R269): one step of a load or a store stream. -/
def execStreamStep (c p : Nat) (s : State) : Out :=
  match (s.core c).streams.get? p with
  | none => .next s
  | some x =>
    if 1 < x.kind || !streamReady s c x then .next s
    else match sourceOf (s.core c) x.who with
      | none => .next s
      | some k => match k.queues.get? x.q with
        | none => .next s
        | some q =>
          .next (if x.kind = 0 then loadStep s c p x k q else storeStep s c p x k q)

/-- The base address of the ring instance of a core: that of the i-th place of the rectangle
(R290). -/
def ringBase (s : State) (c tenant r : Nat) : Nat :=
  match s.launch? tenant with
  | none => 0
  | some l =>
    match l.rings.get? r with
    | none => 0
    | some d =>
      let ps := (rectOf (l.post.packet.getD 0 0)).places
      let i := (ps.takeWhile fun n => placeCore s n != some c).length
      d.base.toNat + i * d.size * d.count

/-- Advances staged for a ring: of PUT, or of TAKE. -/
def stagedAdvances (co : Core) (tenant r : Nat) (take : Bool) : Nat :=
  (co.units.filter fun u => u.owner == 1 && unitTenant co u == tenant &&
    (match u.kind with
      | .advance q t src => (q == r && t == take) || (take && src == some r)
      | _ => false)).length

/-- The addresses between which a ring step moves its slot: the spaces and the first bytes of
source and destination, if the step can go on (R270). -/
def ringSides (s : State) (c : Nat) (x : Stream) : Option ((Nat × Int) × (Nat × Int)) :=
  let co := s.core c
  let t := x.who.1
  let size := (((s.launch? t).bind fun l => l.rings.get? x.q).map (·.size)).getD 0
  let mem : Nat × Int := (progSpace x.prog,
    (fld (wordOf x.prog 0) 55 0 : Nat) + progOffset x.prog x.next 0)
  let slot := fun (r : Nat) (i : Nat) =>
    ((0, ((ringBase s c t r + i % 2 ^ 32 % max 1 (ringCount s t r) * size : Nat) : Int)) : Nat × Int)
  let put := stagedAdvances co t x.q false
  let free := decide (ringFillOf co t x.q + put < ringCount s t x.q)
  let dst := slot x.q ((ringAt co t x.q).1.toNat + put)
  match x.kind with
  | 2 => if free then some (mem, dst) else none
  | 3 =>
    let tk := stagedAdvances co t x.src true
    if free && decide (tk < ringFillOf co t x.src) then
      some (slot x.src ((ringAt co t x.src).2.1.toNat + tk), dst)
    else none
  | 4 =>
    let tk := stagedAdvances co t x.q true
    if decide (tk < ringFillOf co t x.q) then
      some (slot x.q ((ringAt co t x.q).2.1.toNat + tk), mem)
    else none
  | _ => none

/-- The unit that ends a ring step (R270). -/
def ringUnit (x : Stream) : UKind :=
  match x.kind with
  | 2 => .advance x.q false none
  | 3 => .advance x.q false (some x.src)
  | _ => .advance x.q true none

/-- RING_STREAM_STEP (R270): the slot's bytes are staged as far as the engine staging has room,
and then the advance of the ring's counters. -/
def execRingStreamStep (c p : Nat) (s : State) : Out :=
  match (s.core c).streams.get? p with
  | none => .next s
  | some x =>
    if x.kind ≤ 1 || !streamReady s c x then .next s
    else match ringSides s c x with
      | none => .next s
      | some (src, dst) =>
        let size := (((s.launch? x.who.1).bind fun l => l.rings.get? x.q).map (·.size)).getD 0
        let room := stagingRoom (s.core c)
        if size ≤ x.part then
          if room = 0 then .next s
          else .next (mapStream (stageUnits s c 1 p x.next x.slot x.rseq [ringUnit x]) c p
            fun x => { x with next := x.next + 1, part := 0 })
        else
          let n := min (size - x.part) (64 * (room - 1))
          if room ≤ 1 then .next s
          else
            let pairs := (List.range n).map fun i =>
              (src.2 + ((x.part + i : Nat) : Int), dst.2 + ((x.part + i : Nat) : Int))
            match engWaits s c (streamFor x) (sidePages src.1 false (pairs.map (·.1)) ++
                sidePages dst.1 true (pairs.map (·.2))) with
            | some s1 => .next s1
            | none =>
            match engMove c (streamFor x) src.1 dst.1 1 s pairs with
            | (s, .error cause) => .next (mapStream s c p fun x => { x with cause := some cause })
            | (s, .ok bs) =>
              let us := byteUnits s dst.1 x.place bs
              .next (engOccupy (mapStream (stageUnits (streamTurn s c p) c 1 p x.next x.slot x.rseq us)
                c p fun x => { x with part := x.part + n }) c n)

/-! ### The dependence graph (R271 to R273) -/

/-- A node freed: its generation rises, and no node has it as a successor any longer. -/
def freeNode (s : State) (c n : Nat) : State :=
  match (s.core c).nodes.get? n with
  | none => s
  | some x =>
    let s1 := match x.ctx with
      | some p => freeCtx s c p true
      | none => s
    raiseGen (s1.mapCore c fun co =>
      { co with nodes := (co.nodes.del n).mapKV fun _ (y : Node) =>
          { y with succ := y.succ.filter fun j => j != n } }) c x.who 1 x.idx

/-- A node that fails (R272): its cause goes to the Keeper, and it lowers no count. -/
def failNode (s : State) (c n : Nat) (x : Node) (cause : Cause) : State :=
  let s1 := mapNode s c n fun x => { x with state := 5, cause := some cause, fin := false }
  let s2 := reportCtx s1 c x.who 1 x.idx
  if (ownerOf (s2.core c) x.who).isNone then freeNode s2 c n else s2

/-- The copy that a node starts: its place is resolved now (R272, R278). -/
def startCopy (s : State) (c n : Nat) (x : Node) : State :=
  let co := s.core c
  let tensor := decide (x.kind = 1)
  let slot := ((slotOf co x.who).map (·.1)).getD 0
  match sourceOf co x.who with
  | none => failNode s c n x .scratchBound
  | some k =>
    match copyTrap s c slot k tensor x.payload ⟨0, 0, 0⟩ with
    | some e => failNode s c n x e
    | none =>
      match freeKey co.ctxs 256, freeIdx co x.who 0 with
      | some p, some idx =>
        let (s1, id) := freshId s c
        let ctx := { newCtx s1 slot k idx false tensor x.payload
          (copyPlace s c slot k ⟨0, 0, 0⟩) false (some n) s.now id with tctx := x.tctx }
        mapNode (s1.mapCore c fun co => { co with ctxs := co.ctxs.put p ctx }) c n
          fun x => { x with state := 3, ctx := some p }
      | _, _ => s

/-- NODE_START (R272): an armed node whose PRED is 0 starts its copy, launch or signal. -/
def execNodeStart (c n : Nat) (s : State) : Out :=
  match (s.core c).nodes.get? n with
  | none => .next s
  | some x =>
    if x.state ≠ 2 ∨ x.pred ≠ 0 then .next s
    else if x.kind ≤ 1 then .next (startCopy s c n x)
    else if stagingRoom (s.core c) = 0 then .next s
    else
      let va : BitVec 56 := (wordOf x.payload 0).setWidth 56
      let sig := match ownerOf (s.core c) x.who with
        | some k => pubSig k
        | none => (0, false)
      let u : UKind := if x.kind = 2 then .launch va
        else .signal va (fld (wordOf x.payload 1) 2 0) sig.1 sig.2
      .next (mapNode (stageUnits s c 2 n 0 x.slot none [u]) c n fun x => { x with state := 3 })

/-- A completed node lowers the counts of its successors, and is freed unless KEEP is set
(R272, R273). -/
def nodeDone (s : State) (c n : Nat) (x : Node) : State :=
  let s1 := x.succ.foldl (fun s j => mapNode s c j fun y => { y with pred := y.pred - 1 }) s
  if x.keep && (ownerOf (s1.core c) x.who).isSome then
    let s2 := match x.ctx with | some p => freeCtx s1 c p true | none => s1
    mapNode s2 c n fun x => { x with state := 4, fin := false, cause := none, ctx := none }
  else freeNode s1 c n

/-- The launch that a node submits, read as a walker reads a packet (R271, R309): the words, or
none where the read fails. -/
def packetWords (s : State) (c : Nat) (e : EngFor) (va : Nat) : State × Option (List W64) :=
  match eachM (fun s i => engXlate s c e false (va + i)) s (List.range 64) with
  | (s, .error _) => (s, none)
  | (s, .ok l) =>
    let s := (l.map (·.1)).foldl homeCollect s
    let bytes := l.map fun p => homeGet s p.1
    (s, some ((List.range 8).map fun i => BitVec.ofNat 64 (ofBytes ((bytes.drop (8 * i)).take 8))))

/-- The unit of a node, once it is due: a launch is submitted, a signal performed (R271). -/
def nodeUnit (s : State) (c n : Nat) (x : Node) (u : Unit_) : State :=
  let s0 := s.mapCore c fun co => { co with units := co.units.filter fun v => v.id != u.id }
  let e : EngFor := ⟨x.tctx, x.who, 0⟩
  match u.kind with
  | .signal va sc sig sat =>
    match engSignal s0 c e va.toNat (scopeOf sc) sig sat with
    | (s1, .error cause) => failNode s1 c n x cause
    | (s1, .ok _) => nodeDone s1 c n x
  | .launch va =>
    match packetWords s0 c e va.toNat with
    | (s1, none) =>
      failNode (report s1 c .launchRefused x.slot 0 (va.setWidth 64) 0) c n x .launchRefused
    | (s1, some ws) =>
      if noLaunch ws then
        failNode (report s1 c .launchRefused x.slot 0 (va.setWidth 64) 0) c n x .launchRefused
      else match submitLaunch s1 (crewPosted s1 x.who.1 ws va (some (c, n)) none) with
      | some s2 => s2
      | none => s
  | _ => s0

/-- NODE_COMPLETE (R272): the work a node started is done, or its unit is due. -/
def execNodeComplete (c n : Nat) (s : State) : Out :=
  match (s.core c).nodes.get? n with
  | none => .next s
  | some x =>
    if x.state ≠ 3 then .next s
    else match (s.core c).units.find? fun u => u.owner == 2 && u.idx == n with
      | some u => if unitDue s c u then .next (nodeUnit s c n x u) else .next s
      | none =>
        -- the crews of the launch that it submitted have ended, and their regions have cleared (R271)
        let ended := s.mod.launches.cells.find? fun p => p.2.post.node == some (c, n) &&
          decide (launchCrews p.2 ≤ p.2.taken) && p.2.alive.isEmpty
        if !x.fin then
          match ended with
          | some (a, _) => .next (nodeDone (s.mapLaunch a fun l => { l with post := { l.post with node := none } }) c n x)
          | none => .next s
        else match x.cause with
          | some cause => .next (failNode s c n x cause)
          | none => .next (nodeDone s c n x)

/-! ### The engine at a clear, at a squash, and at the end of a crew (R263 to R265, R273) -/

/-- A region clears: its units, contexts and streams lose their tag, and its armed nodes take
effect (R263, R273). -/
def engineClear (s : State) (c slot : Nat) (rseq : BitVec 16) : State :=
  let un := fun (o : Option (BitVec 16)) => if o = some rseq then none else o
  s.mapCore c fun co =>
    let mine := fun (x : Nat) => x == slot
    { co with
      units := co.units.map fun u => if mine u.slot then { u with rseq := un u.rseq } else u
      ctxs := co.ctxs.mapKV fun _ (x : Ctx) =>
        if mine x.slot then { x with rseq := un x.rseq } else x
      streams := co.streams.mapKV fun _ (x : Stream) =>
        if mine x.slot then
          { x with born := un x.born, rseq := un x.rseq
                   stop := x.stop.map fun p => (p.1, un p.2) }
        else x
      nodes := co.nodes.mapKV fun _ (x : Node) =>
        if mine x.slot then
          { x with bornSeq := un x.bornSeq, armSeq := un x.armSeq
                   links := x.links.filter fun l => l.2 != rseq
                   state := if x.armSeq = some rseq && x.state == 1 then 2 else x.state }
        else x }

/-- A context or a stream that lost units goes back to its earliest chunk with one, and runs on
no earlier than 8 cycles later (R264). -/
def rewindTo (l : List Unit_) (owner p : Nat) : Option Nat :=
  (l.filter fun u => u.owner == owner && u.idx == p).foldl
    (fun m u => some (match m with | some a => min a u.chunk | none => u.chunk)) none

/-- The commands of a squashed region are cancelled: contexts and streams that it issued, nodes
that it created, links and arms that it added (R264, R273). -/
def engineCancel (s : State) (c slot : Nat) (rseq : BitVec 16) : State :=
  let hit := fun (x : Nat) (o : Option (BitVec 16)) => x == slot && o == some rseq
  let s1 := ((s.core c).ctxs.cells.filter fun p => hit p.2.slot p.2.rseq).foldl
    (fun s p => freeCtx s c p.1 false) s
  -- counts that links of the region raised
  let lost := ((s1.core c).nodes.vals.filter fun x => x.slot == slot).map fun x =>
    (x.links.filter fun l => l.2 == rseq).map (·.1)
  let s2 := lost.flatten.foldl (fun s j => mapNode s c j fun y => { y with pred := y.pred - 1 }) s1
  trimUnits (s2.mapCore c fun co =>
    { co with
      units := co.units.filter fun u => !hit u.slot u.rseq
      streams := (co.streams.keep fun _ (x : Stream) => !hit x.slot x.born).mapKV
        fun _ (x : Stream) =>
          let y := if hit x.slot x.rseq then
              { x with state := 0, next := 0, part := 0, rseq := none, cause := none }
            else x
          match y.stop with
          | some (_, t) =>
            if hit y.slot t then
              { y with stop := none, state := if y.state = 5 then y.before else y.state }
            else y
          | none => y
      nodes := (co.nodes.keep fun _ (x : Node) => !hit x.slot x.bornSeq).mapKV
        fun _ (x : Node) =>
          if x.slot = slot then
            { x with armSeq := if x.armSeq = some rseq then none else x.armSeq
                     succ := (List.range x.succ.length).filterMap fun i =>
                       let old := x.succ.length - (x.links.filter fun l => l.2 == rseq).length
                       if i < old then x.succ[i]? else none
                     links := x.links.filter fun l => l.2 != rseq }
          else x }) c

/-- A sensor report reaches the engine of a core (R264): every unit not yet released is squashed
and its context or stream rewinds; the commands of the squashed regions are cancelled. -/
def engineSquash (s : State) (c : Nat) (regions : List (Nat × BitVec 16)) : State :=
  let s1 := regions.foldl (fun s p => engineCancel s c p.1 p.2) s
  let us := (s1.core c).units.filter fun u => !u.told
  trimUnits (s1.mapCore c fun co =>
    { co with
      units := co.units.filter (·.told)
      ctxs := co.ctxs.mapKV fun p (x : Ctx) =>
        match rewindTo us 0 p with
        | some n =>
          let rel := us.any fun u => u.owner == 0 && u.idx == p && u.kind == .release
          let st := if x.state = 4 then 1 else x.state
          let cause := if x.state = 4 then none else x.cause
          { x with next := n, after := s.now + 8 * clockDiv s c, relStaged := x.relStaged && !rel
                   state := st, cause }
        | none => x
      streams := co.streams.mapKV fun p (x : Stream) =>
        match rewindTo us 1 p with
        | some n =>
          let st := if x.state = 4 then 1 else x.state
          let cause := if x.state = 4 then none else x.cause
          { x with next := n, part := 0, after := s.now + 8 * clockDiv s c, state := st, cause }
        | none => x
      nodes := co.nodes.mapKV fun p (x : Node) =>
        if us.any (fun u => u.owner == 2 && u.idx == p) then { x with state := 2 } else x }) c

/-- Whether copies, streams or nodes of a crew are left on a core. -/
def commandsLeft (co : Core) (who : Nat × BitVec 32) : Bool :=
  (co.ctxs.vals.any fun (x : Ctx) => x.who == who) ||
    (co.streams.vals.any fun (x : Stream) => x.who == who) ||
    co.nodes.vals.any fun (x : Node) => x.who == who

/-- Ended crews stand in the state as long as a command of theirs runs (R265). -/
def trimGhosts (s : State) (c : Nat) : State :=
  if (s.core c).ghosts.all fun k => commandsLeft (s.core c) (crewId k) then s
  else s.mapCore c fun co =>
    { co with ghosts := co.ghosts.filter fun k => commandsLeft co (crewId k) }

/-- The end of a crew once its last region has cleared (R255, R273): building nodes are freed,
and what is final is freed with it. -/
def engineGone (s : State) (c : Nat) (who : Nat × BitVec 32) : State :=
  let co := s.core c
  let nodes := co.nodes.cells.filter fun p => p.2.who == who
  let s1 := (nodes.filter fun p => p.2.state == 1 || p.2.state == 4 || p.2.state == 5).foldl
    (fun s p => freeNode s c p.1) s
  let s2 := (((s1.core c).ctxs.cells.filter fun p => p.2.who == who).map (·.1)).foldl
    (fun s p => settleFinal s c p) s1
  let s3 := s2.mapCore c fun co => { co with
    streams := co.streams.keep fun _ (x : Stream) => !(x.who == who && x.state == 0) }
  (((s3.core c).streams.cells.filter fun p => p.2.who == who).map (·.1)).foldl
    (fun s p => settleStream s c p) s3

end Sys2Proof.Machine
end

