-- ==== Sys2Proof/Machine/Queue.lean ====
section
/-! DEFINITION. Spawn, launch, operand queues, rings and gates as crews use them, 0x1B0 to 0x1C2
(R299 to R315): the waits at position 0, which the front end checks before a clause issues, and
the meanings. -/
namespace Sys2Proof.Machine
open Sys2Proof

/-! ### Waits at position 0 (R304, R305, R307, R313, R314) -/

/-- The queue of a crew in a direction. -/
def queueOf (k : Crew) (q : Nat) (out : Bool) : Option OQueue :=
  (k.queues.get? q).filter fun x => x.out == out

/-- The stream bound last to a queue, while it is still known (R304). -/
def lastStream (co : Core) (k : Crew) (x : OQueue) : Option (Nat × Stream) :=
  match x.last with
  | some (i, gen) => if genOf k 2 i = gen then streamOf co (crewId k) i else none
  | none => none

/-- What an empty in-queue does to a fibre (R304): it waits, or ORPHAN_QUEUE. -/
def emptyWait (co : Core) (k : Crew) (q : Nat) (x : OQueue) : Option Wait :=
  if x.last.isNone then some (.queueEmpty q)
  else match lastStream co k x with
    | some (_, st) =>
      if st.state = 3 then some (.producerFault q)
      else if st.state ≤ 1 ∨ stagedEntries co (crewId k) q ≠ 0 then some (.queueEmpty q)
      else none
    | none => if stagedEntries co (crewId k) q ≠ 0 then some (.queueEmpty q) else none

/-- Released fill and room of a ring (R306). -/
def ringRoomOf (s : State) (c tenant r : Nat) : W32 :=
  BitVec.ofNat 32 (ringCount s tenant r) - BitVec.ofNat 32 (ringFillOf (s.core c) tenant r)

/-- The wait that holds a fibre out of a clause whose position 0 is this instruction, none when
it may issue (R307). -/
def firstWait (s : State) (r : Run) (x : LaneCtx) (i : Instr) : Option Wait :=
  let co := s.core r.core
  match i with
  | .qpop _ q =>
    match queueOf x.crew q.toNat false with
    | some y => if (replayed x).isNone && y.cur.getD x.lane 0 == y.tail then
        emptyWait co x.crew q.toNat y else none
    | none => none
  | .qpush _ q =>
    match queueOf x.crew q.toNat true with
    | some y => if y.cur.getD x.lane 0 - y.drain = y.cap then some (.queueFull q.toNat) else none
    | none => none
  | .sigFill _ true rg _ n =>
    let v := (srcVal x.crew r x.lane false n).toNat
    if (ringDecl s x.crew rg.toNat).isSome && ringFillOf co x.crew.tenant rg.toNat < v then
      some (.ring rg.toNat false v) else none
  | .sigRoom _ true rg _ n =>
    let v := (srcVal x.crew r x.lane false n).toNat
    if (ringDecl s x.crew rg.toNat).isSome &&
        (ringRoomOf s r.core x.crew.tenant rg.toNat).toNat < v then
      some (.ring rg.toNat true v) else none
  | .gate _ k => if gateOpen s x.crew.tenant k.toNat then none else some (.gate k.toNat)
  | _ => none

/-- The guard of the instructions that `firstWait` knows. -/
def waitGuard : Instr → Option Guard
  | .qpop g _ | .qpush g _ | .sigFill g true .. | .sigRoom g true .. | .gate g _ => some g
  | _ => none

/-- Fibres leave the batch and block with their continuation at its position (R53, R307). -/
def blockFibres (s : State) (r : Run) (l : List (Nat × Nat × Wait)) : State × Run :=
  l.foldl (fun (p : State × Run) (lane, slot, w) =>
    (p.1.mapFibre r.core slot lane fun f =>
      { f with pc := r.clause, rpos := r.pos, rlat := laneLatches r lane, st := .blocked w },
      p.2.drop lane slot)) (s, r)

/-- The fibres whose wait at an instruction has not ended. -/
def waiting (s : State) (r : Run) (i : Instr) : List (Nat × Nat × Wait) :=
  match waitGuard i with
  | none => []
  | some g => (activeLanes s r g).filterMap fun x =>
      (firstWait s r x i).map fun w => (x.lane, x.slot, w)

/-- Deque entries that held spawns of a core have reserved (R53). -/
def dequeReserved (co : Core) : Nat :=
  (co.lodge.map fun e => match e.eff with | .children l => l.length | _ => 0).sum

def dequeFree (co : Core) : Nat := 256 - co.deque.length - dequeReserved co

/-- Whether what a blocked fibre waits for has come about (R38, R304, R305, R313, R314). -/
def waitOver (s : State) (c : Nat) (k : Crew) (lane : Nat) (w : Wait) : Bool :=
  let co := s.core c
  match w with
  | .queueEmpty q | .producerFault q =>
    match queueOf k q false with
    | some y => y.cur.getD lane 0 != y.tail || emptyWait co k q y != some w
    | none => true
  | .queueFull q =>
    match queueOf k q true with
    | some y => y.cur.getD lane 0 - y.drain != y.cap
    | none => true
  | .ring r room v =>
    if room then decide (v ≤ (ringRoomOf s c k.tenant r).toNat)
    else decide (v ≤ ringFillOf co k.tenant r)
  | .gate n => gateOpen s k.tenant n
  | .cwait h => match handleStatus co k h with
    | .ok none => false
    | _ => true
  | .deque n => decide (n ≤ dequeFree co)
  | _ => false

/-! ### Held effects of one entry for each crew (R159) -/

/-- The crews of a batch that have an active fibre. -/
def activeSlots (l : List LaneCtx) : List Nat := dedup (l.map (·.slot))

/-- One lodge entry for each crew with its effect, and the end of the position. -/
def holdPerCrew (s : State) (r : Run) (kind : LKind) (extra : Nat)
    (l : List (Nat × Option Nat × Effect)) : State :=
  if !lodgeRoom s r l.length then holdLodge s r l.length
  else finish (l.foldl (fun s p => lodgeEffect s r.core p.1 kind p.2.1 p.2.2) s) r extra

/-! ### spawn (R301, R302, R308) -/

/-- The numbers that a crew's children take: its reserve first, then the child count; none when
the count would give 0xFFFF_FFFF (R108, R302). -/
def childNumbers (s : State) (k : Crew) (n : Nat) : Option (List (BitVec 32)) :=
  match crewLaunch s k with
  | none => none
  | some l =>
    let own := k.reserve.take n
    let more := n - own.length
    if 0xFFFFFFFF < l.childs + more then none
    else some (own ++ (List.range more).map fun i => BitVec.ofNat 32 (l.childs + i))

/-- The crew-level traps of `spawn` (R308), for a crew whose launch has given `before` more numbers
to other crews of the batch. -/
def spawnTrap (s : State) (k : Crew) (n before : Nat) : Option Cause :=
  if 8 ≤ k.depth then some .spawnDepth
  else if (childNumbers (s.mapLaunch k.tenant fun l => { l with childs := l.childs + before }) k
      n).isNone then some .crewNumber
  else none

/-- The traps of the crews of a batch at `spawn`, crew after crew in the order of their numbers
(R301, R308). -/
def spawnTraps (s : State) (r : Run) (t : Src) (ofCrew : Nat → List LaneCtx) :
    Nat → List Nat → List (Nat × Nat × Cause × W64)
  | _, [] => []
  | before, slot :: rest =>
    let xs := ofCrew slot
    let k := s.crew? r.core slot
    let mine := match k.bind fun k => spawnTrap s k xs.length before with
      | some e => xs.map fun x => (x.lane, slot, e, (0 : W64))
      | none => (xs.filter fun x => !targetOk (srcVal x.crew r x.lane true t)).map fun x =>
          (x.lane, slot, Cause.targetAlignment, (0 : W64))
    let more := if mine.isEmpty then xs.length - (k.map (·.reserve.length)).getD 0 else 0
    mine ++ spawnTraps s r t ofCrew (before + more) rest

/-- The share of a budget that one of n children receives (R301). -/
def childShare (b : BitVec 48) (f n : Nat) : BitVec 48 := BitVec.ofNat 48 (b.toNat * f / (16 * n))

/-- One crew spawns (R301): numbers, budgets and the held entry. -/
def spawnCrew (f : Nat) (t arg : Src) (r : Run) (s : State) (slot : Nat) (l : List LaneCtx) :
    State :=
  match s.crew? r.core slot with
  | none => s
  | some k =>
    match childNumbers s k l.length with
    | none => s
    | some ns =>
      let ib := childShare k.ib f l.length
      let mb := childShare k.mb f l.length
      let cs := (l.zip ns).map fun (x, n) =>
        { launch := k.tenant, number := n, depth := k.depth + 1
          entry := (srcVal k r x.lane true t).setWidth 56, sparg := srcVal k r x.lane true arg
          ib, mb : Child }
      let used := min k.reserve.length l.length
      let s1 := s.mapCrew r.core slot fun k =>
        { k with reserve := k.reserve.drop used, taken := k.taken ++ ns
                 ib := k.ib - BitVec.ofNat 48 (ib.toNat * l.length)
                 mb := k.mb - BitVec.ofNat 48 (mb.toNat * l.length) }
      let s2 := s1.mapLaunch k.tenant fun a => { a with childs := a.childs + (l.length - used) }
      lodgeEffect s2 r.core slot .spawn none (.children cs)

/-- Slots in the order of their crews' numbers (R301). -/
def byNumber (s : State) (c : Nat) (slots : List Nat) : List Nat :=
  slots.foldl (fun l x =>
    let num := fun y => ((s.crew? c y).map fun k => k.number.toNat).getD 0
    (l.filter fun y => num y ≤ num x) ++ x :: l.filter fun y => num x < num y) []

/-- `spawn` (R308): a crew that traps creates no child from this issue. -/
def execSpawn (g : Guard) (f : BitVec 5) (t arg : Src) (s : State) : Out :=
  issue (fun s r => regsOf (r.narrow s) (.spawn g f t arg)) (fun s r =>
    let l := activeLanes s r g
    let slots := byNumber s r.core (activeSlots l)
    let ofCrew := fun slot => l.filter fun x => x.slot == slot
    let bad := spawnTraps s r t ofCrew 0 slots
    let ok := slots.filter fun x => !bad.any fun b => b.2.1 == x
    let need := (ok.map fun x => (ofCrew x).length).sum
    if dequeFree (s.core r.core) < need then
      -- the wait is a blocking point: the fibres leave the batch, which has taken its charge (R53)
      let (s1, r1) := blockFibres s r (r.fibres.map fun p => (p.1, p.2, Wait.deque need))
      finish (r.fibres.foldl (fun s p => s.mapFibre r.core p.2 p.1 fun f => { f with paid := true }) s1)
        r1 0
    else if !lodgeRoom s r ok.length then holdLodge s r ok.length
    else
      let (s1, r1) := trapFibres s r bad
      finish (ok.foldl (fun s x => spawnCrew f.toNat t arg r s x (ofCrew x)) s1) r1 2) s

/-! ### launch (R309) -/

def execLaunch (g : Guard) (p : Src) (s : State) : Out :=
  issue (fun s r => regsOf (r.narrow s) (.launch g p)) (fun s r =>
    let l := (activeLanes s r g).map fun x => (x, srcVal x.crew r x.lane true p)
    let bad := (l.filter fun y => fld y.2 5 0 != 0).map fun y =>
      (y.1.lane, y.1.slot, Cause.alignment, (0 : W64))
    let ok := l.filter fun y => fld y.2 5 0 == 0
    let slots := dedup (ok.map fun y => y.1.slot)
    if !lodgeRoom s r slots.length then holdLodge s r slots.length
    else
      let (s1, r1) := trapFibres s r bad
      holdPerCrew s1 r1 .spawn 0 (slots.map fun x =>
        (x, none, .launch ((ok.filter fun y => y.1.slot == x).map fun y =>
          y.2.setWidth 56)))) s

/-! ### qbind (R303, R310) -/

/-- Fields of the spec register. -/
def qsOut (w : W64) : Bool := bit w 31
def qsUnbind (w : W64) : Bool := bit w 30
def qsCap (w : W64) : Nat := fld w 29 24 + 1
def qsOff (w : W64) : Nat := fld w 19 0

/-- Whether a lane of a queue holds an entry (R310). -/
def queueHolds (k : Crew) (x : OQueue) : Bool :=
  if x.out then x.cur.vals.any fun n => decide (x.drain < n)
  else (liveFibres k).any fun p => decide (x.cur.getD p.1 0 < x.tail)

/-- Whether a stream that is not final is bound to a queue (R310). -/
def queueStreamed (co : Core) (k : Crew) (q : Nat) : Bool :=
  co.streams.vals.any fun x => x.who == crewId k && x.q == q && decide (x.kind ≤ 1) &&
    (x.state ≤ 1 || x.state == 3)

/-- The traps of `qbind` in order (R310). -/
def qbindTrap (s : State) (c : Nat) (k : Crew) (q d : Nat) (w : W64) : Option Cause :=
  let wd := footLanes k.foot
  if fld w 23 20 ≠ 0 then some .format
  else if qsOff w % (4 * wd) ≠ 0 then some .alignment
  else if scratchBytes k.foot < qsOff w + qsCap w * 4 * wd then some .scratchBound
  else match k.queues.get? q with
    | some x =>
      if x.out ≠ qsOut w ∨ x.cap ≠ qsCap w ∨ x.off ≠ qsOff w ∨ x.reg ≠ d then some .queueState
      else if qsUnbind w && (queueHolds k x || queueStreamed (s.core c) k q) then some .queueState
      else none
    | none => if qsUnbind w then some .queueState else none

/-- A binding made or removed; an identical one has no effect (R310). -/
def qbindDo (k : Crew) (q d : Nat) (w : W64) : Crew :=
  if qsUnbind w then { k with queues := k.queues.del q }
  else if (k.queues.get? q).isSome then k
  else
    let x : OQueue :=
      { out := qsOut w, cap := qsCap w, off := qsOff w, reg := d, tail := 0, cur := .empty
        drain := 0, rel := .empty, pend := .empty, last := none, fresh := true }
    { k with queues := k.queues.put q x }

def execQbind (g : Guard) (q : BitVec 2) (d : BitVec 8) (spec : Src) (s : State) : Out :=
  issue (fun s r => regsOf (r.narrow s) (.qbind g q d spec)) (fun s r =>
    let l := activeLanes s r g
    let per := (activeSlots l).filterMap fun slot =>
      (l.find? fun x => x.slot == slot).map fun x =>
        let w := srcVal x.crew r x.lane false spec
        (slot, w, qbindTrap s r.core x.crew q.toNat d.toNat w)
    let bad := l.filterMap fun x =>
      (per.find? fun p => p.1 == x.slot).bind fun p => p.2.2.map fun e =>
        (x.lane, x.slot, e, (0 : W64))
    let (s1, r1) := trapFibres s r bad
    finish (per.foldl (fun s p => match p.2.2 with
      | none => s.mapCrew r.core p.1 fun k => qbindDo k q.toNat d.toNat p.2.1
      | some _ => s) s1) r1 0) s

/-! ### qpop and qpush (R304, R305, R311, R312) -/

/-- The queue-mapped registers that an issue touches (R67, R303). -/
def mappedRegs (q : Nat) (s : State) (r : Run) : List (Nat × Nat) :=
  r.slots.filterMap fun x => ((s.crew? r.core x).bind fun k => k.queues.get? q).map fun y =>
    (y.reg, 1)

/-- Byte i of entry e of a lane (R303). -/
def entryByte (k : Crew) (x : OQueue) (e lane i : Nat) : Nat :=
  x.off + e % x.cap * 4 * footLanes k.foot + 4 * lane + i

/-- The value of an entry: what the crew's scratchpad holds there (R303). -/
def entryVal (s : State) (c slot : Nat) (k : Crew) (x : OQueue) (e lane : Nat) : W32 :=
  BitVec.ofNat 32 (ofBytes ((List.range 4).map fun i =>
    scrByte s c slot k (entryByte k x e lane i)))

/-- Fibres of an operand-queue instruction that trap: QUEUE_STATE, and for `qpop` ORPHAN_QUEUE
on an empty queue that no stream will fill (R304, R311, R312). -/
def queueTraps (s : State) (r : Run) (q : Nat) (out : Bool) (l : List LaneCtx) :
    List (Nat × Nat × Cause × W64) :=
  l.filterMap fun x =>
    match queueOf x.crew q out with
    | none => some (x.lane, x.slot, .queueState, 0)
    | some y =>
      if !out && (replayed x).isNone && y.cur.getD x.lane 0 == y.tail &&
          (emptyWait (s.core r.core) x.crew q y).isNone then
        some (x.lane, x.slot, .orphanQueue, 0)
      else none

/-- A cursor raised by one. -/
def bumpCursor (s : State) (c slot q lane : Nat) : State :=
  s.mapCrew c slot fun k => { k with queues := match k.queues.get? q with
    | some x => k.queues.put q { x with cur := x.cur.put lane (x.cur.getD lane 0 + 1) }
    | none => k.queues }

/-- `qpop` (R304, R311): a commit point, scoreboarded. -/
def execQpop (g : Guard) (q : BitVec 2) (s : State) : Out :=
  issue (mappedRegs q.toNat) (fun s r =>
    if sbFull s r then retryRun s r
    else
      let bad := queueTraps s r q.toNat false (activeLanes s r g)
      let (s1, r1) := trapFibres s r bad
      let (s2, r2) := blockFibres s1 r1 (waiting s1 r1 (.qpop g q))
      let l := (activeLanes s2 r2 g).filterMap fun x =>
        (queueOf x.crew q.toNat false).map fun y => (x, y)
      let vals := l.map fun (x, y) =>
        (x, y, match replayed x with
          | some v => v
          | none => (entryVal s2 r2.core x.slot x.crew y (y.cur.getD x.lane 0) x.lane).setWidth 128)
      let todo := vals.filter fun p => (replayed p.1).isNone
      let s3 := todo.foldl (fun s p => bumpCursor s r2.core p.1.slot q.toNat p.1.lane) s2
      let s4 := recordReplay s3 r2.core (todo.map fun p => (p.1, p.2.2))
      let fl := vals.map fun p =>
        (p.1, readyLane (.reg (BitVec.ofNat 8 p.2.1.reg)) 1 4 false p.2.2.toNat)
      finish (addFlights s4 r2 (lanesTab fl)) r2 0) s

/-- The sector writes of a push (R305). -/
def pushSectors (c : Nat) (l : List (LaneCtx × OQueue)) : List SectorW :=
  l.foldl (fun ws (x, y) => (List.range 4).foldl (fun ws i =>
    sectorAdd (chipPa c (x.crew.sbase + entryByte x.crew y (y.cur.getD x.lane 0) x.lane i))
      (byteOf (regGet x.crew y.reg x.lane) i) 0 0 false none .bytes ws) ws) []

/-- `qpush` (R305, R312): a held scratchpad write of the queue-mapped register. -/
def execQpush (g : Guard) (q : BitVec 2) (s : State) : Out :=
  issue (mappedRegs q.toNat) (fun s r =>
    let bad := queueTraps s r q.toNat true (activeLanes s r g)
    let wait := waiting s r (.qpush g q)
    let l := ((activeLanes s r g).filter fun x => !wait.any fun p => p.1 == x.lane && p.2.1 == x.slot)
      |>.filterMap fun x => (queueOf x.crew q.toNat true).map fun y => (x, y)
    let per := r.slots.map fun slot =>
      (slot, pushSectors r.core (l.filter fun p => p.1.slot == slot))
    let need := (per.map fun p => lodgeCost s r.core p.1 .scratch p.2).sum
    if !lodgeRoom s r need then holdLodge s r need
    else
      let (s1, r1) := trapFibres s r bad
      let (s2, r2) := blockFibres s1 r1 wait
      let s3 := per.foldl (fun s (slot, ws) =>
        ws.foldl (fun s w => lodgeWrite s r.core slot .scratch w) s) s2
      finish (l.foldl (fun s p => bumpCursor s r.core p.1.slot q.toNat p.1.lane) s3) r2 0) s

/-! ### sig (R306, R313) -/

/-- RING_STATE for the active fibres of crews whose launch does not declare the ring. -/
def ringTraps (s : State) (rg : BitVec 4) (l : List LaneCtx) : List (Nat × Nat × Cause × W64) :=
  (l.filter fun x => (ringDecl s x.crew rg.toNat).isNone).map fun x =>
    (x.lane, x.slot, .ringState, 0)

/-- `sig.put` and `sig.take`: the sum over the crew's active fibres, at the clear. -/
def sigAdvance (i : Instr) (g : Guard) (take : Bool) (rg : BitVec 4) (n : Src) (s : State) : Out :=
  issue (fun s r => regsOf (r.narrow s) i) (fun s r =>
    let l := activeLanes s r g
    let bad := ringTraps s rg l
    let ok := keepLanes l bad
    let slots := activeSlots ok
    if !lodgeRoom s r slots.length then holdLodge s r slots.length
    else
      let (s1, r1) := trapFibres s r bad
      holdPerCrew s1 r1 .signal 0 (slots.map fun slot =>
        (slot, none, .sig rg.toNat take ((ok.filter fun x => x.slot == slot).foldl
          (fun (a : W32) x => a + (srcVal x.crew r x.lane false n).setWidth 32) 0)))) s

def execSigPut (g : Guard) (rg : BitVec 4) (n : Src) : State → Out :=
  sigAdvance (.sigPut g rg n) g false rg n
def execSigTake (g : Guard) (rg : BitVec 4) (n : Src) : State → Out :=
  sigAdvance (.sigTake g rg n) g true rg n

/-- `sig.fill` and `sig.room`: the released fill or room into vd. -/
def sigRead (i : Instr) (g : Guard) (room : Bool) (rg : BitVec 4) (d : Dst) (s : State) : Out :=
  issue (fun s r => regsOf (r.narrow s) i) (fun s r =>
    let bad := ringTraps s rg (activeLanes s r g)
    let (s1, r1) := trapFibres s r bad
    let (s2, r2) := blockFibres s1 r1 (waiting s1 r1 i)
    let l := (activeLanes s2 r2 g).map fun x =>
      (x, if room then (ringRoomOf s2 r.core x.crew.tenant rg.toNat).toNat
        else ringFillOf (s2.core r.core) x.crew.tenant rg.toNat)
    match copyHold s2 r2 (l.map (·.1)) d 1 with
    | some t => t
    | none => finish (match d with
        | .reg b => writeLanes s2 r.core b.toNat 1 l
        | _ => s2) r2 0) s

def execSigFill (g : Guard) (w : Bool) (rg : BitVec 4) (d : Dst) (n : Src) : State → Out :=
  sigRead (.sigFill g w rg d n) g false rg d
def execSigRoom (g : Guard) (w : Bool) (rg : BitVec 4) (d : Dst) (n : Src) : State → Out :=
  sigRead (.sigRoom g w rg d n) g true rg d

/-! ### gate and rel (R299, R300, R314, R315) -/

/-- The acquire of a predecessor's gate word by a crew (R299, R314). Where a later launch has taken its
place in the control block, no record is left of what was published, and every line matches. -/
def gateAcquire (s : State) (c slot : Nat) : State :=
  match (s.crew? c slot).bind fun k => (crewLaunch s k).bind fun l => l.post.pred with
  | none => s
  | some p =>
    if recentHeld s p.1 p.2.1 p.2.2 then
      let pa := recentAt p.1 p.2.1
      acquire s c slot .package [sideRead (s.die (homeOf pa)) (pa / 64)]
    else acquireActions s c .package fun _ => true

def execGate (g : Guard) (k : BitVec 4) (s : State) : Out :=
  issue (fun s r => regsOf (r.narrow s) (.gate g k)) (fun s r =>
    let (s1, r1) := blockFibres s r (waiting s r (.gate g k))
    finish ((activeSlots (activeLanes s1 r1 g)).foldl
      (fun s x => gateAcquire s r.core x) s1) r1 0) s

def execRel (g : Guard) (k : BitVec 4) (s : State) : Out :=
  issue (fun s r => regsOf (r.narrow s) (.rel g k)) (fun s r =>
    holdPerCrew s r .signal 0 ((activeSlots (activeLanes s r g)).map fun x =>
      (x, none, .rel k.toNat))) s

end Sys2Proof.Machine
end

