-- ==== Sys2Proof/Machine/Tables.lean ====
section
/-! DEFINITION. The tables of the device (R316 to R326), the coolant grants (R331 to R334), and
0x1D0 to 0x1D9: reading a table word, and the held writes with what they do at their release. -/
namespace Sys2Proof.Machine
open Sys2Proof

/-! ### Sensors (R205, R324, R325) -/

/-- The class of a sensor, its architected latency, its target and its kind of vale (R324). -/
def sensorClass (i : Nat) : Nat :=
  if i < 1024 then 0 else if i < 1536 then 1 else if i < 1664 then 2 else 3
def sensorShip (i : Nat) : Nat :=
  match sensorClass i with | 0 => 120 | 1 => 64 | 2 => 96 | _ => 48
def sensorTarget (i : Nat) : Nat :=
  match sensorClass i with
  | 0 => i / 4
  | 1 => (i - 1024) / 16
  | 2 => (i - 1536) / 4
  | _ => (i - 1664) / 8
def sensorVkind (i : Nat) : Nat :=
  match sensorClass i with | 0 => 0 | 3 => 2 | _ => 1

/-- The latency in force, and whether a sensor is enabled. -/
def sensorLat (s : State) (i : Nat) : Nat :=
  match s.mod.sensLat.get? i with | some w => w.toNat | none => sensorShip i
def sensorOn (s : State) (i : Nat) : Bool := !s.mod.sensOff.contains i

/-- The sensors that set the FLOOR of a core (R325). -/
def coreSensors (c : Nat) : List Nat :=
  ((List.range 4).map fun k => 4 * c + k) ++ ((List.range 16).map fun k => 1024 + 16 * (c / 8) + k)
    ++ ((List.range 4).map fun k => 1536 + 4 * (c / 8) + k) ++
    (List.range 32).map fun k => 1664 + k

/-- FLOOR of a core (R325). -/
def floorOf (s : State) (c : Nat) : Nat :=
  16 + (coreSensors c).foldl (fun m i => max m (sensorLat s i)) 0

/-- Whether a core is usable (R321). -/
def coreUsable (s : State) (c : Nat) : Bool :=
  !s.mod.bad.contains c &&
    (List.range 4).all (fun k => sensorOn s (4 * c + k)) &&
    (List.range 4).all (fun i => (List.range 4).any fun k =>
      sensorOn s (1024 + 16 * (c / 8) + 4 * i + k)) &&
    (List.range 4).any fun k => sensorOn s (1536 + 4 * (c / 8) + k)

/-- The words of a sensor map entry (R324). -/
def sensorWord (s : State) (i word : Nat) : W64 :=
  if word = 0 then
    setBit (setFld (setFld (setFld (0 : W64) 63 62 (sensorClass i)) 59 48 (sensorShip i)) 35 24
      (sensorLat s i)) 15 (sensorOn s i)
  else setFld (setFld (0 : W64) 15 8 (sensorTarget i)) 7 6 (sensorVkind i)

/-- The new FLOOR of a core takes effect: WIN follows where it would lie below, and no region of
the core then clears earlier than the new WIN allows (R206, R325). -/
def refloor (s : State) (c : Nat) : State :=
  let f := floorOf s c
  s.mapCore c fun co =>
    let w := setFld co.qwin 31 16 f
    if fld co.qwin 15 0 < f then
      { co with qwin := setFld w 15 0 f
                crews := co.crews.mapKV fun _ (k : Crew) =>
                  { k with region := k.region.map fun g => { g with win := max g.win f } } }
    else { co with qwin := w }

/-- The cores whose FLOOR a sensor takes part in. -/
def sensorCores (i : Nat) : List Nat :=
  match sensorClass i with
  | 0 => [sensorTarget i]
  | 3 => List.range 256
  | _ => (List.range 8).map fun k => 8 * sensorTarget i + k

/-! ### The words of the other tables (R317 to R321, R326, R331) -/

/-- A group table word of a launch (R317, R318). -/
def groupWord (l : Launch) (idx word : Nat) : W64 :=
  match l.groups.get? idx with
  | none => 0
  | some g =>
    match word with
    | 0 => BitVec.ofNat 64 (g.count * 2 ^ 32 + g.first)
    | 1 => setBit (BitVec.ofNat 64 g.stride) 63 g.v
    | _ => g.episode ++ g.departed

/-- A slot table entry (R319). -/
def slotWord (co : Core) (i : Nat) : W64 := co.slots.getD i 0x7F
def slotTenant (w : W64) : Nat := fld w 6 0

/-- The entry of a coolant zone. A zone that nothing has written yet has FLOW 0 below its grant since
the controller started (R331, R335). -/
def zoneOfMod (m : Module) (z : Nat) : Zone :=
  m.zones.getD z { Zone.reset with lowAt := some m.coolAt }
def zoneWord (x : Zone) (word : Nat) : W64 :=
  match word with | 0 => x.w0 | 1 => x.w1 | 2 => x.w2 | _ => x.w3

/-- A node table word (R326). -/
def nodeWord (x : Node) (word : Nat) : W64 :=
  let half := fun (lo : Nat) => (List.range 4).foldl (fun (w : W64) i =>
    match x.succ[lo + i]? with
    | some j => setFld w (16 * i + 8) (16 * i) j
    | none => w) 0
  match word with
  | 0 =>
    let w := setFld (setFld (0 : W64) 63 61 x.state) 60 59 x.kind
    let w := setFld (setFld (setBit w 58 x.keep) 57 50 x.pred) 49 46 x.succ.length
    let w := setFld (setFld w 45 41 x.slot) 40 34 x.idx
    let cause := if x.state = 5 then (x.cause.map Cause.code).getD 0 else 0
    setFld (setFld w 23 16 cause) 15 0 x.gen.toNat
  | 1 => half 0
  | 2 => half 4
  | 3 => 0
  | n => wordOf x.payload (n - 4)

/-- Entries and words per entry of the tables (R316). -/
def tableSize (n : Nat) : Nat × Nat :=
  match n with
  | 0 => (256, 3) | 1 => (64, 1) | 2 => (256, 1) | 3 => (1696, 2) | 4 => (64, 4) | _ => (512, 12)

/-- Fields of the index operand (R327). -/
def ixLaunch (w : W64) : Nat := fld w 31 24
def ixWord (w : W64) : Nat := fld w 19 16
def ixEntry (w : W64) : Nat := fld w 15 0

/-- The word a fibre reads, or TABLE_INDEX (R327, R328). -/
def tableRead (s : State) (c slot : Nat) (k : Crew) (n : Nat) (ix : W64) : Option W64 :=
  let idx := ixEntry ix
  let word := ixWord ix
  if (tableSize n).1 ≤ idx ∨ (tableSize n).2 ≤ word then none
  else match n with
    | 0 =>
      (if isKeeper slot then s.launch? (ixLaunch ix) else crewLaunch s k).map fun l =>
        groupWord l idx word
    | 1 => some (slotWord (s.core c) idx)
    | 2 => some (s.mod.places.getD idx 0)
    | 3 => some (sensorWord s idx word)
    | 4 => some (zoneWord (zoneOfMod s.mod idx) word)
    | _ =>
      if isKeeper slot then
        some (match (s.core c).nodes.get? idx with | some x => nodeWord x word | none => 0)
      else (nodeOf (s.core c) (crewId k) idx).map fun p => nodeWord p.2 word

/-- `tbrd` (R328): scoreboarded, with the word as the table holds it now. -/
def execTbrd (g : Guard) (n : BitVec 3) (d : Dst) (i : Src) (s : State) : Out :=
  issue (fun s r => regsOf (r.narrow s) (.tbrd g n d i)) (fun s r =>
    if sbFull s r then retryRun s r
    else
      let l := (activeLanes s r g).map fun x =>
        (x, tableRead s r.core x.slot x.crew n.toNat (srcVal x.crew r x.lane false i))
      let bad := (l.filter fun p => p.2.isNone).map fun p =>
        (p.1.lane, p.1.slot, Cause.tableIndex, (0 : W64))
      let (s1, r1) := trapFibres s r bad
      let fl := l.filterMap fun p => p.2.map fun w => (p.1, readyLane d 2 8 false w.toNat)
      finish (addFlights s1 r1 (lanesTab fl)) r1 0) s

/-! ### Table writes at their release (R323, R324, R330) -/

/-- A refused release recorded in TBLSTAT of the issuing core (R330). -/
def tableRefuse (s : State) (c table idx code : Nat) : State :=
  s.mapCore c fun co =>
    let n := (fld co.tblstat 63 48 + 1) % 65536
    let w := setFld (setFld (setFld (setFld (0 : W64) 63 48 n) 47 32 idx) 11 8 table) 7 0 code
    { co with tblstat := w }

/-- Why a word for the place table is refused (R323). -/
def placeRefusal (s : State) (idx : Nat) (w : W64) : Option Nat :=
  let c := fld w 7 0
  if !bit w 15 then none
  else if s.mod.places.cells.any fun p => p.1 != idx && bit p.2 15 && fld p.2 7 0 == c then some 2
  else if !coreUsable s c then some 3
  else none

/-- The lead core leaves the place table: see R322 in the heartbeat's capture. -/
def setPlace (s : State) (idx : Nat) (w : W64) : State :=
  let v := w &&& 0x80FF
  s.mapMod fun m =>
    { m with places := if v = 0 then m.places.del idx else m.places.put idx v }

/-- The start of an evacuation (R336, R337): EVREQ is set, STATE becomes EVAC. -/
def evacStart (nowUs : Nat) (x : Zone) : Zone :=
  if fld x.w0 39 37 = 1 then
    { x with w0 := setFld (setFld x.w0 39 37 2) 36 34 1, w3 := setBit x.w3 7 true
             stepAt := nowUs, gasNow := false }
  else x

/-- Microseconds of the module's own timers. -/
def usOf (now : Nat) : Nat := now / Config.ccPerUs

/-- A write of word 3 of a zone (R331, R336): EVREQ by one, the flags cleared by one; a cleared
flag restarts its measurement (R335). -/
def zoneWrite (nowUs : Nat) (w : W64) (x : Zone) : Zone :=
  let x := { x with
    w3 := x.w3 &&& ~~~(w &&& 7)
    hotAt := if bit w 1 then none else x.hotAt
    lowAt := if bit w 0 then none else x.lowAt }
  if bit w 7 then evacStart nowUs x else x

def mapZone (s : State) (z : Nat) (f : Zone → Zone) : State :=
  s.mapMod fun m => { m with zones := m.zones.put z (f (zoneOfMod m z)) }

/-- A slot table with one entry written. -/
def putSlot (idx : Nat) (v : W64) (t : Tab W64) : Tab W64 :=
  if v = 0x7F then t.del idx else t.put idx v

/-- A `tbwr` at its release (R319, R323, R324, R330, R331). -/
def tbwrApply (s : State) (c n idx word : Nat) (w : W64) : State :=
  match n with
  | 1 =>
    if 64 ≤ slotTenant w ∧ slotTenant w ≤ 126 then tableRefuse s c 1 idx 1
    else s.mapCore c fun co =>
      let v := w &&& 0xC07F
      { co with slots := putSlot idx v co.slots, slotWr := co.slotWr ++ [(idx, v)] }
  | 2 =>
    match placeRefusal s idx w with
    | some code => tableRefuse s c 2 idx code
    | none => setPlace s idx w
  | 3 =>
    if word ≠ 0 then s
    else if fld w 35 24 < sensorShip idx then tableRefuse s c 3 idx 4
    else
      let s1 := s.mapMod fun m =>
        { m with sensLat := m.sensLat.put idx (BitVec.ofNat 12 (fld w 35 24)) }
      (sensorCores idx).foldl refloor s1
  | 4 => if word = 3 then mapZone s idx (zoneWrite (usOf s.now) w) else s
  | _ => s

/-- A swap of two place entries at its release (R323, R329). -/
def swapPlaces (s : State) (i j : Nat) : State :=
  let a := s.mod.places.getD i 0
  let b := s.mod.places.getD j 0
  setPlace (setPlace s i b) j a

/-- The tenants resident on a core, in rising order. -/
def coreTenants (co : Core) : List Nat := (guests co).foldl (fun l p => insertNat p.2.tenant l) []

/-- The tenants resident on a core have changed: its slot table is assigned anew at the end of the
cycle (R320). -/
def slotAssign (s : State) (c : Nat) : State := s.mapCore c fun co => { co with reassign := true }

/-- The slot table of a core as the next cycle finds it (R320): the unpinned entries go in turn to
the resident tenants where these have changed, and what `tbwr` has written in the cycle stands over
that. -/
def slotTurn (co : Core) : Core :=
  let ts := coreTenants co
  let free := (List.range 64).filter fun i => !bit (slotWord co i) 14
  let new := (List.range free.length).map fun j =>
    (free.getD j 0, if ts.isEmpty then 0x7F else ts.getD (j % ts.length) 0x7F)
  if !co.reassign then { co with slotWr := [] }
  else
    let t := new.foldl (fun t p => putSlot p.1 (BitVec.ofNat 64 p.2) t) co.slots
    { co with slots := co.slotWr.foldl (fun t p => putSlot p.1 p.2 t) t
              reassign := false, slotWr := [] }

/-! ### Coolant grants (R332 to R334) -/

def zTenant (x : Zone) : Nat := fld x.w0 62 56
def zGrant (x : Zone) : Nat := fld x.w0 55 48
def zReq (x : Zone) : Nat := fld x.w0 47 40
def zState (x : Zone) : Nat := fld x.w0 39 37
def zStep (x : Zone) : Nat := fld x.w0 36 34
def zTries (x : Zone) : Nat := fld x.w0 33 32
def zHeat (x : Zone) : Nat := fld x.w0 31 0

def ccMin (w : W64) : Nat := fld w 31 24
def ccCap (w : W64) : Nat := fld w 12 0
def ccLow (w : W64) : Nat := fld w 39 32
def ccDt (w : W64) : Nat := fld w 47 40

/-- The coolant zone of a core: a block of two by two cores of its die (R13, R331). -/
def zoneOfCore (c : Nat) : Nat :=
  let cl := c / 8 % 8
  16 * (c / 64) + 2 * (cl % 2) + c % 4 / 2 + 4 * (cl / 2)

/-- The sum of all grants. -/
def grantSum (m : Module) : Nat :=
  (m.zones.vals.map zGrant).sum + (64 - m.zones.size) * zGrant Zone.reset

/-- Free flow under CAP. -/
def freeFlow (m : Module) : Nat := ccCap m.coolctl - grantSum m

/-- Freed flow goes to the zones in RUN that wait for it, in order of arrival (R334). -/
def serveFlow (s : State) : State :=
  s.mod.flowQ.foldl (fun s z =>
    let x := zoneOfMod s.mod z
    let n := min (freeFlow s.mod) (zReq x)
    if zState x ≠ 1 ∨ n = 0 then s
    else
      let s := mapZone s z fun x =>
        { x with w0 := setFld (setFld x.w0 55 48 (zGrant x + n)) 47 40 (zReq x - n) }
      if zReq x = n then s.mapMod fun m => { m with flowQ := m.flowQ.filter fun y => y != z }
      else s) s

/-- `settle` of R334. -/
def settleFlow (s : State) (z g : Nat) : State :=
  let x := zoneOfMod s.mod z
  let s0 := s.mapMod fun m => { m with flowQ := m.flowQ.filter fun y => y != z }
  let wait := fun (s : State) => s.mapMod fun m => { m with flowQ := m.flowQ ++ [z] }
  let put := fun (s : State) (grant req : Nat) => mapZone s z fun x =>
    { x with w0 := setFld (setFld x.w0 55 48 grant) 47 40 req }
  if g < zGrant x then serveFlow (put s0 g 0)
  else if g = zGrant x then put s0 g 0
  else if zState x ≠ 1 then wait (put s0 (zGrant x) (g - zGrant x))
  else
    let grant := min g (zGrant x + freeFlow s.mod)
    let s1 := put s0 grant (g - grant)
    if g = grant then s1 else wait s1

/-- Whether the flow of a zone is below a percentage of its grant. -/
def flowBelow (x : Zone) (percent : Nat) : Bool :=
  decide (100 * fld x.w1 15 0 < 16 * percent * zGrant x)

/-- The conditions of LOW_FLOW and HIGH_DT (R335). -/
def lowFlow (m : Module) (x : Zone) : Bool := zState x == 1 && flowBelow x (ccLow m.coolctl)
def highDt (m : Module) (x : Zone) : Bool :=
  decide (16 * ccDt m.coolctl + fld x.w2 31 16 < fld x.w2 47 32)

/-- The flow that a zone's declared heat needs (R334). -/
def zoneNeed (m : Module) (x : Zone) : Nat := max (ccMin m.coolctl) (ceilDiv (zHeat x) 70)

/-- `ccreq` at its release (R334). -/
def ccreqApply (s : State) (c z t f : Nat) : State :=
  let x := zoneOfMod s.mod z
  if zState x = 4 then tableRefuse s c 4 z 5
  else if zTenant x ≠ 0x7F ∧ zTenant x ≠ t then tableRefuse s c 4 z 6
  else
    let s1 := mapZone s z fun x => { x with w0 := setFld x.w0 62 56 t }
    settleFlow s1 z (max f (zoneNeed s.mod x))

/-- `ccrel` at its release (R334). -/
def ccrelApply (s : State) (c z : Nat) : State :=
  let x := zoneOfMod s.mod z
  if zState x = 4 then tableRefuse s c 4 z 5
  else
    let s1 := mapZone s z fun x => { x with w0 := setFld x.w0 62 56 0x7F }
    settleFlow s1 z (zoneNeed s.mod x)

/-- The requests of a core's Keeper that have reached the controller take effect, in order (R333). -/
def serveAsks (s : State) (c : Nat) : State :=
  (s.core c).asks.foldl (fun s e => match e with
    | .ccreq z t f => ccreqApply s c z t f
    | .ccrel z => ccrelApply s c z
    | _ => s) (s.mapCore c fun co => { co with asks := [] })

/-! ### tbwr, ccreq, ccrel at issue (R327, R329, R334) -/

/-- Held effects of single fibres, one lodge entry each in order of the lane, after the traps of
the others (R327, R354). -/
def holdPerFibre (i : Instr) (g : Guard) (kind : LKind) (home : Nat → Option Nat)
    (chk : State → Run → LaneCtx → Option Cause) (eff : State → Run → LaneCtx → Effect)
    (s : State) : Out :=
  issue (fun s r => regsOf (r.narrow s) i) (fun s r =>
    let l := (activeLanes s r g).map fun x => (x, chk s r x)
    let ok := (l.filter fun p => p.2.isNone).map (·.1)
    if !lodgeRoom s r ok.length then holdLodge s r ok.length
    else
      let (s1, r1) := trapFibres s r (l.filterMap fun p =>
        p.2.map fun e => (p.1.lane, p.1.slot, e, (0 : W64)))
      finish (ok.foldl (fun s x =>
        lodgeEffect s r.core x.slot kind (home r.core) (eff s r x)) s1) r1 0) s

/-- Tables 2 to 4 are held on die 0 (R328). -/
def tableHome (n c : Nat) : Option Nat := if n = 1 then none else dieZero c

/-- The traps of `tbwr` (R327). -/
def tbwrTrap (s : State) (slot n : Nat) (ix : W64) : Option Cause :=
  if !isKeeper slot then some .privilege
  else if (tableSize n).1 ≤ ixEntry ix ∨ (tableSize n).2 ≤ ixWord ix then some .tableIndex
  else if n = 0 ∧ (s.launch? (ixLaunch ix)).isNone = true then some .tableIndex
  else if n = 0 ∨ n = 5 ∨ (n = 4 ∧ ixWord ix ≠ 3) then some .tableState
  else none

def execTbwr (g : Guard) (n : BitVec 3) (i w : Src) : State → Out :=
  holdPerFibre (.tbwr g n i w) g .device (tableHome n.toNat)
    (fun s r x => tbwrTrap s x.slot n.toNat (srcVal x.crew r x.lane false i))
    (fun _ r x =>
      let ix := srcVal x.crew r x.lane false i
      .tbwr n.toNat (ixEntry ix) (ixWord ix) (srcVal x.crew r x.lane true w))

def execTbwrSwap (g : Guard) (i j : Src) : State → Out :=
  holdPerFibre (.tbwrSwap g i j) g .device (tableHome 2)
    (fun s r x =>
      match tbwrTrap s x.slot 2 (srcVal x.crew r x.lane false i) with
      | some e => some e
      | none => tbwrTrap s x.slot 2 (srcVal x.crew r x.lane false j))
    (fun _ r x => .tbswap (ixEntry (srcVal x.crew r x.lane false i))
      (ixEntry (srcVal x.crew r x.lane false j)))

/-- The checks of vz (R334). -/
def zoneTrap (slot : Nat) (z : W64) : Option Cause :=
  if !isKeeper slot then some .privilege
  else if fld z 7 6 ≠ 0 ∨ fld z 31 15 ≠ 0 ∨ 63 < fld z 14 8 then some .tableIndex
  else none

def execCcreq (g : Guard) (z f : Src) : State → Out :=
  holdPerFibre (.ccreq g z f) g .device dieZero
    (fun _ r x =>
      match zoneTrap x.slot (srcVal x.crew r x.lane false z) with
      | some e => some e
      | none =>
        if 120 < (srcVal x.crew r x.lane false f).toNat then some .tableIndex else none)
    (fun _ r x =>
      let w := srcVal x.crew r x.lane false z
      .ccreq (fld w 5 0) (fld w 14 8) (srcVal x.crew r x.lane false f).toNat)

def execCcrel (g : Guard) (z : Src) : State → Out :=
  holdPerFibre (.ccrel g z) g .device dieZero
    (fun _ r x => zoneTrap x.slot (srcVal x.crew r x.lane false z))
    (fun _ r x => .ccrel (fld (srcVal x.crew r x.lane false z) 5 0))

end Sys2Proof.Machine
end

