-- ==== Sys2Proof/Machine/Counters.lean ====
section
/-! DEFINITION. Budgets, tickets, the cycle counter, watchdogs and performance counters, 0x1E0
to 0x1EC (R342 to R362), with what `bgive`, `btop` and `wdog.beat` do at their release. -/
namespace Sys2Proof.Machine
open Sys2Proof

/-! ### Results written by an active fibre's own instruction (R354) -/

/-- An instruction that writes one result per active fibre when it completes. -/
def writeEach (i : Instr) (g : Guard) (d : Dst) (n : Nat)
    (chk : State → Run → LaneCtx → Option Cause) (val : State → Run → LaneCtx → Nat)
    (s : State) : Out :=
  issue (fun s r => regsOf (r.narrow s) i) (fun s r =>
    let l := (activeLanes s r g).map fun x => (x, chk s r x)
    let (s1, r1) := trapFibres s r (l.filterMap fun p =>
      p.2.map fun e => (p.1.lane, p.1.slot, e, (0 : W64)))
    let ok := (l.filter fun p => p.2.isNone).map fun p => (p.1, val s r p.1)
    match copyHold s1 r1 (ok.map (·.1)) d n with
    | some t => t
    | none => finish (match d with
        | .reg b => writeLanes s1 r.core b.toNat n ok
        | _ => s1) r1 0) s

/-! ### Budgets (R342, R346, R356, R358, R359) -/

/-- A budget as software reads it (R342). -/
def budgetOf (slot : Nat) (k : Crew) (mb : Bool) : BitVec 48 :=
  if isKeeper slot then 0xFFFFFFFFFFFF else if mb then k.mb else k.ib

def execBread (g : Guard) (mb : Bool) (d : Dst) : State → Out :=
  writeEach (.bread g mb d) g d 2 (fun _ _ _ => none)
    (fun _ _ x => (budgetOf x.slot x.crew mb).toNat)

/-- One external change of a budget value (R346). -/
def changeOf (set : Bool) (amt : W64) (b : BitVec 48) : BitVec 48 :=
  if set then amt.setWidth 48 else BitVec.ofNat 48 (min (b.toNat + amt.toNat % 2 ^ 48) (2 ^ 48 - 1))

/-- An external change of a crew: of the current value and of the checkpoint (R346). -/
def changeCrew (mb set : Bool) (amt : W64) (k : Crew) : Crew :=
  let f := changeOf set amt
  let ck := fun (g : Region) =>
    { g with ck := if mb then { g.ck with mb := f g.ck.mb } else { g.ck with ib := f g.ck.ib } }
  if mb then { k with mb := f k.mb, region := k.region.map ck }
  else { k with ib := f k.ib, region := k.region.map ck }

/-- Whether a number has been assigned in a launch (R302, R358). -/
def assigned (l : Launch) (n : BitVec 32) : Bool :=
  decide (n.toNat < launchCrews l) || l.given.contains n

/-- The core and slot where a crew of a launch is resident. -/
def residentAt (s : State) (tenant : Nat) (n : BitVec 32) : Option (Nat × Nat) :=
  s.cores.cells.findSome? fun p => (slotOf p.2 (tenant, n)).map fun q => (p.1, q.1)

/-- The core where a crew of a launch is held evicted. -/
def evictedAt (s : State) (tenant : Nat) (n : BitVec 32) : Option Nat :=
  (s.cores.cells.find? fun p => p.2.evicted.any fun e => crewId e.crew == (tenant, n)).map (·.1)

/-- Whether a crew with an assigned number has yet to be placed: it takes part in no core and has
not ended (R358). -/
def notPlaced (l : Launch) (n : BitVec 32) : Bool :=
  if n.toNat < launchCrews l then decide (l.taken ≤ n.toNat) else l.alive.contains n

/-- An external change reaches its target, wherever it is; false when the target has ended
(R346, R358, R359). -/
def changeBudget (s : State) (tenant : Nat) (n : BitVec 32) (mb set : Bool) (amt : W64) :
    State × Bool :=
  match residentAt s tenant n with
  | some (c, slot) => (s.mapCrew c slot (changeCrew mb set amt), true)
  | none =>
    match evictedAt s tenant n with
    | some c =>
      (mapOwner s c (tenant, n) (changeCrew mb set amt), true)
    | none =>
      match s.launch? tenant with
      | some l =>
        if notPlaced l n then
          (s.mapLaunch tenant fun l => { l with grants := l.grants ++ [(n, mb, set, amt)] }, true)
        else (s, false)
      | none => (s, false)

/-- An external change that was released in this cycle is on its way (R346). -/
def postChange (s : State) (x : Change) : State := s.mapMod fun m => { m with changes := m.changes ++ [x] }

/-- `bgive` at its clear (R358). -/
def giveApply (s : State) (c slot : Nat) (mb : Bool) (n : BitVec 32) (amt : W64) : State :=
  match s.crew? c slot with
  | none => s
  | some k => postChange s { core := c, tenant := k.tenant, giver := some k.number, target := n, mb
                             set := false, amt }

/-- An external change takes effect; an amount for a crew that has ended goes back to its giver
(R358, R359). -/
def changeApply (s : State) (x : Change) : State :=
  let (s1, ok) := changeBudget s x.tenant x.target x.mb x.set x.amt
  match ok, x.giver with
  | false, some n => (changeBudget s x.tenant n x.mb false x.amt).1
  | _, _ => s1

/-- The external changes of a cycle, after its charges and in order of the issuing core (R346). -/
def applyChanges (s : State) : State :=
  if s.mod.changes.isEmpty then s
  else ((List.range Config.cores).flatMap fun c => s.mod.changes.filter fun x => x.core == c).foldl
    changeApply (s.mapMod fun m => { m with changes := [] })

/-- `bgive` (R358). -/
def execBgive (g : Guard) (mb : Bool) (c a : Src) (s : State) : Out :=
  issue (fun s r => regsOf (r.narrow s) (.bgive g mb c a)) (fun s r =>
    let l := (activeLanes s r g).map fun x =>
      (x, (srcVal x.crew r x.lane false c).setWidth 32, srcVal x.crew r x.lane true a)
    let known := fun (x : LaneCtx) (n : BitVec 32) =>
      !isKeeper x.slot && (crewLaunch s x.crew).any fun q => assigned q n
    let bad1 := (l.filter fun p => !known p.1 p.2.1).map fun p =>
      (p.1.lane, p.1.slot, Cause.crewNumber, (0 : W64))
    let l1 := l.filter fun p => known p.1 p.2.1
    let short := (activeSlots (l1.map (·.1))).filter fun slot =>
      let mine := l1.filter fun p => p.1.slot == slot
      let total := (mine.map fun p => p.2.2.toNat).sum
      mine.any (fun p => decide (2 ^ 48 ≤ p.2.2.toNat)) ||
        (s.crew? r.core slot).any fun k => decide ((budgetOf slot k mb).toNat < total)
    let bad2 := (l1.filter fun p => short.contains p.1.slot).map fun p =>
      (p.1.lane, p.1.slot, Cause.budgetShort, (0 : W64))
    let ok := l1.filter fun p => !short.contains p.1.slot
    if !lodgeRoom s r ok.length then holdLodge s r ok.length
    else
      let (s1, r1) := trapFibres s r (bad1 ++ bad2)
      finish (ok.foldl (fun s p =>
        let s := s.mapCrew r.core p.1.slot fun k =>
          let n := BitVec.ofNat 48 p.2.2.toNat
          if mb then { k with mb := k.mb - n } else { k with ib := k.ib - n }
        lodgeEffect s r.core p.1.slot .device none (.give mb p.2.1 p.2.2)) s1) r1 0) s

/-- The operands of `btop`: the crew number and the active-launch index (R359). -/
def topTrap (s : State) (slot : Nat) (w : W64) : Option Cause :=
  if !isKeeper slot then some .privilege
  else if fld w 63 38 ≠ 0 then some .crewNumber
  else match s.launch? (fld w 37 32) with
    | some l => if assigned l (w.setWidth 32) then none else some .crewNumber
    | none => some .crewNumber

def btop (i : Instr) (g : Guard) (set mb : Bool) (c a : Src) : State → Out :=
  holdPerFibre i g .device (fun _ => none)
    (fun s r x => topTrap s x.slot (srcVal x.crew r x.lane true c))
    (fun _ r x =>
      let w := srcVal x.crew r x.lane true c
      .top set mb (fld w 37 32) (w.setWidth 32) (srcVal x.crew r x.lane true a))

def execBtopAdd (g : Guard) (mb : Bool) (c a : Src) : State → Out :=
  btop (.btopAdd g mb c a) g false mb c a
def execBtopSet (g : Guard) (mb : Bool) (c a : Src) : State → Out :=
  btop (.btopSet g mb c a) g true mb c a

/-! ### The cycle counter (R350, R357) -/

/-- `%tick` of a core: it holds while the clock is stopped. -/
def tickOf (now : Nat) (co : Core) : W64 := BitVec.ofNat 64 ((co.tickStop.getD now) - co.tickOff)

def execTick (g : Guard) (d : Dst) : State → Out :=
  writeEach (.tick g d) g d 2 (fun _ _ _ => none)
    (fun s r _ => (tickOf s.now (s.core r.core)).toNat)

/-! ### Tickets (R348, R349, R355) -/

/-- The next value of a counter: the lowest returned one, or else the counter's, which rises. -/
def drawTicket (t : TkCtr) : BitVec 32 × TkCtr :=
  match t.back with
  | v :: r => (v, { t with back := r })
  | [] => (t.next, { t with next := t.next + 1 })

/-- Whether a ticket's record is posted and not claimed (R349). -/
def ticketFree (m : Module) (v : BitVec 32) : Bool :=
  m.tickets.any (fun p => p.1 == v.toNat) && m.claimed.all fun p => p.2 != v.toNat

/-- One draw for a fibre of a crew: the value, with the reservation that its region holds. -/
def drawFor (s : State) (c slot : Nat) (k : Crew) (n : Nat) : State × BitVec 32 :=
  let keep := fun (s : State) (v : BitVec 32) =>
    s.mapCrew c slot fun k => { k with resv := k.resv ++ [(n, v)] }
  if n = 16 then
    let (v, t) := drawTicket s.mod.take
    if ticketFree s.mod v then (keep (s.mapMod fun m => { m with take := t }) v, v)
    else (s, 0xFFFFFFFF)
  else match s.launch? k.tenant with
    | none => (s, Config.keeperTicket n)
    | some l =>
      let (v, t) := drawTicket (l.tk.getD n ⟨0, []⟩)
      (keep (s.mapLaunch k.tenant fun l => { l with tk := l.tk.put n t }) v, v)

/-- `tkt` (R355): each active fibre draws in order of the lane. -/
def execTkt (g : Guard) (k : BitVec 5) (d : Dst) (s : State) : Out :=
  issue (fun s r => regsOf (r.narrow s) (.tkt g k d)) (fun s r =>
    let l := activeLanes s r g
    let bad := if k = 16 then privTraps l else []
    let ok := keepLanes l bad
    let (s1, r1) := trapFibres s r bad
    match copyHold s1 r1 ok d 1 with
    | some t => t
    | none =>
    let (s2, vals) := ok.foldl (fun (p : State × List (LaneCtx × Nat)) x =>
      let (s, v) := drawFor p.1 r.core x.slot x.crew k.toNat
      (s, p.2 ++ [(x, v.toNat)])) (s1, [])
    finish (match d with
      | .reg b => writeLanes s2 r.core b.toNat 1 vals
      | _ => s2) r1 0) s

/-- A value returned to its counter in order (R348). -/
def returnTicket (t : TkCtr) (v : BitVec 32) : TkCtr :=
  { t with back := (t.back.filter fun x => x.toNat < v.toNat) ++
      v :: t.back.filter fun x => v.toNat < x.toNat }

/-- The reservations of a squashed region go back (R348). -/
def returnResv (s : State) (c slot : Nat) : State :=
  match s.crew? c slot with
  | none => s
  | some k =>
    (k.resv.foldl (fun s p =>
      if p.1 = 16 then s.mapMod fun m => { m with take := returnTicket m.take p.2 }
      else s.mapLaunch k.tenant fun l =>
        { l with tk := l.tk.put p.1 (returnTicket (l.tk.getD p.1 ⟨0, []⟩) p.2) }) s).mapCrew c slot
      fun k => { k with resv := [] }

/-- The reservations of a region that clears are final; a ticket is claimed by the core (R349). -/
def finalResv (s : State) (c slot : Nat) : State :=
  match s.crew? c slot with
  | none => s
  | some k =>
    let mine := (k.resv.filter fun p => p.1 == 16).map fun p => (c, p.2.toNat)
    (s.mapMod fun m => { m with claimed := m.claimed ++ mine }).mapCrew c slot
      fun k => { k with resv := [] }

/-! ### Watchdogs (R352, R360) -/

/-- An instruction that acts once per crew with operands from its lowest active lane (R354):
where it traps, every active fibre of the crew traps. -/
def perCrew (i : Instr) (g : Guard) (chk : State → Run → LaneCtx → Option Cause)
    (act : State → Run → LaneCtx → State) (s : State) : Out :=
  issue (fun s r => regsOf (r.narrow s) i) (fun s r =>
    let l := activeLanes s r g
    let heads := (activeSlots l).filterMap fun slot => l.find? fun x => x.slot == slot
    let bad := l.filterMap fun x =>
      (heads.find? fun y => y.slot == x.slot).bind fun y => (chk s r y).map fun e =>
        (x.lane, x.slot, e, (0 : W64))
    let (s1, r1) := trapFibres s r bad
    finish ((heads.filter fun y => (chk s r y).isNone).foldl (fun s y => act s r y) s1) r1 0) s

def execWdogSet (g : Guard) (a : Src) : State → Out :=
  perCrew (.wdogSet g a) g
    (fun _ r x => if fld (srcVal x.crew r x.lane false a) 31 24 ≠ 0 then some .format else none)
    (fun s r x => s.mapCrew r.core x.slot fun k =>
      { k with wdLimit := (srcVal x.crew r x.lane false a).setWidth 24
               wdCount := 0, wdFrac := 0, wdSaid := false, wdPast := false })

def execWdogPet (g : Guard) : State → Out :=
  perCrew (.wdogPet g) g (fun _ _ _ => none)
    (fun s r x => s.mapCrew r.core x.slot fun k =>
      { k with wdCount := 0, wdFrac := 0, wdSaid := false, wdPast := false })

def execWdogBeat (g : Guard) (s : State) : Out :=
  issue (fun s r => regsOf (r.narrow s) (.wdogBeat g)) (fun s r =>
    let l := activeLanes s r g
    let slots := (activeSlots l).filter isKeeper
    if !lodgeRoom s r slots.length then holdLodge s r slots.length
    else
      let (s1, r1) := trapFibres s r (privTraps l)
      holdPerCrew s1 r1 .device 0 (slots.map fun x => (x, dieZero r.core, .beat))) s

/-! ### Performance counters (R353, R361, R362) -/

def pctrOf (t : Tab PCtr) (k : Nat) : PCtr := t.getD k ⟨0, 0⟩

/-- Counter k of a crew or of its core (R353). -/
def counterVal (co : Core) (crew : Crew) (k : Nat) : W64 :=
  if k < 4 then (pctrOf crew.pctrs k).val
  else if k < 8 then (pctrOf co.kctrs k).val
  else co.fixed.getD k 0

def execPcr (g : Guard) (k : BitVec 4) (d : Dst) : State → Out :=
  writeEach (.pcr g k d) g d 2
    (fun _ _ x => if 4 ≤ k.toNat ∧ k.toNat < 8 ∧ !isKeeper x.slot then some .privilege else none)
    (fun s r x => (counterVal (s.core r.core) x.crew k.toNat).toNat)

/-- A counter programmed (R362). -/
def pctrSet (w : W64) (p : PCtr) : PCtr :=
  { sel := (w.setWidth 32) &&& 0x3FF, val := if bit w 31 then 0 else p.val }

def execCrsv (g : Guard) (k : BitVec 4) (a : Src) : State → Out :=
  perCrew (.crsv g k a) g
    (fun _ r x =>
      let w := srcVal x.crew r x.lane false a
      if (4 ≤ k.toNat ∨ fld w 9 8 = 2) ∧ !isKeeper x.slot then some .privilege
      else if fld w 30 10 ≠ 0 ∨ fld w 9 8 = 3 ∨ 16 < fld w 7 0 then some .format
      else none)
    (fun s r x =>
      let w := srcVal x.crew r x.lane false a
      let n := k.toNat
      if n < 4 then s.mapCrew r.core x.slot fun c =>
        { c with pctrs := c.pctrs.put n (pctrSet w (pctrOf c.pctrs n)) }
      else s.mapCore r.core fun co =>
        { co with kctrs := co.kctrs.put n (pctrSet w (pctrOf co.kctrs n)) })

/-- Whether a counter of a crew counts an event of another (R353, R362). -/
def counts (p : PCtr) (ev : Nat) (own same : Bool) : Bool :=
  fld p.sel 7 0 == ev && (match fld p.sel 9 8 with | 0 => own | 1 => same | _ => true)

/-- One event brought into the counters of a core. -/
def tallyOne (co : Core) (e : Nat × Nat × Nat) : Core :=
  let (slot, ev, n) := e
  let tenant := (co.crews.get? slot).map (·.tenant)
  let up := fun (own same : Bool) (p : PCtr) =>
    if counts p ev own same then { p with val := p.val + BitVec.ofNat 64 n } else p
  { co with
    crews := co.crews.mapKV fun j (k : Crew) =>
      if k.pctrs.cells.isEmpty then k
      else { k with pctrs := k.pctrs.mapKV fun _ p => up (j == slot) (some k.tenant == tenant) p }
    kctrs := co.kctrs.mapKV fun _ p => up (isKeeper slot) (isKeeper slot) p }

/-- The events noted by a step enter the counters (R353). -/
def settleTally (s : State) : State :=
  if s.cores.vals.all fun co => co.tally.isEmpty then s
  else { s with cores := s.cores.mapKV fun _ co =>
    { co.tally.foldl tallyOne co with tally := [] } }

end Sys2Proof.Machine
end

