-- ==== Sys2Proof/Machine/Watch.lean ====
section
/-! DEFINITION. What each fibre waits for, as the watchdogs and a debugger see it: the wait
reasons, the waits that are frozen, WDSTAT, DBGPC and DBGFIB (R38, R352, R372, R383). -/
namespace Sys2Proof.Machine
open Sys2Proof

/-- The code of a wait reason (R352); `halt` is no reason of the table. -/
def Wait.code : Wait → Nat
  | .rendezvous => 1 | .barrier _ => 2 | .head .. => 3 | .queueEmpty _ => 4 | .queueFull _ => 5
  | .producerFault _ => 6 | .gate _ => 7 | .ring .. => 8 | .deque _ => 9 | .cwait _ => 10
  | .remote => 11 | .pageFault => 12 | .budget => 13 | .gang => 14 | .halt => 0

/-- PARAM: the group, queue, ring, gate bit or handle index of a wait (R372). -/
def Wait.param : Wait → Nat
  | .barrier g => g
  | .queueEmpty q | .queueFull q | .producerFault q => q
  | .gate k => k
  | .ring r _ _ => r
  | .cwait h => fld h 23 16
  | _ => 0

/-- Whether a trap parks its fibre: kind F, and FETCH_FAULT (R176, R363). -/
def Trap.parks (t : Trap) : Bool := t.cause.cls == 1

/-- Whether a fibre is parked (R38). -/
def parked (f : Fibre) : Bool :=
  match f.st with
  | .trapped t => t.parks
  | .blocked .pageFault => true
  | _ => false

/-- Whether a physical address is answered by another module or by the host (R199). -/
def farAddress (s : State) (pa : Nat) : Bool :=
  zoneOf (canonPa s pa) == .domain || zoneOf (canonPa s pa) == .host

/-- Whether a fibre's clause waits for the counter of a load that another module or the host has
yet to answer (R199, R352). -/
def remoteWait (s : State) (c slot : Nat) (k : Crew) (lane : Nat) : Bool :=
  ((s.core c).waits.find? fun w => w.fibres.contains (lane, slot)).any fun w =>
    k.flights.any fun f => bit w.hdr (46 + f.sbi) && !f.ready &&
      f.lanes.vals.any fun l => l.req.any fun q => q.pas.any (farAddress s)

/-- What a fibre waits for now, if anything (R352). -/
def laneWait (s : State) (c slot : Nat) (k : Crew) (lane : Nat) : Option Wait :=
  let co := s.core c
  match k.fibres.get? lane with
  | none => none
  | some f =>
    match f.st with
    | .blocked w => some w
    | .trapped t => if t.parks then some .pageFault else none
    | .stopped => if k.yield != .none then some .budget else none
    | _ =>
      if remoteWait s c slot k lane || s.runs.any (fun r => r.core == c && r.hold == some .remote &&
          r.fibres.contains (lane, slot)) then some .remote
      else if co.waits.any fun w => w.opens && !w.quiet && w.fibres.contains (lane, slot) then
        some (.head true false)
      else if co.gangQ.any fun a => a.slot == slot then some .gang
      else if co.latchQ.any fun a => a.slot == slot then
        -- with every crew of its gang there, the latch waits for their regions to clear
        (if (gangSlots k).all fun x => co.latchQ.any fun a => a.slot == x then some (.head true false)
         else some .gang)
      else none

/-- Whether a crew is switched out or in fault service (R352). -/
def crewAway (s : State) (who : Nat × BitVec 32) : Bool :=
  match residentAt s who.1 who.2 with
  | some (c, slot) => (s.crew? c slot).any fun k => k.fibres.vals.any parked
  | none => (evictedAt s who.1 who.2).isSome

/-- Whether every one of some peers, of which there is at least one, is away. -/
def allAway (s : State) (l : List (Nat × BitVec 32)) : Bool := !l.isEmpty && l.all (crewAway s)

/-- The crews of a launch that have not ended, but for one. -/
def otherCrews (s : State) (who : Nat × BitVec 32) : List (Nat × BitVec 32) :=
  match s.launch? who.1 with
  | some l => (l.alive.filter fun n => n != who.2).map fun n => (who.1, n)
  | none => []

/-- The member crews of a group that have not arrived in the episode (R50, R352). -/
def notArrived (s : State) (tenant grp : Nat) : List (Nat × BitVec 32) :=
  (s.cores.vals.map fun co =>
    ((co.crews.vals ++ co.evicted.map (·.crew)).filter fun k =>
      k.tenant == tenant && k.groups.contains grp &&
        (barOf k grp).sent == (barOf k grp).released).map crewId).flatten

/-- The crews of the predecessor of a crew's launch (R299). -/
def predCrews (s : State) (k : Crew) : List (Nat × BitVec 32) :=
  match (crewLaunch s k).bind fun l => l.post.pred with
  | none => []
  | some p =>
    match s.mod.launches.cells.find? fun q => q.2.post.cb == p.1 && q.2.post.tno == p.2.2 with
    | some (a, l) => l.alive.map fun n => (a, n)
    | none => []

/-- Whether the stream bound last to a queue is in fault service. -/
def streamAway (co : Core) (k : Crew) (q : Nat) : Bool :=
  (k.queues.get? q).any fun x => (lastStream co k x).any fun p => p.2.state == 3

/-- Whether the unit a handle names is in fault service (R255, R268). -/
def handleAway (co : Core) (k : Crew) (h : W32) : Bool :=
  match hKind h with
  | 0 => (ctxOf co (crewId k) (hIdx h)).any fun p => p.2.state == 3
  | 1 => ((nodeOf co (crewId k) (hIdx h)).bind fun p => p.2.ctx).any fun i =>
      (co.ctxs.get? i).any fun x => x.state == 3
  | _ => (streamOf co (crewId k) (hIdx h)).any fun p => p.2.state == 3

/-- Whether a wait is frozen: every peer that has not acted is switched out or in fault
service (R352). -/
def waitFrozen (s : State) (c slot : Nat) (k : Crew) (lane : Nat) (w : Wait) : Bool :=
  let co := s.core c
  match w with
  | .producerFault _ | .pageFault => true
  | .rendezvous =>
    match k.rdvs.find? fun v => (v.arrived.get? lane).isSome with
    | some v =>
      let missing := (lanesOf (footLanes k.foot) v.mask).filter fun l =>
        (v.arrived.get? l).isNone
      !missing.isEmpty && missing.all fun l => (k.fibres.get? l).any parked
    | none => false
  | .barrier g => allAway s (notArrived s k.tenant g)
  | .queueEmpty q | .queueFull q => streamAway co k q
  | .gate _ => allAway s (predCrews s k)
  | .ring .. => allAway s (otherCrews s (crewId k))
  | .cwait h => handleAway co k h
  | .gang =>
    let peers := (List.range (fld k.gang 34 32)).map fun i => fld k.gang (5 * i + 4) (5 * i)
    allAway s (((peers.filter fun x => x != slot && !co.latchQ.any fun a => a.slot == x)).filterMap
      fun x => (co.crews.get? x).map crewId)
  | _ => false

/-- The waits of a crew's fibres in order of the lane, each with whether it is frozen. -/
def crewWaits (s : State) (c slot : Nat) (k : Crew) : List (Nat × Wait × Bool) :=
  (liveFibres k).filterMap fun (l, _) =>
    match laneWait s c slot k l with
    | some .halt => none
    | some w => some (l, w, waitFrozen s c slot k l w)
    | none => none

/-- The reason of the lowest lane whose wait counts, 0 when none does (R352). -/
def countingReason (s : State) (c slot : Nat) (k : Crew) : Nat :=
  (((crewWaits s c slot k).find? fun x => !x.2.2).map fun x => x.2.1.code).getD 0

/-- WDSTAT (R352). -/
def wdStat (s : State) (c slot : Nat) (k : Crew) : W64 :=
  setFld (setFld (k.wdLimit.setWidth 64) 47 24 k.wdCount.toNat) 63 56 (countingReason s c slot k)

/-- SIGSTAT (R227). -/
def sigStat (k : Crew) : W64 :=
  let n := popNat 1024 k.wsig.toNat
  let m := popNat 1024 k.asig.toNat
  setBit (setBit (setFld (BitVec.ofNat 64 n) 26 16 m) 11 (k.wsat || decide (384 < n))) 27
    (k.asat || decide (384 < m))

/-- FLAGS of a fibre: LIVE, PARKED, TRAPPED and a held rendezvous arrival (R372). -/
def fibreFlags (k : Crew) (lane : Nat) : Nat :=
  match k.fibres.get? lane with
  | none => 0
  | some f =>
    1 + 2 * (parked f).toNat +
      4 * (match f.st with | .trapped _ => true | _ => false).toNat +
      8 * (k.rdvs.any fun v => (v.arrived.get? lane).isSome).toNat

/-- DBGFIB of a lane of a crew (R383). -/
def dbgFib (s : State) (c slot : Nat) (k : Crew) (lane : Nat) : W64 :=
  let w := laneWait s c slot k lane
  let cause := match (k.fibres.get? lane).map (·.st) with
    | some (.trapped t) => t.cause.code
    | _ => 0
  let arr := ((k.fibres.get? lane).map fun f => f.arr.toNat).getD 0
  setFld (setFld (setFld (setFld (BitVec.ofNat 64 cause) 35 32 (fibreFlags k lane)) 39 36 arr)
    55 40 ((w.map Wait.param).getD 0)) 63 56 ((w.map Wait.code).getD 0)

/-- DBGPC of a lane of a crew (R383). -/
def dbgPc (k : Crew) (lane : Nat) : W64 :=
  match k.fibres.get? lane with
  | none => 0
  | some f => setFld (f.pc.setWidth 64) 63 60 (match f.st with | .trapped t => t.pos | _ => f.rpos)

end Sys2Proof.Machine
end

