-- ==== Sys2Proof/Machine/System.lean ====
section
/-! DEFINITION. Software traps, returns from traps, the end of a launch by `halt`, the system
registers and the migration forms, 0x1F0 to 0x1FA (R382 to R390). -/
namespace Sys2Proof.Machine
open Sys2Proof

/-! ### trap and brk (R364, R381, R385) -/

/-- The trap of `trap`, `brk` or a single step: its resume state is the continuation after the
clause, at position 0 (R364). -/
def softTrap (r : Run) (cause : Cause) (code : BitVec 16) (cont : BitVec 56) : Trap :=
  { cause, sub := 0, code, clause := r.clause, at_ := r.pos, res := cont, pos := 0, lat := .empty
    next := cont, data := 0, delivered := false, group := 0, was := none, wr := false }

/-- Fibres take a software trap and leave the batch. -/
def softTraps (s : State) (r : Run) (cause : Cause) (code : BitVec 16) (l : List LaneCtx) :
    State × Run :=
  l.foldl (fun (p : State × Run) x =>
    (takeTrap p.1 r.core x.slot x.lane (softTrap r cause code (nextClause r.clause r.hdr)),
      p.2.drop x.lane x.slot)) (s, r)

def execTrap (g : Guard) (code : BitVec 16) (s : State) : Out :=
  issue (fun s r => regsOf (r.narrow s) (.trap g code)) (fun s r =>
    let (s1, r1) := softTraps s r .trap code (activeLanes s r g)
    finish s1 r1 0) s

/-- `brk` has no effect beyond its charge in a crew that is not attached (R381). -/
def execBrk (g : Guard) (code : BitVec 16) (s : State) : Out :=
  issue (fun s r => regsOf (r.narrow s) (.brk g code)) (fun s r =>
    let (s1, r1) := softTraps s r .break_ code
      ((activeLanes s r g).filter fun x => bit x.crew.dbg 7)
    finish s1 r1 0) s

/-! ### eret (R386) -/

/-- The traps of `eret` for a fibre: PRIVILEGE, then CONTEXT_STATE. -/
def eretTrap (s : State) (c slot : Nat) (w : W32) : Option Cause :=
  if !isKeeper slot then some .privilege
  else if fld w 31 5 ≠ 0 ∨ (s.crew? c (fld w 4 0)).isNone then some .contextState
  else none

def eret (i : Instr) (g : Guard) (act : Nat) (slot mask : Src) : State → Out :=
  holdPerFibre i g .device (fun _ => none)
    (fun s r x => eretTrap s r.core x.slot ((srcVal x.crew r x.lane false slot).setWidth 32))
    (fun _ r x => .eret act (fld (srcVal x.crew r x.lane false slot) 4 0)
      (srcVal x.crew r x.lane true mask))

def execEretRetry (g : Guard) (slot mask : Src) : State → Out :=
  eret (.eretRetry g slot mask) g 0 slot mask
def execEretNext (g : Guard) (slot mask : Src) : State → Out :=
  eret (.eretNext g slot mask) g 1 slot mask
def execEretCont (g : Guard) (slot mask : Src) : State → Out :=
  eret (.eretCont g slot mask) g 2 slot mask
def execEretQuit (g : Guard) (slot mask : Src) : State → Out :=
  eret (.eretQuit g slot mask) g 3 slot mask

/-- What `eret` does at its release (R386). -/
def eretApply (s : State) (c act slot : Nat) (mask : W64) : State :=
  returnFrom s c slot mask
    (match act with | 0 => .retry | 1 => .next | 2 => .cont | _ => .quit)

/-! ### halt (R387) -/

/-- `halt`: once per crew, with the code of its lowest active lane; its active fibres wait. -/
def execHalt (g : Guard) (code : Src) (s : State) : Out :=
  issue (fun s r => regsOf (r.narrow s) (.halt g code)) (fun s r =>
    let l := activeLanes s r g
    let heads := (activeSlots l).filterMap fun slot => l.find? fun x => x.slot == slot
    if !lodgeRoom s r heads.length then holdLodge s r heads.length
    else
      let s1 := heads.foldl (fun s x => lodgeEffect s r.core x.slot .device none
        (.halt x.crew.tenant ((srcVal x.crew r x.lane false code).setWidth 16) false)) s
      let s2 := l.foldl (fun s x => s.mapFibre r.core x.slot x.lane fun f =>
        { f with pc := nextClause r.clause r.hdr, st := .blocked .halt }) s1
      finish s2 (l.foldl (fun r x => r.drop x.lane x.slot) r) 0) s

def execHaltLaunch (g : Guard) (idx : Src) : State → Out :=
  holdPerFibre (.haltLaunch g idx) g .device (fun _ => none)
    (fun s r x =>
      let w := srcVal x.crew r x.lane false idx
      if !isKeeper x.slot then some .privilege
      else if fld w 31 6 ≠ 0 ∨ (s.launch? (fld w 5 0)).isNone then some .crewNumber
      else none)
    (fun _ r x => .halt (fld (srcVal x.crew r x.lane false idx) 5 0) 0 true)

/-! ### Reading system registers (R101, R108, R109, R227, R240, R296, R388, R389) -/

/-- The number a selector names: none for the executing crew, its tenant or its launch. -/
def selOf (co : Core) (sel : BitVec 7) : Option Nat :=
  if sel = 0x7F then none
  else if sel = 0x7E then
    if fld co.syssel 7 0 = 0x7F then none else some (fld co.syssel 7 0)
  else some sel.toNat

/-- Whether the holder that a selector names exists (R388). -/
def selHeld (s : State) (c slot : Nat) (h : Holder) (sel : Option Nat) : Bool :=
  match h, sel with
  | .crew, some n | .fibre, some n => decide (n < 32) && (s.crew? c n).isSome
  | .launch, some n | .tenant, some n => (s.launch? n).isSome
  | .launch, none => ((s.crew? c slot).bind fun k => crewLaunch s k).isSome
  | _, _ => true

/-- `%win` of a crew (R109). -/
def winWord (k : Crew) : W32 :=
  setFld (setFld (setFld (setFld (setFld (0 : W32) 31 22 k.base0) 21 12 k.base1) 11 6
    (footRegs k.foot / 8)) 5 5 (footNarrow k.foot).toNat) 4 4 (bit k.foot 54).toNat

/-- GMAP of a crew (R101). -/
def gmapWord (k : Crew) : W64 := BitVec.ofNat 64 (k.cur.toNat + 2 ^ 32 * k.dirty.toNat)

/-- LINFO of a crew (R296). -/
def linfoWord (k : Crew) (l : Launch) : W64 :=
  setFld (setFld (setFld (setFld (0 : W64) 63 48 (fld (l.post.packet.getD 2 0) 63 48)) 47 36
    l.post.qnum.toNat) 35 32 k.depth) 2 0 (k.number.toNat % max 1 l.stages)

/-- TRAPHEAD, TRAPADDR and TRAPDATA: the head of the trap queue (R366). -/
def trapHead (co : Core) : W64 :=
  match co.traps with
  | [] => setFld 0 47 40 co.lost.toNat
  | x :: _ =>
    setFld (setFld (setFld (setFld (setFld (setFld (x.code.setWidth 64) 22 19 x.pos) 27 23 x.slot)
      33 28 x.lane) 47 40 co.lost.toNat) 55 48 x.sub.toNat) 63 56 x.cause.code

/-- A register of a crew, read in a lane (R389). -/
def crewReg (s : State) (c slot lane : Nat) (k : Crew) (n : Nat) : W64 :=
  if n = 0x00 then BitVec.ofNat 64 lane
  else if n = 0x01 then k.number.setWidth 64
  else if n = 0x02 then k.place.setWidth 64
  else if n = 0x03 then k.gang
  else if n = 0x04 then k.cont
  else if n = 0x05 then (winWord k).setWidth 64
  else if n = 0x06 then (budgetOf slot k false).setWidth 64
  else if n = 0x07 then (budgetOf slot k true).setWidth 64
  else if n = 0x09 then gmapWord k
  else if n = 0x4A then sigStat k
  else if n = 0x4B then k.acur
  else if n = 0x4C then k.adirty
  else if n = 0x51 then match crewLaunch s k with | some l => linfoWord k l | none => 0
  else if n = 0x53 then k.sparg
  else if n = 0x55 then dbgPc k lane
  else if n = 0x59 then wdStat s c slot k
  else if n = 0x5B then k.dbg
  else if n = 0x5D then dbgFib s c slot k lane
  else if 0x60 ≤ n ∧ n ≤ 0x7F then
    let r := recOf k ((n - 0x60) / 2)
    if n % 2 = 0 then r.desc else r.map
  else if 0x80 ≤ n ∧ n ≤ 0x83 then (pctrOf k.pctrs (n - 0x80)).val
  else 0

/-- A register of a core, a cluster or the module, read on a core (R389). -/
def unitReg (s : State) (c n : Nat) : W64 :=
  let co := s.core c
  if n = 0x08 then tickOf s.now co
  else if n = 0x40 then co.fectl
  else if n = 0x41 then co.trmode
  else if n = 0x42 then BitVec.ofNat 64 (l1Ways co)
  else if n = 0x44 then (s.cluster (clusterOf c)).quota
  else if n = 0x48 then co.qwin
  else if n = 0x49 then co.qstorm
  else if n = 0x4D then (s.cluster (clusterOf c)).curcap
  else if n = 0x54 then s.mod.coolctl
  else if n = 0x56 then s.mod.cbhbase
  else if n = 0x57 then co.tblstat
  else if n = 0x58 then co.hbctl
  else if n = 0x5A then co.syssel
  else if n = 0x5E then co.thctl
  else if n = 0x5F then s.mod.esctl
  else if n = 0x90 then trapHead co
  else if n = 0x91 then ((co.traps.head?).map (·.addr)).getD 0
  else if n = 0x92 then ((co.traps.head?).map (·.data)).getD 0
  else if n = 0x94 then (s.core (fld co.syssel 7 0)).caprec
  else 0

/-- A register of a launch or a tenant (R171, R296). -/
def launchReg (s : State) (keeper : Bool) (tenant n : Nat) : W64 :=
  match s.launch? tenant with
  | none => if n = 0x43 ∧ keeper then s.mod.ktctx else 0
  | some l =>
    if n = 0x43 then l.tctx
    else if n = 0x50 then l.post.packet.getD 6 0
    else if n = 0x52 then l.image.setWidth 64
    else 0

/-- The value of a system register as it stands (R388). -/
def sysVal (s : State) (c slot lane : Nat) (k : Crew) (h : Holder) (n : Nat) (sel : Option Nat) :
    W64 :=
  match h with
  | .fibre | .crew =>
    let at_ := sel.getD slot
    match s.crew? c at_ with
    | some q => crewReg s c at_ lane q n
    | none => 0
  | .launch | .tenant => launchReg s (isKeeper slot && sel.isNone) (sel.getD k.tenant) n
  | _ => unitReg s c n

/-- The lead core, whose Keeper is the Keeper of die 0 (R322, R412). -/
def leadCore (s : State) : Nat := fld s.mod.bootstat 55 48

/-- The traps of `sysrd` and `syswr`: PRIVILEGE, then CONTEXT_STATE (R388). -/
def sysTrap (s : State) (c slot : Nat) (q : SysReg) (write : Bool) (sel : BitVec 7) :
    Option Cause :=
  let lead := q.lead || (write && q.holder == .module)
  if (q.keeper || write || sel != 0x7F) && !isKeeper slot then some .privilege
  else if lead && c != leadCore s then some .privilege
  else if !selHeld s c slot q.holder (selOf (s.core c) sel) then some .contextState
  else none

/-- A row of the register table for a number that decode has let pass. -/
def regRow (n : BitVec 16) : SysReg := (sysReg n).getD ⟨.core, true, true, false, false⟩

/-- `sysrd` (R388): scoreboarded, with the value as it stands when it performs. -/
def execSysrd (g : Guard) (n : BitVec 16) (sel : BitVec 7) (d : Dst) (s : State) : Out :=
  issue (fun s r => regsOf (r.narrow s) (.sysrd g n sel d)) (fun s r =>
    if sbFull s r then retryRun s r
    else
      let q := regRow n
      let l := (activeLanes s r g).map fun x => (x, sysTrap s r.core x.slot q false sel)
      let bad := l.filterMap fun p => p.2.map fun e => (p.1.lane, p.1.slot, e, (0 : W64))
      let (s1, r1) := trapFibres s r bad
      let m := if q.wide then 2 else 1
      let fl := (l.filter fun p => p.2.isNone).map fun p =>
        (p.1, readyLane d m (4 * m) false
          (sysVal s r.core p.1.slot p.1.lane p.1.crew q.holder n.toNat
            (selOf (s.core r.core) sel)).toNat)
      finish (addFlights s1 r1 (lanesTab fl)) r1 0) s

/-- `syswr` (R388): a device write, one for each active fibre. -/
def execSyswr (g : Guard) (n : BitVec 16) (sel : BitVec 7) (a : Src) : State → Out :=
  let q := regRow n
  holdPerFibre (.syswr g n sel a) g .device
    (fun c => if q.holder = .module then dieZero c else none)
    (fun s r x => sysTrap s r.core x.slot q true sel)
    (fun s r x =>
      .syswr n ((selOf (s.core r.core) sel).getD
        (if q.holder = .tenant then x.crew.tenant else x.slot))
        (srcVal x.crew r x.lane q.wide a))

/-! ### Writing system registers at their release (R388) -/

/-- FECTL (R40): refused whole below either minimum. -/
def fectlSet (s : State) (c : Nat) (w : W64) : State :=
  if fld w 31 16 < 64 ∨ fld w 7 0 < 4 then s
  else s.mapCore c fun co => { co with fectl := w &&& 0xFFFF00FF }

/-- TRMODE (R90): a 1 clears TR. -/
def trmodeSet (s : State) (c : Nat) (w : W64) : State :=
  if bit w 0 then s.mapCore c fun co => { co with trmode := setBit co.trmode 0 false } else s

/-- L2QUOTA of the cluster of a core (R164). -/
def quotaSet (s : State) (c : Nat) (w : W64) : State :=
  if [fld w 4 0, fld w 9 5, fld w 14 10, fld w 19 15].all fun n => 1 ≤ n && n ≤ 16 then
    s.mapCluster (clusterOf c) fun cl => { cl with quota := w &&& 0xFFFFF }
  else s

/-- QWIN (R206): refused below FLOOR. A region whose close point is still to come loads the new window
there (R208). -/
def qwinSet (s : State) (c : Nat) (w : W64) : State :=
  if fld w 15 0 < fld (s.core c).qwin 31 16 then s
  else s.mapCore c fun co =>
    let late := fun (g : Region) => if s.now < g.close then { g with win := fld w 15 0 } else g
    { co with qwin := setFld co.qwin 15 0 (fld w 15 0)
              crews := co.crews.mapKV fun _ (k : Crew) => { k with region := k.region.map late } }

/-- QSTORM (R213): refused for a limit of 0. -/
def qstormSet (s : State) (c : Nat) (w : W64) : State :=
  if fld w 39 32 = 0 then s
  else s.mapCore c fun co => { co with qstorm := setFld co.qstorm 39 32 (fld w 39 32) }

/-- CURCAP of the cluster of a core (R243). -/
def curcapSet (s : State) (c : Nat) (w : W64) : State :=
  if fld w 7 0 < 12 then s
  else s.mapCluster (clusterOf c) fun cl => { cl with curcap := setFld cl.curcap 7 0 (fld w 7 0) }

/-- COOLCTL (R332): refused whole for a range, for CAP below the grants and for ZMIN above what
a zone has and asks for. -/
def coolctlSet (s : State) (w : W64) : State :=
  let zones := (List.range 64).map fun z => zoneOfMod s.mod z
  if fld w 47 40 < 5 ∨ 40 < fld w 47 40 ∨ fld w 39 32 < 50 ∨ 95 < fld w 39 32 ∨
      fld w 31 24 < 10 ∨ 60 < fld w 31 24 ∨ fld w 12 0 < 640 ∨ 4500 < fld w 12 0 ∨
      fld w 12 0 < grantSum s.mod ∨
      (zones.any fun z => zState z != 4 && decide (zGrant z + zReq z < fld w 31 24)) then s
  else s.mapMod fun m => { m with coolctl := w &&& 0xFFFFFF001FFF }

/-- HBCTL (R351): refused whole for a period below 10. -/
def hbctlSet (s : State) (c : Nat) (w : W64) : State :=
  if fld w 31 16 < 10 then s
  else s.mapCore c fun co => { co with hbctl := w &&& 0xFFFF0003 }

/-- THCTL (R375): refused whole unless the thresholds are ordered and WAIT is at least 1. -/
def thctlSet (s : State) (c : Nat) (w : W64) : State :=
  if 60 ≤ fld w 31 24 ∧ fld w 31 24 < fld w 39 32 ∧ fld w 39 32 < fld w 47 40 ∧
      fld w 47 40 < fld w 55 48 ∧ fld w 55 48 ≤ 125 ∧ 1 ≤ fld w 15 0 then
    s.mapCore c fun co => { co with thctl := setFld (setFld co.thctl 55 24 (fld w 55 24)) 15 0
                                      (fld w 15 0) }
  else s

/-- Device memory in units of 1 GiB: the addresses of the LPDDR-5X (R17). -/
def inDeviceMemory (pa : Nat) : Bool := zoneOf pa == .device

/-- ESCTL (R379): refused when BASE lies outside device memory. -/
def esctlSet (s : State) (w : W64) : State :=
  if fld w 63 56 ≠ 0 ∨ !inDeviceMemory (fld w 63 34 * 2 ^ 30) then s
  else s.mapMod fun m => { m with esctl := setFld m.esctl 63 34 (fld w 63 34) }

/-- Crews of a launch stop or go on as their holds and freezes say (R380, R381). -/
def refreeze (s : State) (tenant : Nat) : State :=
  s.cores.cells.foldl (fun s (c, co) =>
    (co.crews.cells.filter fun p => p.2.tenant == tenant).foldl (fun s p =>
      match s.crew? c p.1 with
      | some k => if crewStopped s k then stopFibres s c p.1 else unstop s c p.1
      | none => s) s) s

/-- DBGCTL of the crew in a slot: bits 7 to 4 (R380). -/
def dbgctlSet (s : State) (c slot : Nat) (w : W64) : State :=
  match s.crew? c slot with
  | none => s
  | some k =>
    refreeze (s.setCrew c slot { k with dbg := setFld k.dbg 7 4 (fld w 7 4) }) k.tenant

/-- A flight without its write of a register, none when nothing of it remains (R382). -/
def killFlight (v : Nat) (f : Flight) : Option Flight :=
  let lanes := (f.lanes.mapKV fun _ (l : FLane) =>
      if l.reg ≤ v && v < l.reg + l.n then { l with dead := v :: l.dead } else l).keep
    fun _ (l : FLane) => (List.range l.n).any fun i => !l.dead.contains (l.reg + i)
  if lanes.cells.isEmpty && !f.lanes.cells.isEmpty then none else some { f with lanes }

/-- DBGKILL (R382): the write-backs in flight to a register of a held crew are cancelled; to a
crew that is not held it has no effect, and TBLSTAT records code 1. -/
def dbgkillSet (s : State) (c slot : Nat) (w : W64) : State :=
  match s.crew? c slot with
  | none => s
  | some k =>
    if !dbgHeld k then tableRefuse s c 0 slot 1
    else
      let gone := k.flights.filter fun f => (killFlight (fld w 7 0) f).isNone
      let sb := gone.foldl (fun (t : Tab (BitVec 8)) f => t.put f.sbi (t.getD f.sbi 0 - 1)) k.sb
      s.setCrew c slot { k with flights := k.flights.filterMap (killFlight (fld w 7 0)), sb }

/-- TBLSTAT (R330): a 1 clears a bit of CODE. -/
def tblstatSet (s : State) (c : Nat) (w : W64) : State :=
  s.mapCore c fun co =>
    { co with tblstat := setFld co.tblstat 7 0 ((co.tblstat &&& ~~~w).toNat % 256) }

/-- TRAPPOP: the head record leaves, LOST returns to 0, and a waiting record enters (R365,
R366). -/
def trapPop (s : State) (c : Nat) : State :=
  s.mapCore c fun co => trapRefill { co with traps := co.traps.tail, lost := 0 }

/-- TCTX of a tenant, or of the Keepers (R171). -/
def tctxSet (s : State) (tenant : Nat) (w : W64) : State :=
  let v := w &&& 0xFFFFF1FFFFFFFFFF
  let s := s.mapMod fun m => { m with roots := m.roots.put (tctxPasid v).toNat (tctxRoot v) }
  if tenant = Config.noTenant then s.mapMod fun m => { m with ktctx := v }
  else s.mapLaunch tenant fun l => { l with tctx := v }

/-- A register with no behaviour of its own (R388). -/
def plainSet (s : State) (c n sel : Nat) (w : W64) : State :=
  if n = 0x43 then tctxSet s sel w
  else if n = 0x56 then s.mapMod fun m => { m with cbhbase := w }
  else if n = 0x5A then s.mapCore c fun co => { co with syssel := w &&& 0xFF }
  else s

/-- What `syswr` does at its release (R388). -/
def sysApply (s : State) (c n sel : Nat) (w : W64) : State :=
  if n = 0x40 then fectlSet s c w
  else if n = 0x41 then trmodeSet s c w
  else if n = 0x44 then quotaSet s c w
  else if n = 0x48 then qwinSet s c w
  else if n = 0x49 then qstormSet s c w
  else if n = 0x4D then curcapSet s c w
  else if n = 0x54 then coolctlSet s w
  else if n = 0x57 then tblstatSet s c w
  else if n = 0x58 then hbctlSet s c w
  else if n = 0x5B then dbgctlSet s c sel w
  else if n = 0x5C then dbgkillSet s c sel w
  else if n = 0x5E then thctlSet s c w
  else if n = 0x5F then esctlSet s w
  else if n = 0x93 then trapPop s c
  else plainSet s c n sel w

def execFectlWrite (core : Nat) (w : W64) (s : State) : Out := .next (fectlSet s core w)
def execTrmodeWrite (core : Nat) (w : W64) (s : State) : Out := .next (trmodeSet s core w)
def execL2quotaWrite (core : Nat) (w : W64) (s : State) : Out := .next (quotaSet s core w)
def execQwinWrite (core : Nat) (w : W64) (s : State) : Out := .next (qwinSet s core w)
def execQstormWrite (core : Nat) (w : W64) (s : State) : Out := .next (qstormSet s core w)
def execCurcapWrite (core : Nat) (w : W64) (s : State) : Out := .next (curcapSet s core w)
def execCoolctlWrite (_core : Nat) (w : W64) (s : State) : Out := .next (coolctlSet s w)
def execHbctlWrite (core : Nat) (w : W64) (s : State) : Out := .next (hbctlSet s core w)
def execThctlWrite (core : Nat) (w : W64) (s : State) : Out := .next (thctlSet s core w)
def execEsctlWrite (_core : Nat) (w : W64) (s : State) : Out := .next (esctlSet s w)
def execDbgctlWrite (core slot : Nat) (w : W64) (s : State) : Out :=
  .next (dbgctlSet s core slot w)
def execDbgkillWrite (core slot : Nat) (w : W64) (s : State) : Out :=
  .next (dbgkillSet s core slot w)
def execTblstatClear (core : Nat) (w : W64) (s : State) : Out := .next (tblstatSet s core w)
def execTrappopWrite (core : Nat) (s : State) : Out := .next (trapPop s core)
def execSystemRegisterWrite (core : Nat) (n : BitVec 16) (sel : Nat) (w : W64) (s : State) :
    Out := .next (plainSet s core n.toNat sel w)

/-! ### mig (R390) -/

/-- Whether a move or a save is in progress on a core. -/
def moveBusy (co : Core) : Bool :=
  co.moving.isSome || co.saveSeq.isSome ||
    co.migs.any fun m => match m with | .save .. => true | _ => false

/-- Whether a crew of a launch is resident on a core. -/
def launchResident (s : State) (tenant : Nat) : Bool :=
  s.cores.vals.any fun co => co.crews.vals.any fun k => k.tenant == tenant

/-- The traps of a form of `mig` for a Keeper's fibre (R390): of the place, of the address, and
of the state. -/
def migTrap (s : State) (c : Nat) (x : LaneCtx) (pl : Option PlaceOp) (addr : Option W64)
    (bad : Nat → Bool) : Option Cause :=
  if !isKeeper x.slot then some .privilege
  else
    let place := match pl with
      | some p => placeResolve s c x.slot x.crew p
      | none => .ok (0, c)
    match place with
    | .error e => some e
    | .ok (_, t) =>
      if addr.any fun a => fld a 11 0 != 0 then some .alignment
      else if bad t then some .contextState
      else none

/-- The place a `mig` form names; it has passed `migTrap`. -/
def migPlace (s : State) (c : Nat) (x : LaneCtx) (pl : PlaceOp) : Nat :=
  match placeResolve s c x.slot x.crew pl with | .ok (n, _) => n | .error _ => 0

/-- A form of `mig`: a held device write for each active fibre. -/
def mig (i : Instr) (g : Guard) (chk : State → Run → LaneCtx → Option Cause)
    (eff : State → Run → LaneCtx → Effect) : State → Out :=
  holdPerFibre i g .device (fun _ => none) chk eff

def execMigMove (g : Guard) (pl : PlaceOp) : State → Out :=
  mig (.migMove g pl) g
    (fun s r x => migTrap s r.core x (some pl) none fun t =>
      moveBusy (s.core r.core) || moveBusy (s.core t))
    (fun s r x => .migMove (migPlace s r.core x pl))

def execMigSave (g : Guard) (slot addr : Src) : State → Out :=
  mig (.migSave g slot addr) g
    (fun s r x =>
      let w := srcVal x.crew r x.lane false slot
      migTrap s r.core x none (some (srcVal x.crew r x.lane true addr)) fun _ =>
        fld w 31 5 != 0 || (s.crew? r.core (fld w 4 0)).isNone)
    (fun _ r x => .migSave (fld (srcVal x.crew r x.lane false slot) 4 0)
      ((srcVal x.crew r x.lane true addr).setWidth 56))

def execMigLoad (g : Guard) (addr : Src) (pl : PlaceOp) : State → Out :=
  mig (.migLoad g addr pl) g
    (fun s r x => migTrap s r.core x (some pl) (some (srcVal x.crew r x.lane true addr))
      fun _ => false)
    (fun s r x => .migLoad (migPlace s r.core x pl) ((srcVal x.crew r x.lane true addr).setWidth 56))

def execMigLsave (g : Guard) (idx addr : Src) : State → Out :=
  mig (.migLsave g idx addr) g
    (fun s r x =>
      let w := srcVal x.crew r x.lane false idx
      migTrap s r.core x none (some (srcVal x.crew r x.lane true addr)) fun _ =>
        fld w 31 6 != 0 || (s.launch? (fld w 5 0)).isNone || launchResident s (fld w 5 0))
    (fun _ r x => .migLsave (fld (srcVal x.crew r x.lane false idx) 5 0)
      ((srcVal x.crew r x.lane true addr).setWidth 56))

def execMigLload (g : Guard) (org addr : Src) : State → Out :=
  mig (.migLload g org addr) g
    (fun s r x => migTrap s r.core x none (some (srcVal x.crew r x.lane true addr)) fun _ =>
      fld (srcVal x.crew r x.lane false org) 31 8 != 0)
    (fun _ r x =>
      let w := srcVal x.crew r x.lane false org
      .migLload (fld w 1 0) (fld w 4 2) (fld w 7 5) ((srcVal x.crew r x.lane true addr).setWidth 56))

end Sys2Proof.Machine
end

