-- ==== Sys2Proof/Machine/Restart.lean ====
section
/-! DEFINITION. Sensor events: the squash of an uncleared region and the restart of its crew
(R29, R102, R211 to R213, R239, R241, R253, R264), and its reissue. -/
namespace Sys2Proof.Machine
open Sys2Proof

/-! ### Squashing one region (R211) -/

/-- The uncleared lodge entries of a crew's region. -/
def regionEntry (k : Crew) (slot : Nat) (e : LEntry) : Bool :=
  e.slot == slot && e.rseq == k.rseq && !e.cleared

/-- The matrix queue without a crew: entries that name no other crew leave it (R241). -/
def cutQueue (slot : Nat) (l : List MEntry) : List MEntry :=
  (l.map fun (e : MEntry) =>
    { e with crews := e.crews.filter fun p => p.1 != slot
             out := e.out.filter fun p => p.1 != slot }).filter fun e => !e.crews.isEmpty

/-- The crew's entries leave the matrix queue; the units of an executing one are returned, and
the request of one that waits is withdrawn (R241, R243). -/
def dropMatrix (s : State) (c slot : Nat) : State :=
  let co := s.core c
  let alone := fun (e : MEntry) => e.crews.all fun p => p.1 == slot
  let s1 := s.mapCore c fun co => dropFills slot { co with mq := cutQueue slot co.mq }
  match co.mq with
  | e :: _ =>
    if !alone e then s1
    else if e.units != 0 then returnUnits s1 (clusterOf c) e.units
    else if e.asked then s1.mapCluster (clusterOf c) fun cl =>
      { cl with curQ := cl.curQ.filter fun q => !(q.core == c && q.who == 0) }
    else s1
  | [] => s1

/-- A fibre as the checkpoint holds it: one that stood in a bin or a batch stands at the clause
boundary. -/
def ckFibre (f : Fibre) : Fibre :=
  { f with st := match f.st with | .binned | .running => .stopped | x => x }

/-- A record as a restart leaves it (R239): a released one is reserved again, and none is
filled. -/
def ckRec (r : Rec) : Rec := { r with desc := setBit r.desc 19 false, fault := none }

/-- A queue of the checkpoint after a restart: a binding or an unbinding made in the region is undone
(R310); of one that stood, what pushes of the region advanced goes back, and what pops and streams
advanced stands (R305). -/
def ckQueue (now : Option OQueue) (q : OQueue) : OQueue :=
  match now with
  | some n => if n.fresh then q else if q.out then { n with cur := q.cur, last := q.last } else { n with last := q.last }
  | none => q

/-- The number reserve after a squash: the region's numbers return to it (R302). -/
def reserveBack (k : Crew) : List (BitVec 32) :=
  ((k.reserve ++ k.taken).foldl (fun l n => insertNat n.toNat l) []).map (BitVec.ofNat 32)

/-- Arrivals that the squash withdraws (R51, R134). -/
def barsBack (gone : List LEntry) (t : Tab BarSt) : Tab BarSt :=
  gone.foldl (fun t e => match e.eff with
    | .arrive g => match t.get? g with
      | some b => t.put g { b with sent := b.sent - 1 }
      | none => t
    | _ => t) t

/-- The crew as its checkpoint holds it (R211, step 4). -/
def restoreCrew (now : Nat) (gone : List LEntry) (g : Region) (k : Crew) : Crew :=
  let k := regRestore k
  let fibres := g.ck.fibres.mapKV fun _ f => ckFibre f
  let y := if g.ck.ib = 0 ∨ g.ck.mb = 0 then
      (if k.yield = .none then YieldSt.none else .entering) else .none
  { k with
    acur := k.acur ^^^ k.adirty, adirty := 0
    fibres, ib := g.ck.ib, mb := g.ck.mb, cont := g.ck.cont
    recs := g.ck.recs.mapKV fun _ r => ckRec r
    queues := g.ck.queues.mapKV fun q x => ckQueue (k.queues.get? q) x
    reserve := reserveBack k, taken := [], rdvs := g.ck.rdvs
    bars := barsBack gone k.bars
    sb := .empty, flights := [], opening := 0, yield := y
    ended := fibres.cells.isEmpty
    woken := none, region := some { g with close := now, again := 1, redo := [], freed := [] } }

/-- BREAK and STEP records of a crew whose fibres are trapped no more (R365). -/
def withdrawRecords (s : State) (c slot : Nat) : State :=
  match s.crew? c slot with
  | none => s
  | some k =>
    let ok := fun (x : TrapRec) =>
      !(x.slot == slot && (x.cause == .break_ || x.cause == .step)) ||
        (k.fibres.get? x.lane).any isTrapped
    releaseHold (s.mapCore c fun co =>
      { co with traps := co.traps.filter ok, trapWait := co.trapWait.filter ok }) c slot

/-- The squash of a crew's uncleared region, without what follows it (R211, steps 1 to 4). -/
def squashCrew (s : State) (c slot : Nat) : State :=
  match s.crew? c slot with
  | none => s
  | some k =>
    match k.region with
    | none => s
    | some g =>
      let gone := (s.core c).lodge.filter (regionEntry k slot)
      let stays := fun (e : LEntry) => !regionEntry k slot e
      let s1 := s.mapCore c fun co => { co with lodge := co.lodge.filter stays }
      let s2 := (dedup (gone.filterMap (·.home))).foldl
        (fun s d => netSend s c d (.squash slot k.rseq)) s1
      let s3 := returnResv (dropMatrix (pullCrew s2 c slot) c slot) c slot
      refillRecs (withdrawRecords (s3.mapCrew c slot (restoreCrew s.now gone g)) c slot) c slot

/-- The crews that a squash of some crews reaches: those of linked regions with them (R253). -/
def withLinked (s : State) (c : Nat) (slots : List Nat) : List Nat :=
  dedup (slots ++ (slots.map fun x =>
    (((s.crew? c x).bind (·.region)).map (·.link)).getD []).flatten)

/-- The crews of a core that have an uncleared region. -/
def uncleared (s : State) (c : Nat) : List Nat :=
  ((s.core c).crews.cells.filter fun p => p.2.region.isSome).map (·.1)

/-- The region numbers of crews, for the engine. -/
def regionTags (s : State) (c : Nat) (slots : List Nat) : List (Nat × BitVec 16) :=
  slots.filterMap fun x => (s.crew? c x).map fun k => (x, k.rseq)

/-! ### Restarts (R211 to R213) -/

/-- What a restart counts: one restart of the crew and the budgets it restores (R353), and with
`storm` one towards QSTORM; at the limit REGION_STORM is raised (R213). -/
def countRestart (s : State) (c slot : Nat) (ib mb : Nat) (storm : Bool) : State :=
  let s := countFixed (countFixed (countFixed s c 10 1) c 14 ib) c 15 mb
  let s := note s c slot 6 1
  s.mapCrew c slot fun k =>
    let n := k.storms + storm.toNat
    let hit := storm && decide (fld (s.core c).qstorm 39 32 ≤ n)
    { k with storms := n, restartAt := s.now + 8 * clockDiv s c
             pendC := if hit && k.pendC.isNone then some .regionStorm else k.pendC
             stopAll := k.stopAll || hit }

/-- The cells that a restart restores: the copies of the renamed granules and blocks that are not
current (R112, R211). -/
def restoredSites (k : Crew) : Site → Bool
  | .reg copy v _ => bit k.dirty (v / 8) && copy != bit k.cur (v / 8)
  | .acc copy key => bit k.adirty (key / 1024) && copy != bit k.acur (key / 1024)
  | _ => false

/-- A crew is to take MACHINE_CHECK at its head, eight cycles on (R112, R178, R365). -/
def headCheck (s : State) (c slot sector : Nat) : State :=
  s.mapCrew c slot fun k =>
    if k.pendC.isSome then k
    else { k with pendC := some .machineCheck, pendAt := sector, stopAll := true
                  restartAt := max k.restartAt (s.now + 8 * clockDiv s c) }

/-- The squash and restart of a crew with an uncleared region; one whose checkpoint copy is found
uncorrectable is not restarted and takes MACHINE_CHECK at its head instead (R112). -/
def restartCrew (s : State) (c slot : Nat) (storm : Bool) : State :=
  match s.crew? c slot with
  | none => s
  | some k =>
    match k.region with
    | none => s
    | some g =>
      let (s, bad) := readSites s c (some (c, slot)) (restoredSites k)
      let s1 := countRestart (squashCrew s c slot) c slot (g.ck.ib.toNat - k.ib.toNat)
        (g.ck.mb.toNat - k.mb.toNat) storm
      match bad with
      | some x => headCheck s1 c slot (cellSector c k x)
      | none => s1

/-- A report reaches a core in this cycle (R211, R212, R264); further ones of the cycle act with
it as one. -/
def reportCore (s : State) (c : Nat) : State :=
  if (s.core c).reportAt = s.now + 1 then s
  else
    let slots := uncleared s c
    let s1 := s.mapCore c fun co =>
      { co with reportAt := s.now + 1
                qstorm := setFld co.qstorm 31 0 (fld co.qstorm 31 0 + 1) }
    let s2 := engineSquash s1 c (regionTags s1 c slots)
    slots.foldl (fun s x => restartCrew s c x true) s2

/-- The squash and restart of some crews of a core and of those linked to them, as R160 and
R369 do it: only the units of their own regions are squashed. -/
def restartOnly (s : State) (c : Nat) (slots : List Nat) (storm : Bool) : State :=
  let l := (withLinked s c slots).filter fun x => (s.crew? c x).any fun k => k.region.isSome
  let s1 := (regionTags s c l).foldl (fun s p => engineCancel s c p.1 p.2) s
  l.foldl (fun s x => restartCrew s c x storm) s1

/-- SENSOR_REPORT (R211): the report reaches every core of the sensor's vale. A report that
comes in after its latency is the event's argument only by its cycle. -/
def execSensorReport (sensor : Nat) (s : State) : Out :=
  if sensorOn s sensor && sensor < 1664 then .next ((sensorCores sensor).foldl reportCore s)
  else .next s

/-! ### Reissue (R211, step 5; R423) -/

/-- Whether the head of a restarted region may issue: nothing but the restart holds the crew. -/
def reissueReady (s : State) (k : Crew) : Bool :=
  (k.region.any fun g => g.again == 1) &&
    !crewStopped s { k with region := k.region.map fun g => { g with again := 0 } }

/-- What fibres that a Keeper ended or resumed since the checkpoint leave to do again after a
restart: the departures of a crew without fibres, and the arrivals that the others complete (R127,
R134, R386). -/
def repeatEnds (s : State) (c slot : Nat) : State :=
  match s.crew? c slot with
  | none => s
  | some k =>
    if (liveFibres k).isEmpty then
      (quitEffects k).foldl (fun s p => lodgeEffect s c slot p.1 none p.2) s
    else lateArrivals s c slot

/-- The fibres of a restarted crew that are to issue its head again. -/
def redoLanes (g : Region) (k : Crew) : List Nat :=
  (k.fibres.cells.filter fun p => g.lanes.contains p.1 && p.2.st == .stopped && p.2.pc == g.head &&
    p.2.rpos == 0).map (·.1)

/-- The fibres of a crew that is no longer held enter the bins as those of the cycle before, so that a
bin they fill may issue now (R49, R211). -/
def rebin (s : State) (c slot : Nat) : State :=
  { unstop { (s.mapCrew c slot fun k => { k with restartAt := 0 }) with now := s.now - 1 } c slot with
    now := s.now }

/-- RESTART_REISSUE (R49, R211): eight cycles after the restart every fibre's continuation stands in
the bins anew; those at the head issue it within the region that it opened. -/
def execRestartReissue (c slot : Nat) (s : State) : Out :=
  match s.crew? c slot with
  | none => .next s
  | some k =>
    match k.region with
    | none => .next s
    | some _ =>
      if !reissueReady s k then .next s
      else
        let s1 := s.mapCrew c slot fun k => { k with region := k.region.map fun g =>
          { g with again := 0, redo := redoLanes g k } }
        .next (repeatEnds (rebin s1 c slot) c slot)

end Sys2Proof.Machine
end

