-- ==== Sys2Proof/Machine/LaunchEnd.lean ====
section
/-! DEFINITION. The end of a crew and of a launch: footprints released, completion words, the
completion of a launch and its end by `halt` or a trap (R110, R255, R273, R297, R299, R333,
R367, R387). -/
namespace Sys2Proof.Machine
open Sys2Proof

/-! ### Addresses as the module translates them (R287, R297) -/

/-- The root table of an address space: 0 until a Keeper writes TCTX (R171). -/
def spaceRoot (s : State) (pasid : BitVec 20) : BitVec 41 := s.mod.roots.getD pasid.toNat 0

/-- A walker's translation of a virtual address, checked as a load or a store of a user
program; it uses no TLB. -/
def modXlate (s : State) (pasid : BitVec 20) (write : Bool) (va : Nat) :
    Except Cause (State × Nat × W64) :=
  match walkFrom s Cluster.reset pasid va 5 0 (rootTable (spaceRoot s pasid)) [] with
  | .error e => .error e
  | .ok (l, _) =>
    match leafCheck l.w false write false with
    | some e => .error e
    | none =>
      let (s, t) := markLeaf s
        { pasid, level := l.level, page := va / 2 ^ pageBits l.level, leaf := l.w, at_ := l.at_ }
        write
      let pa := canonPa s (leafPa t.leaf t.level va)
      match zoneOf pa with
      | .device | .host => .ok (s, pa, t.leaf)
      | .domain => if domainPresent s pa then .ok (s, pa, t.leaf) else .error .domainAbsent
      | _ => .error .permission

/-- Whether a word that the module is to reach lies in host memory while the link is down (R405). -/
def modAway (s : State) (pasid : BitVec 20) (va : Nat) : Bool :=
  match walkFrom s Cluster.reset pasid va 5 0 (rootTable (spaceRoot s pasid)) [] with
  | .ok (l, _) => hostAway s (leafPa l.w l.level va)
  | .error _ => false

/-- A word of n bytes that the module reads at its home, bypassing every cache. -/
def modRead (s : State) (pasid : BitVec 20) (va n : Nat) : Except Cause (State × Nat) :=
  match modXlate s pasid false va with
  | .error e => .error e
  | .ok (s, pa, _) =>
    let s := homeCollect s pa
    .ok (s, homeWord s pa n)

/-- Words of 8 bytes from an aligned address on. -/
def modWords (pasid : BitVec 20) : Nat → Nat → State → Except Cause (State × List W64)
  | 0, _, s => .ok (s, [])
  | n + 1, va, s =>
    match modRead s pasid va 8 with
    | .error e => .error e
    | .ok (s1, w) =>
      match modWords pasid n (va + 8) s1 with
      | .error e => .error e
      | .ok (s2, l) => .ok (s2, BitVec.ofNat 64 w :: l)

/-- A release-order update of a word at package scope by the module: every cluster writes its
dirty sectors back, and the record is saturated, which matches every line (R229). -/
def modRelease (s : State) (pa : Nat) (f : W64 → W64) (replace : Bool) : State :=
  let s1 := s.clusters.keys.foldl
    (fun s k => releaseActions s (8 * k) .package fun _ => true) s
  let s2 := homeCollect s1 pa
  let w : W64 := BitVec.ofNat 64 (homeWord s2 pa 8)
  sidePublish (homePuts s2 pa (toBytes 8 (f w).toNat)) pa (0, true) replace

/-! ### Leaving a power state (R418) -/

/-- A doorbell, a CXL.mem request in S4 or a placement starts the exit from S3 and S4 at once. -/
def wakeModule (s : State) : State :=
  if s.mod.pstate.toNat < 3 then s else s.mapMod fun m => { m with pstate := 0 }

/-- A placement on a core of a cluster whose clocks are stopped starts it. -/
def wakeCluster (s : State) (c : Nat) : State :=
  if (s.cluster (clusterOf c)).pstate = 0 then s
  else s.mapCluster (clusterOf c) fun k => { k with pstate := 0 }

/-! ### Completion words (R293, R297, R387) -/

/-- DONE of a launch packet. -/
def pkDone (ws : List W64) : Nat := fld (ws.getD 7 0) 55 0

/-- A completion word changed under the launch's PASID; a failing write is not made, and
DONE_FAULT goes to the Keeper of die 0. -/
def doneUpdate (s : State) (p : Posted) (f : W64 → W64) : State :=
  let va := pkDone p.packet
  if va = 0 then s
  else match modXlate s p.pasid true va with
    | .ok (s, pa, _) => modRelease s pa f false
    | .error _ => report s (leadCore s) .doneFault 0 0 (BitVec.ofNat 64 va)
        (BitVec.ofNat 64 (pkTag p.packet))

/-- The word that a failed launch is marked with. -/
def doneBad (code status : Nat) : W64 :=
  (0x8000000000000000 : W64) ||| BitVec.ofNat 64 (code * 65536 + status)

/-! ### The end of a crew (R110, R255, R297, R333) -/

/-- HEATSUM of a zone: the declared heat of its resident crews (R331). -/
def zoneHeat (s : State) (z : Nat) : Nat :=
  ((s.cores.cells.filter fun p => zoneOfCore p.1 == z).map fun p =>
    ((guests p.2).map fun q => fld q.2.foot 13 0).sum).sum

/-- The heat of the placements that the controller has admitted in this cycle on a zone's cores. -/
def claimHeat (s : State) (z : Nat) : Nat :=
  ((s.cores.cells.filter fun p => zoneOfCore p.1 == z).map fun p => p.2.claim.getD 0).sum

/-- HEATSUM of the zone of a core brought to what is resident and what has been admitted. -/
def reheat (s : State) (c : Nat) : State :=
  let z := zoneOfCore c
  let h := zoneHeat s z + claimHeat s z
  if zHeat (zoneOfMod s.mod z) = h then s
  else mapZone s z fun x => { x with w0 := setFld x.w0 31 0 h }

/-- Whether a tenant has a crew resident on a core. -/
def tenantOn (co : Core) (tenant : Nat) : Bool := co.crews.vals.any fun k => k.tenant == tenant

/-- A crew leaves its core: its gang dissolves, its footprint is free, and the slot table
follows when its tenant has no other crew there (R110, R320). -/
def leaveCore (s : State) (c slot : Nat) : State :=
  match s.crew? c slot with
  | none => s
  | some k =>
    let s1 := dissolveGang s c slot
    let s2 := s1.mapCore c fun co => dropFills slot { co with crews := co.crews.del slot }
    let s3 := reheat s2 c
    if tenantOn (s3.core c) k.tenant then s3 else slotAssign s3 c

/-- The rings of a launch on a core go with its last crew there. -/
def dropRings (s : State) (c tenant : Nat) : State :=
  s.mapCore c fun co => { co with rings := co.rings.keep fun i _ => i / 16 != tenant }

/-- A crew that has ended, its last region cleared and its entries released, is gone (R297). -/
def crewGone (s : State) (c slot : Nat) : State :=
  match s.crew? c slot with
  | none => s
  | some k =>
    let s0 := engineGone (leaveCore s c slot) c (crewId k)
    let s1 := if !commandsLeft (s0.core c) (crewId k) then s0
      else s0.mapCore c fun co => { co with ghosts := co.ghosts ++ [k] }
    s1.mapLaunch k.tenant fun l => { l with alive := l.alive.filter fun n => n != k.number }

/-- Whether an ended crew may go: no region, no entry of it in the lodge. -/
def crewOver (co : Core) (slot : Nat) (k : Crew) : Bool :=
  k.ended && k.region.isNone && !isKeeper slot && co.lodge.all fun e => e.slot != slot

/-! ### Completion of a launch (R297) -/

/-- Whether every copy, stream and node of a launch is in a final state. -/
def engineFinal (s : State) (tenant : Nat) : Bool :=
  s.cores.vals.all fun co =>
    (co.ctxs.vals.all fun (x : Ctx) => x.who.1 != tenant || x.state == 2 || x.state == 4) &&
    (co.streams.vals.all fun (x : Stream) =>
      x.who.1 != tenant || !(x.state ≤ 1 || x.state == 3)) &&
    (co.nodes.vals.all fun (x : Node) =>
      x.who.1 != tenant || !(x.state == 3 || (x.state == 2 && x.pred == 0))) &&
    co.units.all fun u => (unitWho co u).1 != tenant

/-- The engine work of a launch leaves every core. -/
def engineForget (s : State) (tenant : Nat) : State :=
  s.cores.cells.foldl (fun s (c, co) =>
    if !(co.ctxs.vals.any (fun (x : Ctx) => x.who.1 == tenant) ||
        co.streams.vals.any (fun (x : Stream) => x.who.1 == tenant) ||
        co.nodes.vals.any (fun (x : Node) => x.who.1 == tenant) ||
        co.rings.keys.any fun i => i / 16 == tenant) then s
    else
      let s1 := (co.ctxs.cells.filter fun p => p.2.who.1 == tenant).foldl
        (fun s p => freeCtx s c p.1 false) s
      dropRings (trimUnits (s1.mapCore c fun k =>
        { k with units := k.units.filter fun u => u.told || (unitWho co u).1 != tenant
                 streams := k.streams.keep fun _ (x : Stream) => x.who.1 != tenant
                 nodes := k.nodes.keep fun _ (x : Node) => x.who.1 != tenant }) c) c tenant) s

/-- A launch leaves the active-launch table; the node that submitted it is done. -/
def launchOut (s : State) (tenant : Nat) : State :=
  match s.launch? tenant with
  | none => s
  | some l =>
    let s1 := (engineForget s tenant).mapMod fun m => { m with launches := m.launches.del tenant }
    match l.post.node with
    | some (c, n) => match (s1.core c).nodes.get? n with
      | some x => if x.state = 3 ∧ x.kind = 2 then mapNode s1 c n fun x => { x with fin := true }
          else s1
      | none => s1
    | none => s1

/-- Whether a launch completes: every number has been taken, every crew has ended and cleared,
and its engine work is final. -/
def launchDone (s : State) (tenant : Nat) : Bool :=
  match s.launch? tenant with
  | none => false
  | some l => decide (launchCrews l ≤ l.taken) && l.alive.isEmpty && engineFinal s tenant &&
      s.cores.keys.all fun c => !netBusy s c

/-- LAUNCH_COMPLETE (R297). -/
def execLaunchComplete (tenant : Nat) (s : State) : Out :=
  match s.launch? tenant with
  | none => .next s
  | some l =>
    if !launchDone s tenant || cbTaken s l.post.cb || modAway s l.post.pasid (pkDone l.post.packet) then .next s
    else .next (launchOut (doneUpdate (gateSet s tenant 0xFFFF true) l.post fun w => w + 1) tenant)

/-! ### The end of a launch (R367, R387) -/

/-- Every crew of a launch on a core stops at once: uncleared regions are squashed without
restart, what has cleared is released, and the footprints are free. -/
def endCrews (release : State → Nat → LEntry → State) (s : State) (c tenant : Nat) : State :=
  let slots := ((s.core c).crews.cells.filter fun p => p.2.tenant == tenant).map (·.1)
  let s1 := slots.foldl (fun s x => squashCrew (engineCancel s c x
    (((s.crew? c x).map (·.rseq)).getD 0)) c x) s
  let s2 := ((s1.core c).lodge.filter fun e => slots.contains e.slot && e.home.isNone).foldl
    (fun s e => release s c e) s1
  let s3 := s2.mapCore c fun co =>
    { co with
      lodge := co.lodge.filter fun e => !slots.contains e.slot
      deque := co.deque.filter fun x => x.launch != tenant
      evicted := co.evicted.filter fun e => e.crew.tenant != tenant }
  slots.foldl (fun s x => leaveCore (pullCrew (dropMatrix s c x) c x) c x) s3

/-- The end of a launch with a status and a code (R387): its crews, its deque entries and its
engine work go, its gate opens, and its source queue enters ERROR. -/
def endLaunch (release : State → Nat → LEntry → State) (s : State) (tenant code status : Nat) :
    State :=
  match s.launch? tenant with
  | none => s
  | some l =>
    let s1 := s.cores.keys.foldl (fun s c => endCrews release s c tenant) s
    let s2 := doneUpdate (gateSet (engineForget s1 tenant) tenant 0xFFFF true) l.post
      fun w => w ||| doneBad code status
    let s3 := if l.post.cb = 0 then s2 else cbKeeperState s2 l.post.cb 3 status
    launchOut s3 tenant

end Sys2Proof.Machine
end

