-- ==== Sys2Proof/Machine/Place.lean ====
section
/-! DEFINITION. Placing crews: the resources of a core (R34, R154, R233, R333), the placement of
launch crews and of children (R35, R53, R295, R301), the Drover (R54), and the compactions of
the core store and of the operand buffer (R43, R233). -/
namespace Sys2Proof.Machine
open Sys2Proof

/-! ### Free room (R34, R43, R97, R154, R233) -/

def roundUp (a n : Nat) : Nat := (a + n - 1) / n * n

/-- The least number of a list. -/
def leastOf : List Nat → Option Nat
  | [] => none
  | x :: r => some (match leastOf r with | some y => min x y | none => x)

/-- The lowest aligned address at which so many bytes lie clear of the ranges in use. -/
def lowFit (rs : List (Nat × Nat)) (limit size align : Nat) : Option Nat :=
  if size = 0 then some 0
  else leastOf ((0 :: rs.map fun (a, n) => roundUp (a + n) align).filter fun a =>
    a + size ≤ limit && rs.all fun (b, n) => a + size ≤ b || b + n ≤ a)

/-- The alignment of a window copy (R43, R97). -/
def winAlign (foot : W64) : Nat :=
  if bit foot 54 then winBytes foot else if footNarrow foot then 1024 else 2048

/-- Where a crew's window copies and scratchpad go: lowest addresses, in that order. -/
def storeFit (rs : List (Nat × Nat)) (foot : W64) : Option (Nat × Nat × Nat) :=
  let n := winBytes foot
  match lowFit rs 0x100000 n (winAlign foot) with
  | none => none
  | some a =>
    match lowFit ((a, n) :: rs) 0x100000 n (winAlign foot) with
    | none => none
    | some b =>
      let rs := (a, n) :: (b, n) :: rs
      let m := scratchBytes foot
      match lowFit rs 0x100000 m 256 with
      | none => none
      | some c =>
        let all := if m = 0 then rs else (c, m) :: rs
        if 8 ≤ ((List.range 128).filter (frameFree all)).length then some (a, b, c) else none

/-- The operand-buffer shares of a core, in lines. -/
def lineRanges (co : Core) : List (Nat × Nat) :=
  ((launchedCrews co).map fun k => (k.obase, 64 * footOrec k.foot)).filter fun p => p.2 != 0

/-- The accumulator blocks of a core's crews. -/
def accRanges (co : Core) : List (Nat × Nat) :=
  ((launchedCrews co).map fun k => (k.abase, 2 * footAcc k.foot)).filter fun p => p.2 != 0

/-- The lowest free crew slot (R35). -/
def freeSlot (co : Core) : Option Nat := (List.range 32).find? fun i => (co.crews.get? i).isNone

/-- Where a crew goes on a core: slot, window bases, scratchpad, operand lines, blocks. -/
structure Spot where
  slot : Nat
  base0 : Nat
  base1 : Nat
  sbase : Nat
  obase : Nat
  abase : Nat
deriving DecidableEq, Repr

/-- The place of a footprint on a core, if every resource fits at once (R35). -/
def spotFor (co : Core) (foot : W64) : Option Spot :=
  match freeSlot co, storeFit (ownedRanges co) foot,
      lowFit (lineRanges co) 1024 (64 * footOrec foot) 64,
      lowFit (accRanges co) 128 (2 * footAcc foot) 1 with
  | some slot, some (a, b, c), some o, some x => some ⟨slot, a / 1024, b / 1024, c, o, x⟩
  | _, _, _, _ => none

/-- Whether the coolant of a core's zone carries a further crew, what the core itself has been admitted
for counted once (R333). -/
def coolFits (s : State) (c : Nat) (foot : W64) : Bool :=
  let z := zoneOfMod s.mod (zoneOfCore c)
  zState z == 1 && decide (zHeat z - (s.core c).claim.getD 0 + fld foot 13 0 ≤ 70 * zGrant z)

/-- Whether crews may be placed on a core now. -/
def coreOpen (s : State) (c : Nat) : Bool :=
  let co := s.core c
  s.mod.keepers && !co.halted && !co.captured && co.moving.isNone && !s.mod.saving

/-- Where a footprint fits on a core now. -/
def placeSpot (s : State) (c : Nat) (foot : W64) : Option Spot :=
  if coreOpen s c && coolFits s c foot then spotFor (s.core c) foot else none

/-! ### A crew placed (R98, R101, R227, R232, R295, R301) -/

/-- A crew as placement makes it: every register zero, no region, no fibre yet. -/
def newCrew (tenant : Nat) (number : BitVec 32) (place : Nat) (foot : W64) (at_ : Spot) : Crew :=
  { tenant, number, place := BitVec.ofNat 8 place, depth := 0, foot
    base0 := at_.base0, base1 := at_.base1, sbase := at_.sbase, obase := at_.obase
    abase := at_.abase, reg0 := .empty, reg1 := .empty, cur := 0, dirty := 0
    acc0 := .empty, acc1 := .empty, acur := 0, adirty := 0, scratch := .empty
    fibres := .empty, ib := 0, mb := 0, cont := 0, gang := 0, gkeys := []
    sb := .empty, flights := [], rdvs := [], rseq := 0, region := none, opening := 0
    restartAt := 0, storms := 0, pressure := false, pressed := false
    wsig := 0, wsat := false, asig := 0, asat := false
    wdLimit := 0, wdCount := 0, wdFrac := 0, wdSaid := false, wdPast := false, pctrs := .empty, recs := .empty
    queues := .empty, gens := .empty, woken := none, reserve := [], taken := [], resv := [], fenced := []
    fenceId := 0, sparg := 0, groups := [], bars := .empty, dbg := 0, yield := .none
    move := none, still := false, ended := false, pause := false, stopAll := false, pendC := none
    pendAt := 0
    clearedAt := 0, stormed := false, upsets := [] }

/-- A fibre created at an entry (R30, R32). -/
def newFibre (pc : BitVec 56) : Fibre :=
  { pc, rpos := 0, rlat := .empty, pred := 0, arr := 0, stale := 0, paid := false, st := .stopped }

/-- One fibre in every lane slot (R32). -/
def allFibres (foot : W64) (pc : BitVec 56) : Tab Fibre :=
  ⟨(List.range (footLanes foot)).map fun l => (l, newFibre pc)⟩

/-- Whether a crew number is in a group's set (R317). -/
def Group.has (g : Group) (n : Nat) : Bool :=
  g.v && decide (g.first ≤ n) &&
    (if g.stride = 0 then g.count != 0 && n == g.first
     else (n - g.first) % g.stride == 0 && decide ((n - g.first) / g.stride < g.count))

/-- The groups of a launch crew (R317); children are members of none. -/
def groupsOf (l : Launch) (n : Nat) : List Nat :=
  if n < launchCrews l then (l.groups.cells.filter fun p => p.2.has n).map (·.1) else []

/-- Budget changes that reached a crew before it was placed (R346, R358). -/
def applyGrants (l : Launch) (n : BitVec 32) (k : Crew) : Crew :=
  (l.grants.filter fun g => g.1 == n).foldl (fun k g => changeCrew g.2.1 g.2.2.1 g.2.2.2 k) k

/-- A crew enters a core: the L1 gives up the frames it takes (R154), the slot table follows
when its tenant is new there (R320), the heat of the zone rises (R333), and its fibres enter
the bins. -/
def enterCore (s : State) (c slot : Nat) (k : Crew) : State :=
  let new := !tenantOn (s.core c) k.tenant
  let s1 := (wakeCluster (wakeModule s) c).mapCore c fun co =>
    { co with crews := co.crews.put slot k }
  let s2 := s1.mapCore c l1Keep
  let s3 := reheat s2 c
  unstop (if new then slotAssign s3 c else s3) c slot

/-- Launch crew `n` placed (R295). -/
def placeLaunchCrew (s : State) (c tenant place : Nat) (l : Launch) (at_ : Spot) : State :=
  let n := BitVec.ofNat 32 l.taken
  let k : Crew :=
    { newCrew tenant n place l.foot at_ with
      fibres := allFibres l.foot l.entry
      ib := BitVec.ofNat 48 (fld (l.post.packet.getD 2 0) 47 0)
      mb := BitVec.ofNat 48 (fld (l.post.packet.getD 3 0) 47 0)
      cont := l.contA.setWidth 64, groups := groupsOf l l.taken }
  let s1 := s.mapLaunch tenant fun l =>
    { l with taken := l.taken + 1, alive := l.alive ++ [n]
             grants := l.grants.filter fun g => g.1 != n }
  enterCore (s1.mapCore c fun co => { co with tookAt := s.now + 1, claim := none }) c at_.slot
    (applyGrants l n k)

/-- The launch whose next crew a core may take, the one posted first (R295), with the place of
the core and the spot. -/
def nextCrew (s : State) (c : Nat) : Option (Nat × Launch × Nat × Spot) :=
  match coreOfPlace? s c with
  | none => none
  | some p =>
    if (s.core c).tookAt = s.now + 1 then none
    else
      let cand := s.mod.launches.cells.filterMap fun (a, l) =>
        if l.taken < launchCrews l ∧ (rectOf (l.post.packet.getD 0 0)).has p then
          (placeSpot s c l.foot).map fun sp => (a, l, p, sp)
        else none
      pickBy (fun x y => decide (x.2.1.post.tno < y.2.1.post.tno)) cand

/-- The coolant controller admits the heat of the launch crew that a core may take in this cycle
(R333); what no placement has used goes with the cycle. -/
def claimPlace (s : State) (c : Nat) : State :=
  match nextCrew s c with
  | some (_, l, _, _) =>
    if (s.core c).claim.isSome then s
    else reheat (s.mapCore c fun co => { co with claim := some (fld l.foot 13 0) }) c
  | none => s

def dropClaims (s : State) : State :=
  (s.cores.cells.filter fun p => p.2.claim.isSome).foldl (fun s p =>
    reheat (s.mapCore p.1 fun co => { co with claim := none }) p.1) s

/-- CREW_PLACE (R35, R295). -/
def execCrewPlace (c : Nat) (s : State) : Out :=
  match nextCrew s c with
  | some (a, l, p, sp) => .next (placeLaunchCrew s c a p l sp)
  | none => .next s

/-! ### The deque (R53, R54, R301) -/

/-- A child placed from the young end of a core's deque. -/
def placeChild (s : State) (c place : Nat) (l : Launch) (x : Child) (at_ : Spot) : State :=
  let k : Crew :=
    { newCrew x.launch x.number place l.foot at_ with
      fibres := allFibres l.foot x.entry, ib := x.ib, mb := x.mb, depth := x.depth
      cont := x.entry.setWidth 64, sparg := x.sparg }
  let s1 := s.mapCore c fun co => { co with deque := co.deque.dropLast }
  let s2 := s1.mapLaunch x.launch fun l =>
    { l with grants := l.grants.filter fun g => g.1 != x.number }
  enterCore s2 c at_.slot (applyGrants l x.number k)

/-- The child that a core may take from its deque now. -/
def nextChild (s : State) (c : Nat) : Option (Launch × Child × Nat × Spot) :=
  match (s.core c).deque.getLast?, coreOfPlace? s c with
  | some x, some p =>
    match s.launch? x.launch with
    | some l => if (rectOf (l.post.packet.getD 0 0)).has p then
        (placeSpot s c l.foot).map fun sp => (l, x, p, sp) else none
    | none => none
  | _, _ => none

/-- DEQUE_OWNER_TAKE (R53). -/
def execDequeOwnerTake (c : Nat) (s : State) : Out :=
  match nextChild s c with
  | some (l, x, p, sp) => .next (placeChild s c p l x sp)
  | none => .next s

/-- DEQUE_RESERVE (R53): the fibres of a spawn that waits for deque entries enter the bins again when
enough are free. -/
def execDequeReserve (c : Nat) (s : State) : Out :=
  if dequeFree (s.core c) = 0 then .next s
  else .next ((s.core c).crews.cells.foldl (fun s (x, k) => k.fibres.cells.foldl (fun s (lane, f) =>
    match f.st with
    | .blocked (.deque n) => if n ≤ dequeFree (s.core c) then binFibre s c x lane false else s
    | _ => s) s) s)

/-- The next value of the 16-bit LFSR with taps 16, 14, 13 and 11 (R54). -/
def lfsrNext (v : BitVec 16) : BitVec 16 :=
  let b := (v.toNat + v.toNat / 4 + v.toNat / 8 + v.toNat / 32) % 2
  BitVec.ofNat 16 (v.toNat / 2 + b * 0x8000)

/-- Whether a core is idle (R54): its bins are empty, its crews' fibres all blocked or parked, and its
deque empty. -/
def coreIdle (s : State) (c : Nat) : Bool :=
  let co := s.core c
  co.bins.cells.isEmpty && co.deque.isEmpty && co.binWait.isEmpty &&
    (guests co).all fun p =>
      (liveFibres p.2).all fun f => (laneWait s c p.1 p.2 f.1).isSome

/-- The launch in whose rectangle a core's Drover probes: the lowest active index whose
rectangle holds the core's place. -/
def droverLaunch (s : State) (p : Nat) : Option (Nat × Launch) :=
  s.mod.launches.cells.find? fun q => (rectOf (q.2.post.packet.getD 0 0)).has p

/-- Whether the Drover of a core may probe in this cycle. -/
def droverReady (s : State) (c : Nat) : Bool :=
  coreOpen s c && (s.core c).probed != s.now + 1 && coreIdle s c &&
    (coreOfPlace? s c).any fun p => (droverLaunch s p).any fun q =>
      decide (1 < (rectOf (q.2.post.packet.getD 0 0)).places.length)

/-- A steal: the older half of the victim's deque, in its order (R54). -/
def steal (s : State) (c v : Nat) : State :=
  let d := (s.core v).deque
  let n := (d.length + 1) / 2
  (s.mapCore v fun co => { co with deque := d.drop n }).mapCore c fun co =>
    { co with deque := co.deque ++ d.take n }

/-- DROVER_PROBE (R54): the next value of the LFSR picks a place; its own is discarded. -/
def execDroverProbe (c : Nat) (s : State) : Out :=
  if !droverReady s c then .next s
  else match coreOfPlace? s c with
    | none => .next s
    | some p =>
      match droverLaunch s p with
      | none => .next s
      | some (_, l) =>
        let ps := (rectOf (l.post.packet.getD 0 0)).places
        let v := lfsrNext (s.core c).lfsr
        let s1 := s.mapCore c fun co => { co with lfsr := v, probed := s.now + 1 }
        let q := ps.getD (v.toNat % ps.length) p
        if q = p then .next s1
        else match placeCore s1 q with
          | some t => .next (steal s1 c t)
          | none => .next s1

/-! ### Compaction (R43, R105, R233) -/

/-- The footprints that wait for a core: launch crews, the child at the young end, and restores. -/
def waitingFeet (s : State) (c : Nat) : List W64 :=
  (s.core c).wants.map (·.2) ++ match coreOfPlace? s c with
  | none => []
  | some p =>
    (s.mod.launches.vals.filter fun l =>
      decide (l.taken < launchCrews l) && (rectOf (l.post.packet.getD 0 0)).has p).map (·.foot) ++
    match (s.core c).deque.getLast? with
    | some x => match s.launch? x.launch with | some l => [l.foot] | none => []
    | none => []

/-- Where the window copies of crews with BA = 1 lie after compaction: in rising order, each at
the lowest aligned address that is free below it. -/
def packedBases (co : Core) : List (Nat × Bool × Nat) :=
  let fixed := ((guests co).map fun (_, k) =>
    (if bit k.foot 54 then [] else
      [(k.base0 * 1024, winBytes k.foot), (k.base1 * 1024, winBytes k.foot)]) ++
      [(k.sbase, scratchBytes k.foot)]).flatten.filter fun p => p.2 != 0
  let live := ((guests co).filter fun p => bit p.2.foot 54).map fun (x, k) =>
    [(x, false, k.base0 * 1024, winBytes k.foot), (x, true, k.base1 * 1024, winBytes k.foot)]
  let rec sorted : Nat → List (Nat × Bool × Nat × Nat) → List (Nat × Bool × Nat × Nat)
    | 0, _ => []
    | n + 1, l =>
      match pickBy (fun (a b : Nat × Bool × Nat × Nat) => decide (a.2.2.1 < b.2.2.1)) l with
      | some x => x :: sorted n (l.erase x)
      | none => []
  ((sorted (2 * co.crews.size) live.flatten).foldl
    (fun (p : List (Nat × Nat) × List (Nat × Bool × Nat)) x =>
      let a := match lowFit p.1 0x100000 x.2.2.2 x.2.2.2 with
        | some b => min b x.2.2.1
        | none => x.2.2.1
      (p.1 ++ [(a, x.2.2.2)], p.2 ++ [(x.1, x.2.1, a)])) (fixed, [])).2

/-- The core with its window copies moved. -/
def movedWindows (co : Core) : Core :=
  (packedBases co).foldl (fun co (x, second, a) =>
    match co.crews.get? x with
    | some k =>
      let k := if second then { k with base1 := a / 1024 } else { k with base0 := a / 1024 }
      { co with crews := co.crews.put x k }
    | none => co) co

/-- The crews whose windows a compaction moves. -/
def movedCrews (co : Core) : List Nat :=
  dedup (((packedBases co).filter fun (x, second, a) =>
    (co.crews.get? x).any fun k => (if second then k.base1 else k.base0) * 1024 != a).map (·.1))

/-- Whether a placement fails on a core only because the free core store is scattered, and a
compaction changes that (R43). -/
def needsWindows (s : State) (c : Nat) : Bool :=
  let co := s.core c
  coreOpen s c && !(movedCrews co).isEmpty && (waitingFeet s c).any fun f =>
    bit f 54 && coolFits s c f && (spotFor co f).isNone && (spotFor (movedWindows co) f).isSome

/-- Crews held at their clause boundary for a compaction. -/
def pauseCrews (s : State) (c : Nat) (l : List Nat) : State :=
  l.foldl (fun s x => stopFibres (s.mapCrew c x fun k => { k with pause := true }) c x) s

/-- Crews that go on after a compaction. -/
def resumeCrews (s : State) (c : Nat) (l : List Nat) : State :=
  l.foldl (fun s x => unstop (s.mapCrew c x fun k => { k with pause := false }) c x) s

/-- Where the shares of the operand buffer lie after compaction (R233): in rising order of their
first line, each at the lowest 64-aligned position that is free below it. -/
def packedShares (co : Core) : List (Nat × Nat) :=
  let rec sorted : Nat → List (Nat × Nat × Nat) → List (Nat × Nat × Nat)
    | 0, _ => []
    | n + 1, l =>
      match pickBy (fun (a b : Nat × Nat × Nat) => decide (a.2.1 < b.2.1)) l with
      | some x => x :: sorted n (l.erase x)
      | none => []
  let l := sorted co.crews.size ((co.crews.cells.filter fun p => footOrec p.2.foot != 0).map
    fun (x, k) => (x, k.obase, 64 * footOrec k.foot))
  (l.foldl (fun (p : Nat × List (Nat × Nat)) x => (p.1 + x.2.2, p.2 ++ [(x.1, p.1)])) (0, [])).2

/-- A record whose lines move. -/
def moveRec (old new : Nat) (r : Rec) : Rec :=
  if r.count = 0 then r else { r with first := r.first + new - old }

/-- A share with its lines moved. -/
def moveShare (co : Core) (x new : Nat) : Core :=
  match co.crews.get? x with
  | none => co
  | some k =>
    let old := k.obase
    if old = new then co
    else
      let n := 256 * 64 * footOrec k.foot
      let mine := (co.ob.cells.filter fun p => 256 * old ≤ p.1 && p.1 < 256 * old + n)
      let rest := co.ob.keep fun a _ => !(256 * old ≤ a && a < 256 * old + n) &&
        !(256 * new ≤ a && a < 256 * new + n)
      let ob := mine.foldl (fun t p => t.put (p.1 + 256 * new - 256 * old) p.2) rest
      let recs := k.recs.mapKV fun _ r => moveRec old new r
      let ck := fun (g : Region) =>
        { g with ck := { g.ck with recs := g.ck.recs.mapKV fun _ r => moveRec old new r } }
      let k := { k with obase := new, recs, region := k.region.map ck }
      { co with ob, crews := co.crews.put x k }

def movedShares (co : Core) : Core := (packedShares co).foldl (fun co p => moveShare co p.1 p.2) co

def shareMovers (co : Core) : List Nat :=
  ((packedShares co).filter fun p => (co.crews.get? p.1).any fun k => k.obase != p.2).map (·.1)

/-- Whether a placement fails only for want of an aligned run of lines (R233). -/
def needsShares (s : State) (c : Nat) : Bool :=
  let co := s.core c
  coreOpen s c && !(shareMovers co).isEmpty && (waitingFeet s c).any fun f =>
    coolFits s c f && (spotFor co f).isNone &&
      (lowFit (lineRanges co) 1024 (64 * footOrec f) 64).isNone && (spotFor (movedShares co) f).isSome

/-- Crews that a compaction holds, when none is needed any more. -/
def endPauses (s : State) (c : Nat) : State :=
  if needsWindows s c || needsShares s c then s
  else resumeCrews s c (((s.core c).crews.cells.filter fun p => p.2.pause).map (·.1))

/-- REGISTER_COMPACTION (R43): the crews whose windows move are held at a clause boundary until
their regions have cleared; then their bases change, and they run on. -/
def execRegisterCompaction (c : Nat) (s : State) : Out :=
  if !needsWindows s c then .next (endPauses s c)
  else
    let l := movedCrews (s.core c)
    let still := fun x => (s.crew? c x).any fun k =>
      k.pause && k.region.isNone && !insideClause s c x
    if l.all still then .next (resumeCrews (s.mapCore c fun co => l1Keep (movedWindows co)) c l)
    else .next (pauseCrews s c (l.filter fun x => (s.crew? c x).any fun k => !k.pause))

/-- OPERAND_BUFFER_COMPACTION (R233): the crews whose shares move are held at a clause boundary
until no fill of them runs and the matrix queue holds nothing of them. -/
def execOperandBufferCompaction (c : Nat) (s : State) : Out :=
  if !needsShares s c then .next (endPauses s c)
  else
    let l := shareMovers (s.core c)
    let still := fun x => (s.crew? c x).any fun k =>
      k.pause && !insideClause s c x && !inMatrixQueue (s.core c) x &&
        (s.core c).fills.all fun p => p.1 != x
    if l.all still then .next (resumeCrews (s.mapCore c movedShares) c l)
    else .next (pauseCrews s c (l.filter fun x => (s.crew? c x).any fun k => !k.pause))

end Sys2Proof.Machine
end

