-- ==== Sys2Proof/Machine/Launch.lean ====
section
/-! DEFINITION. The queue unit and launches: doorbells, walkers and packets (R285 to R293, R298,
R338 to R340), the launch checks and the active-launch table (R294, R295, R317). -/
namespace Sys2Proof.Machine
open Sys2Proof

/-! ### Doorbells (R285, R286, R338) -/

/-- The slot of the hash table at probe j (R286). -/
def hashSlot (m key j : Nat) : Nat :=
  (key * 0x9E3779B1 % 2 ^ 32 / 2 ^ (32 - m) + j) % 2 ^ m

/-- The walk of R286 from probe j on: the control block of a key. -/
def hashWalk (s : State) (base m key : Nat) : Nat → Nat → Option Nat
  | 0, _ => none
  | n + 1, j =>
    let at_ := base + 64 + 16 * hashSlot m key j
    let w := (cbRead s at_).2
    if fld w 1 0 = 0 then none
    else if fld w 1 0 = 1 ∧ fld w 63 32 = key then
      some (fld (cbRead s (at_ + 8)).2 51 9 * 512)
    else hashWalk s base m key n (j + 1)

/-- The control block that a doorbell finds. -/
def doorbellFind (s : State) (key : Nat) : Option Nat :=
  let m := fld (cbRead s s.mod.cbhbase.toNat).2 4 0
  if m < 4 ∨ 16 < m then none else hashWalk s s.mod.cbhbase.toNat m key 8 0

/-- An IDLE queue with packets enters the walker queue. -/
def walkEnter (s : State) (cb : Nat) : State :=
  if s.mod.walkQ.contains cb || s.mod.walkers.vals.any (fun w => w.cb == cb) then s
  else s.mapMod fun m => { m with walkQ := m.walkQ ++ [cb] }

def setWalker (s : State) (i : Nat) (w : Walker) : State :=
  s.mapMod fun m => { m with walkers := m.walkers.put i w }

def freeWalker (s : State) (i : Nat) : State :=
  s.mapMod fun m => { m with walkers := m.walkers.del i }

/-- Walkers that hold a queue let it go. -/
def dropWalkers (s : State) (cb : Nat) : State :=
  s.mapMod fun m => { m with walkers := m.walkers.keep fun _ (w : Walker) => w.cb != cb }

/-- A doorbell acts on its control block (R286, R287); an odd sequence word makes a slot read it
again. -/
def doorbell (s : State) (cb : Nat) (w : W64) : State :=
  if cbSeq s cb % 2 = 1 then
    let i := ((List.range 1024).find? fun i => (s.mod.walkers.get? (16 + i)).isNone).getD 0
    setWalker s (16 + i) { cb, st := .reread (s.now + 64) (some w), packet := [] }
  else
    let st := cbState s cb
    let wptr := fld w 31 0
    if st = 3 then s
    else if (wptr + 2 ^ 32 - cbReadIdx s cb) % 2 ^ 32 ≤ cbSize s cb then
      let s1 := cbUpdate s cb [(3, setFld (cbWord s cb 3) 63 32 wptr)]
      if st = 0 ∧ cbReadIdx s1 cb ≠ wptr then walkEnter s1 cb else s1
    else if st = 4 then s
    else dropWalkers (cbSetState s cb 3 0x02) cb

/-- A write of QDOOR (R285, R286, R418). -/
def doorWrite (size : Nat) (w : W64) (s0 : State) : State :=
  let s := wakeModule s0
  if size ≠ 8 ∨ s.mod.cbhbase = 0 then s
  else match doorbellFind s (fld w 63 32) with
    | some cb => doorbell s cb w
    | none => report (s.mapMod fun m => { m with missed := m.missed + 1 }) (leadCore s)
        .doorbellMiss 0 0 0 0

/-- QDOOR_WRITE (R285, R286). -/
def execQdoorWrite (size : Nat) (w : W64) (s : State) : Out := .next (doorWrite size w s)

/-- CONTROL_BLOCK_REREAD (R286): 64 cc later the slot reads the block again. -/
def execControlBlockReread (i : Nat) (s : State) : Out :=
  match s.mod.walkers.get? i with
  | some { cb, st := .reread due w, packet } =>
    if s.now < due then .next s
    else if cbSeq s cb % 2 = 1 then
      .next (setWalker s i { cb, st := .reread (s.now + 64) w, packet })
    else match w with
      | some w => .next (doorbell (freeWalker s i) cb w)
      | none => .next (setWalker s i { cb, st := .read, packet })
  | _ => .next s

/-- WALKER_SLOT_ASSIGN (R287). -/
def execWalkerSlotAssign (s : State) : Out :=
  match s.mod.walkQ, (List.range 16).find? fun i => (s.mod.walkers.get? i).isNone with
  | cb :: rest, some i =>
    let s1 := s.mapMod fun m => { m with walkQ := rest }
    if cbSeq s1 cb % 2 = 1 then
      .next (setWalker s1 i { cb, st := .reread (s.now + 64) none, packet := [] })
    else if cbState s1 cb ≠ 0 ∨ cbReadIdx s1 cb = cbWriteIdx s1 cb then .next s1
    else .next (setWalker (cbSetState s1 cb 1 0) i { cb, st := .read, packet := [] })
  | _, _ => .next s

/-! ### Packets (R287, R288, R291, R292, R298) -/

/-- A packet has been taken: READ rises, and the slot goes on or frees itself (R287). -/
def packetTaken (s : State) (i cb : Nat) : State :=
  let n := (cbReadIdx s cb + 1) % 2 ^ 32
  let s1 := cbUpdate s cb [(3, setFld (cbWord s cb 3) 31 0 n)]
  if n = cbWriteIdx s1 cb then freeWalker (cbSetState s1 cb 0 0) i
  else setWalker s1 i { cb, st := .read, packet := [] }

/-- The queue stops with a code (R293). -/
def queueError (s : State) (i cb code : Nat) : State := freeWalker (cbSetState s cb 3 code) i

/-- COND of a wait packet (R291). -/
def condHolds (c v x : Nat) : Bool :=
  match c with | 0 => decide (v ≤ x) | 1 => x == v | _ => x != v

/-- A wait packet reads SIG (R291). -/
def waitPacket (s : State) (i cb : Nat) (ws : List W64) : State :=
  let va := fld (ws.getD 1 0) 55 0
  match modRead s (cbPasid s cb) va 8 with
  | .ok (s1, x) =>
    if condHolds (fld (ws.getD 3 0) 1 0) (ws.getD 2 0).toNat x then packetTaken s1 i cb
    else setWalker s1 i { cb, st := .poll (s.now + 256), packet := ws }
  | .error .translation =>
    report (freeWalker (cbSetState s cb 2 0) i) (leadCore s) .translation 0 0 0
      (BitVec.ofNat 64 va)
  | .error _ => queueError s i cb 0x04

/-- A signal packet (R292). -/
def signalPacket (s : State) (i cb : Nat) (ws : List W64) : State :=
  let v := ws.getD 2 0
  let add := bit (ws.getD 3 0) 0
  match modXlate s (cbPasid s cb) true (fld (ws.getD 1 0) 55 0) with
  | .ok (s1, pa, _) => packetTaken (modRelease s1 pa (fun w => if add then w + v else v) !add) i cb
  | .error _ => queueError s i cb 0x04

/-- A launch packet is posted; a full list holds the slot (R295, step 1). -/
def launchPacket (s : State) (i cb : Nat) (ws : List W64) : State :=
  let p : Posted :=
    { packet := ws, pasid := cbPasid s cb, qnum := cbQnum s cb, cb, recent := 0, tno := 0
      pred := none, node := none, fromCrew := none, va := 0 }
  match postLaunch s p with
  | some s1 => packetTaken s1 i cb
  | none => setWalker s i { cb, st := .full, packet := ws }

/-- A packet acts by its type. -/
def packetAct (s : State) (i cb : Nat) (ws : List W64) : State :=
  match fld (ws.getD 0 0) 3 0 with
  | 0 => packetTaken s i cb
  | 1 => launchPacket s i cb ws
  | 2 => waitPacket s i cb ws
  | _ => signalPacket s i cb ws

/-- Whether SIG of a wait or signal packet lies in host memory while the link is down (R405). -/
def sigAway (s : State) (cb : Nat) (ws : List W64) : Bool :=
  2 ≤ fld (ws.getD 0 0) 3 0 && modAway s (cbPasid s cb) (fld (ws.getD 1 0) 55 0)

/-- PACKET_READ (R287, R288). -/
def execPacketRead (i : Nat) (s : State) : Out :=
  match s.mod.walkers.get? i with
  | some { cb, st := .read, .. } =>
    if cbSeq s cb % 2 = 1 then
      .next (setWalker s i { cb, st := .reread (s.now + 64) none, packet := [] })
    else if 3 ≤ cbState s cb then .next (freeWalker s i)
    else if cbReadIdx s cb = cbWriteIdx s cb then .next (freeWalker (cbSetState s cb 0 0) i)
    else
      let s0 := if cbState s cb = 0 then cbSetState s cb 1 0 else s
      let va := cbBase s cb + 64 * (cbReadIdx s cb % cbSize s cb)
      if modAway s (cbPasid s cb) va then .next s
      else match modWords (cbPasid s cb) 8 va s0 with
      | .error _ => .next (queueError s0 i cb 0x03)
      | .ok (s1, ws) =>
        match packetBad ws with
        | some code => .next (queueError s1 i cb code)
        | none =>
          if pkBar ws && queueBusy s1 cb then
            .next (setWalker s1 i { cb, st := .barHeld, packet := ws })
          else if sigAway s1 cb ws then .next s
          else .next (packetAct s1 i cb ws)
  | _ => .next s

/-- PACKET_BAR_RELEASE (R298). -/
def execPacketBarRelease (i : Nat) (s : State) : Out :=
  match s.mod.walkers.get? i with
  | some { cb, st := .barHeld, packet } =>
    if cbTaken s cb then .next (setWalker s i { cb, st := .reread (s.now + 64) none, packet := [] })
    else if queueBusy s cb || sigAway s cb packet then .next s else .next (packetAct s i cb packet)
  | _ => .next s

/-- LAUNCH_POST (R295): a packet that found the ticket list full is posted once it has room. -/
def execLaunchPost (i : Nat) (s : State) : Out :=
  match s.mod.walkers.get? i with
  | some { cb, st := .full, packet } =>
    if cbTaken s cb then .next (setWalker s i { cb, st := .reread (s.now + 64) none, packet := [] })
    else .next (launchPacket s i cb packet)
  | _ => .next s

/-- WAIT_PACKET_POLL (R291). -/
def execWaitPacketPoll (i : Nat) (s : State) : Out :=
  match s.mod.walkers.get? i with
  | some { cb, st := .poll due, packet } =>
    if s.now < due then .next s
    else if cbTaken s cb then .next (setWalker s i { cb, st := .reread (s.now + 64) none, packet := [] })
    else if sigAway s cb packet then .next s
    else .next (waitPacket s i cb packet)
  | _ => .next s

/-- PENDING_FAULT_SERVED (R291), of the queue with a control block; while another Keeper updates the block
it is tried again (R340). -/
def execPendingFaultServed (cb : Nat) (s : State) : Out :=
  if cbState s cb ≠ 2 then .next s
  else if cbTaken s cb then .next { s with agenda := s.agenda ++ [(s.now + 64, .pendingFaultServed cb)] }
  else .next (walkEnter (cbKeeperState s cb 0 0) cb)

/-! ### The launch checks (R288 to R290, R293 to R295, R317) -/

/-- PACKET: the reserved fields and alignments of a launch packet (R289). -/
def launchFieldsBad (ws : List W64) : Bool :=
  let w := fun k => ws.getD k 0
  fld (w 0) 15 6 != 0 || fld (w 0) 63 32 == 0 || fld (w 0) 63 32 == 0xFFFFFFFF ||
    fld (w 1) 63 56 != 0 || fld (w 1) 5 0 != 0 || fld (w 4) 63 56 != 0 || fld (w 4) 15 0 != 0 ||
    fld (w 5) 63 32 != 0 || fld (w 5) 1 0 != 0 || fld (w 6) 63 56 != 0 || fld (w 6) 5 0 != 0 ||
    fld (w 7) 63 56 != 0 || fld (w 7) 2 0 != 0

/-- Whether every page of the code that is mapped has X = 1 (R294; a page that is still to be
mapped is no fault of the image, R396). -/
def codeRuns (s : State) (pasid : BitVec 20) (a n : Nat) : Bool :=
  (List.range (n / 65536 + 2)).all fun i =>
    let va := if i = 0 then a else (a / 65536 + i) * 65536
    decide (a + n ≤ va) ||
      match walkFrom s Cluster.reset pasid va 5 0 (rootTable (spaceRoot s pasid)) [] with
      | .ok (l, _) => bit l.w 3
      | .error e => e == .translation

/-- IMAGE: the kernel header (R294). -/
def imageBad (s : State) (pasid : BitVec 20) (image : Nat) (h : List W64) : Bool :=
  let w := fun k => h.getD k 0
  let code := fld (w 3) 31 0
  let data := fld (w 3) 63 32
  let inCode := fun x => x % 8 == 0 && decide (64 ≤ x) && decide (x < 64 + code)
  w 0 != 0x00010000 * 2 ^ 16 + 0x424C5952 || !inCode (fld (w 2) 31 0) ||
    (fld (w 2) 63 32 != 0xFFFFFFFF && !inCode (fld (w 2) 63 32)) ||
    (data != 0 && decide (data < 64 + code)) || fld (w 4) 63 32 != 0 ||
    ! [w 5, w 6, w 7].all (· == 0) || !codeRuns s pasid (image + 64) code

/-- CLASS, RESERVED and FLOOR of a footprint word (R33, R45), and the limits of FOOTPRINT. -/
def footStatus (f : W64) : Option Nat :=
  let cls := fld f 63 56
  if (cls ≠ 0 ∧ cls ≠ 6 ∧ cls ≠ 8) ∨ (cls = 6 ∧ !bit f 55) then some 0x12
  else if fld f 53 48 ≠ 0 then some 0x13
  else if cls = 0 ∧ (7 < fld f 47 43 ∨ 256 < fld f 42 30 ∨ 16 < fld f 29 22 ∨ 4 < fld f 21 17 ∨
      4 < fld f 16 14) then some 0x14
  else if 2048 < fld f 42 30 ∨ 64 < fld f 29 22 ∨ 16 < fld f 21 17 ∨ 4 < fld f 16 14 ∨
      8400 < fld f 13 0 then some 0x15
  else none

/-- An entry of the group table (R317), none where it breaks its layout. -/
def groupEntry (crews : Nat) (w0 w1 : W64) : Option Group :=
  let v := bit w1 63
  let count := fld w0 63 32
  let first := fld w0 31 0
  let stride := fld w1 31 0
  if fld w1 62 32 ≠ 0 ∨ (v && decide (1 < count) && stride == 0) = true ∨
      (v && decide (1 ≤ count) && decide (crews ≤ first + (count - 1) * stride)) = true then none
  else some { v, first, count, stride, episode := 0, departed := 0, arrived := 0 }

/-- The groups of a table that has been read: the entries that hold anything (R318). -/
def groupTable (crews : Nat) (ws : List W64) : Option (Tab Group) :=
  (List.range 256).foldl (fun t i => match t, groupEntry crews (ws.getD (2 * i) 0)
      (ws.getD (2 * i + 1) 0) with
    | some t, some g => some (if g.v || g.count + g.first + g.stride != 0 then t.put i g else t)
    | _, _ => none) (some .empty)

/-- Whether a crew of the launch is in more groups than GRPS (R33). -/
def groupsCrowded (crews grps : Nat) (t : Tab Group) : Bool :=
  decide (grps < t.size) && (List.range crews).any fun n =>
    decide (grps < (t.vals.filter fun g => g.has n).length)

/-- An entry of the ring table (R290): none where it breaks its layout. -/
def ringEntry (w0 w1 : W64) : Option (Option RingDecl) :=
  if !bit w1 63 then
    if w0 = 0 ∧ w1 = 0 then some none else if fld w1 62 40 = 0 ∧ fld w1 31 21 = 0 ∧
      fld w0 63 56 = 0 then some none else none
  else if fld w0 63 56 ≠ 0 ∨ fld w0 7 0 ≠ 0 ∨ fld w1 62 40 ≠ 0 ∨ fld w1 31 21 ≠ 0 ∨
      fld w1 39 32 < 2 ∨ fld w1 20 0 % 64 ≠ 0 ∨ fld w1 20 0 < 64 ∨ 0x100000 < fld w1 20 0 then none
  else some (some { base := w0.setWidth 56, count := fld w1 39 32, size := fld w1 20 0 })

/-- The declared rings of a table that has been read. -/
def ringTable (stages : Nat) (ws : List W64) : Option (Tab RingDecl) :=
  let t := (List.range 16).foldl (fun (t : Option (Tab RingDecl)) i =>
    match t, ringEntry (ws.getD (2 * i) 0) (ws.getD (2 * i + 1) 0) with
    | some t, some (some d) => some (t.put i d)
    | some t, some none => some t
    | _, _ => none) (some .empty)
  t.bind fun t => if (List.range (stages - 1)).all fun i => (t.get? i).isSome then some t else none

/-- The top barrier level of a rectangle (R51): the lowest level one of whose units holds every
place of it. -/
def topLevel (s : State) (w : W64) : Nat :=
  let cores := (rectOf w).places.filterMap (placeCore s)
  let one := fun (d : Nat) => decide ((dedup (cores.map fun c => c / d)).length ≤ 1)
  if one 1 then 0 else if one 8 then 1 else if one 64 then 2 else 3

/-- RECT: the range of a launch is in order, and every place in it is present (R27, R289). -/
def rectBad (s : State) (w : W64) : Bool :=
  let q := rectOf w
  decide (q.d1 < q.d0) || decide (q.x1 < q.x0) || decide (q.y1 < q.y0) ||
    q.places.any fun n => (placeCore s n).isNone

/-- A table of so many words at a virtual address, zeros where there is none. -/
def optTable (pasid : BitVec 20) (va n : Nat) (s : State) : Option (List W64) :=
  if va = 0 then some []
  else match modWords pasid n va s with | .ok (_, l) => some l | .error _ => none

/-- The checks of a launch in their order: the first status that fails, or the launch (R295). -/
def launchChecks (s : State) (p : Posted) : Except Nat Launch :=
  let ws := p.packet
  let image := fld (ws.getD 1 0) 55 0
  let crews := fld (ws.getD 0 0) 63 32
  if launchFieldsBad ws then .error 0x10
  else match modWords p.pasid 4 (fld (ws.getD 6 0) 55 0) s with
    | .error _ => .error 0x10
    | .ok (_, b) =>
      if fld (b.getD 2 0) 63 3 ≠ 0 ∨ b.getD 3 0 ≠ 0 then .error 0x10
      else match modWords p.pasid 8 image s with
        | .error _ => .error 0x11
        | .ok (_, h) =>
          if imageBad s p.pasid image h then .error 0x11
          else
            let foot := h.getD 1 0
            let gs := (optTable p.pasid (fld (b.getD 0 0) 55 0) 512 s).bind (groupTable crews)
            let gva := b.getD 0 0
            let gs := if fld gva 63 56 ≠ 0 ∨ fld gva 5 0 ≠ 0 then none else gs
            let stages := fld (b.getD 2 0) 2 0 + 1
            let rva := b.getD 1 0
            let rs := (optTable p.pasid (fld rva 55 0) 32 s).bind (ringTable stages)
            match footStatus foot with
            | some code => .error code
            | none =>
              if (gs.any fun t => groupsCrowded crews (fld foot 16 14) t) then .error 0x15
              else if rectBad s (ws.getD 0 0) then .error 0x16
              else match gs, rs with
                | none, _ => .error 0x17
                | _, none => .error 0x18
                | some gs, some rs =>
                  let at_ := fun x => BitVec.ofNat 56 (image + x)
                  let entry := at_ (fld (h.getD 2 0) 31 0)
                  let cont := fld (h.getD 2 0) 63 32
                  .ok { post := p, foot, image := BitVec.ofNat 56 image, entry
                        contA := if cont = 0xFFFFFFFF then entry else at_ cont
                        groups := gs, rings := rs, stages, taken := 0, childs := crews
                        alive := [], given := [], grants := [], gate := 0, tk := .empty
                        tctx := BitVec.ofNat 64
                          (p.pasid.toNat * 2 ^ 44 + (spaceRoot s p.pasid).toNat)
                        top := topLevel s (ws.getD 0 0)
                        bup := .empty, bdep := .empty }

/-- A refused launch (R293, R309): a host queue stops with the status; a launch of a crew or a
node is reported with the packet's address; DONE is marked where it can be. -/
def refuseLaunch (s : State) (p : Posted) (status : Nat) : State :=
  let s1 := doneUpdate s p fun w => w ||| doneBad 0 status
  match p.node, p.fromCrew with
  | some (c, n), _ =>
    let s2 := report s1 c .launchRefused 0 0 (p.va.setWidth 64) 0
    match (s2.core c).nodes.get? n with
    | some x => if x.state = 3 ∧ x.kind = 2 then failNode s2 c n x .launchRefused else s2
    | none => s2
  | none, some (c, slot) => report s1 c .launchRefused slot 0 (p.va.setWidth 64) 0
  | none, none => if p.cb = 0 then s1 else dropWalkers (cbKeeperState s1 p.cb 3 status) p.cb

/-- Whether a core may check a ticket: it has claimed it, or, with no claimed launch in hand, it
takes the next one (R295, step 2). -/
def mayCheck (s : State) (c t : Nat) : Bool :=
  s.mod.claimed.contains (c, t) ||
    (s.mod.keepers && !(s.mod.claimed.any fun p => p.1 == c) &&
      (drawTicket s.mod.take).1.toNat == t && ticketFree s.mod (BitVec.ofNat 32 t))

/-- A Keeper's `tkt` with k = 16, by which it claims a ticket (R295, step 2; R348). -/
def claimTicket (s : State) (c t : Nat) : State :=
  if s.mod.claimed.contains (c, t) then s
  else s.mapMod fun m => { m with take := (drawTicket m.take).2, claimed := m.claimed ++ [(c, t)] }

/-- LAUNCH_CHECK (R295, steps 2 and 3): a Keeper with no claimed launch in hand claims the next one first.
Its refusal updates the control block, so a block that another Keeper updates makes it wait (R340). -/
def execLaunchCheck (c t : Nat) (s : State) : Out :=
  match s.mod.tickets.find? fun p => p.1 == t with
  | none => .next s
  | some (_, p) =>
    if !mayCheck s c t || cbTaken s p.cb then .next s
    else
      let s1 := (claimTicket s c t).mapMod fun m =>
        { m with tickets := m.tickets.filter fun q => q.1 != t
                 claimed := m.claimed.filter fun q => q != (c, t) }
      match launchChecks s p with
      | .error status => .next (refuseLaunch s1 p status)
      | .ok l => .next (s1.mapMod fun m =>
          { m with pendIn := (m.pendIn.filter fun x => decide (x.post.tno < t)) ++
              l :: m.pendIn.filter fun x => decide (t < x.post.tno) })

/-- ACTIVE_LAUNCH_ENTRY (R295, step 4): the oldest waiting launch takes the lowest free entry. -/
def execActiveLaunchEntry (s : State) : Out :=
  match s.mod.pendIn, (List.range 64).find? fun i => (s.launch? i).isNone with
  | l :: rest, some i =>
    .next (s.mapMod fun m => { m with pendIn := rest, launches := m.launches.put i l })
  | _, _ => .next s

end Sys2Proof.Machine
end

