-- ==== Sys2Proof/Machine/Front.lean ====
section
/-! DEFINITION. The front end: ready bins, slot arbitration and batches (R36 to R42, R55, R56),
the checks of a clause and its waits at issue (R39, R66, R68, R158, R307), region openings (R48,
R207, R210, R423), the end of a clause (R31, R114, R129, R381), and results that land later
(R66, R102, R130). -/
namespace Sys2Proof.Machine
open Sys2Proof

/-! ### Ready bins (R37, R39) -/

/-- Whether every lane slot of a bin that can hold a live fibre of its tenant is filled (R37). A lane
slot can hold one when the tenant has, in this cycle, a live fibre in that lane in a crew of the
bin's mode on the core (DESIGN CHOICE, log entry 65). -/
def binFull (co : Core) (b : Bin) : Bool :=
  co.crews.vals.all fun k => k.tenant != b.tenant || footNarrow k.foot != b.narrow ||
    (liveFibres k).all fun p => (b.lanes.get? p.1).isSome

/-- The live fibres, by lane and slot, that a gathering bin lacks of the crews that have a fibre in
it (R39). -/
def binMissing (co : Core) (b : Bin) : List (Nat × Nat) :=
  (dedup (b.lanes.cells.map (·.2))).flatMap fun x =>
    match co.crews.get? x with
    | some k => ((liveFibres k).filter fun p => b.lanes.get? p.1 != some x).map fun p => (p.1, x)
    | none => []

/-- Whether a bin is ready (R37, R39). -/
def binReady (co : Core) (b : Bin) : Bool :=
  b.ready || (if b.gather then (binMissing co b).isEmpty else binFull co b)

/-- BIN_AGE_READY (R37): the age of a bin that does not gather reaches FECTL.AGE. -/
def execBinAgeReady (c i : Nat) (s : State) : Out :=
  let co := s.core c
  match co.bins.get? i with
  | some b =>
    if !b.gather && !b.ready && b.born + fld co.fectlNow 7 0 * clockDiv s c ≤ s.now then
      .next (s.mapCore c fun co => { co with bins := co.bins.put i { b with ready := true } })
    else .next s
  | none => .next s

/-- GATHER_TIMEOUT (R39): the gather timer of a bin reaches FECTL.GATHER. -/
def execGatherTimeout (c i : Nat) (s : State) : Out :=
  let co := s.core c
  match co.bins.get? i with
  | some b =>
    if b.gather && !b.ready && fld co.fectlNow 31 16 * clockDiv s c ≤ b.gtime then
      .next (s.mapCore c fun co =>
        { co with bins := co.bins.put i { b with ready := true, forced := true } })
    else .next s
  | none => .next s

/-! ### What a crew's clause needs before it issues (R48, R51, R160, R207, R210, R345, R423) -/

/-- Whether a crew's uncleared entries fill three quarters of its share of the lodge (R48). The crews
resident on the core include the Keeper's, which the rule neither counts in nor out (DESIGN CHOICE,
log entry 65). -/
def lodgeHeavy (co : Core) (slot : Nat) : Bool :=
  let n := (co.lodge.filter fun e => e.slot == slot && !e.cleared).length
  n != 0 && decide (3 * (1024 / max 1 co.crews.size) ≤ 4 * n)

/-- The region opening that a clause of a crew waits for: with a rendezvous of its fibres, as the
region of a quiet crew; none when the clause issues within the open region, as it does for fibres that
have the region's own head yet to issue. -/
def openKind (co : Core) (slot : Nat) (k : Crew) (clause : BitVec 56) (hdr : W64)
    (words : List W64) (rpos : Nat) (lanes : List Nat) : Option (Bool × Bool) :=
  let first := wordAt words 0
  let joint := first.any fun i => match i with | .mmaJoint .. => true | _ => false
  let again := k.region.any fun g => g.head == clause && lanes.all g.redo.contains
  if rpos = 0 && again then none
  else if rpos = 0 && (hdrHead hdr || k.opening == 2 || lodgeHeavy co slot ||
      (k.pressure && (words.filterMap decode).any Instr.held)) then some (true, false)
  else if rpos = 0 && joint then none
  else if rpos = 0 && (hdrCommit hdr ||
      first.any fun i => match i with | .cwait .. => true | _ => false) then some (false, false)
  else if k.opening == 1 then some (false, false)
  else if k.region.isNone then some (true, true)
  else none

/-- Whether the counters that a clause names are zero in every crew of a batch (R66). -/
def namedZero (co : Core) (hdr : W64) (fibres : List (Nat × Nat)) : Bool :=
  (dedup (fibres.map (·.2))).all fun x => (co.crews.get? x).all fun k =>
    (List.range 8).all fun i => !bit hdr (46 + i) || k.sb.getD i 0 == 0

/-- A batch before its clause begins. -/
def runFor (c : Nat) (clause : BitVec 56) (hdr : W64) (words : List W64) (rpos now : Nat)
    (fibres : List (Nat × Nat)) : Run :=
  { core := c, clause, hdr, words, fibres, first := rpos, pos := rpos, due := now + 1
    lat := .empty, hold := none, asked := 0, fails := [], tmp := [], taken := false
    conts := .empty, quits := [], yields := [], forks := [], burst := false }

/-- Whether the interlock of R67 holds a batch whose first instruction, by values it reads, may keep
fibres out of the clause (R277, R307). -/
def firstHeld (s : State) (c : Nat) (w : WaitB) : Bool :=
  let r := runFor c w.clause w.hdr w.words w.rpos s.now w.fibres
  w.rpos == 0 && (wordAt w.words 0).any fun i =>
    ((waitGuard i).isSome || match i with | .cwait .. => true | _ => false) &&
      interlocked s r (regsOf (r.narrow s) i)

/-- Whether a waiting batch has waited for its counters and its STALL cycles. -/
def stallOver (s : State) (c : Nat) (w : WaitB) : Bool :=
  namedZero (s.core c) w.hdr w.fibres && !firstHeld s c w &&
    w.from_.any fun t => decide (t + fld w.hdr 45 40 * clockDiv s c ≤ s.now)

/-- Whether every live fibre of a crew but some has reached a head, or is parked, blocked or held at a
region opening (R48). -/
def allArrived (s : State) (c slot : Nat) (k : Crew) (clause : BitVec 56) (lanes : List Nat) : Bool :=
  (liveFibres k).all fun (lane, f) =>
    lanes.contains lane ||
      (f.pc == clause && k.woken.any fun w => w.1 == clause && w.2.contains lane) ||
      match f.st with
      | .trapped _ => true
      | .running => (s.core c).waits.any (fun w => w.opens && w.fibres.contains (lane, slot)) ||
          (laneWait s c slot k lane).isSome
      | .blocked _ => true
      | _ => false

/-- Entries of a crew that a fence holds back after their clear (R193). -/
def fenceDelayed (co : Core) (slot : Nat) : Bool :=
  co.lodge.any fun e => e.slot == slot && e.cleared && (!e.told || e.back)

/-- Whether a crew may open a region at the issue of a clause by some of its fibres (R48, R66, R193,
R210, R423): its last region has cleared, and no entry of it is in the matrix queue. -/
def openable (s : State) (c slot : Nat) (k : Crew) (clause : BitVec 56) (lanes : List Nat)
    (rdv commit : Bool) : Bool :=
  k.region.isNone && !inMatrixQueue (s.core c) slot &&
    (!rdv || (countersZero k && allArrived s c slot k clause lanes)) &&
    (!commit || (!fenceDelayed (s.core c) slot && !netBusy s c))

/-- Whether the region opening that a batch waits for may take place. -/
def openReady (s : State) (c : Nat) (w : WaitB) : Bool :=
  match w.fibres with
  | [] => false
  | (_, x) :: _ =>
    match (s.core c).crews.get? x with
    | none => false
    | some k =>
      w.opens && !crewStopped s k && stallOver s c w && k.clearedAt != s.now + 1 &&
        openable s c x k w.clause (w.fibres.map (·.1)) w.head (hdrCommit w.hdr)

/-- Whether the head at which a fibre of a crew waits may open its region (R38, R423). -/
def headOver (s : State) (c slot : Nat) (k : Crew) (f : Fibre) (rdv commit : Bool) : Bool :=
  let lanes := (k.fibres.cells.filter fun p => p.2.pc == f.pc &&
    match p.2.st with | .blocked (.head ..) => true | _ => false).map (·.1)
  openable s c slot k f.pc lanes rdv commit

/-! ### Slot arbitration (R55, R56) -/

/-- The stages of a launch whose crews are among some fibres. -/
def stagesIn (co : Core) (stages : Nat) (fibres : List (Nat × Nat)) : List Nat :=
  dedup (fibres.filterMap fun p => (co.crews.get? p.2).map fun k => k.number.toNat % stages)

/-- Whether a stage may take an issue slot: its input ring is not empty and its output ring is
not full. -/
def stageOpen (s : State) (c tenant stages k : Nat) : Bool :=
  (k == 0 || ringFillOf (s.core c) tenant (k - 1) != 0) &&
    (k + 1 == stages || ringRoomOf s c tenant k != 0)

/-- The filled slots of a stage's input ring. -/
def stageFill (co : Core) (tenant k : Nat) : Nat :=
  if k = 0 then 0 else ringFillOf co tenant (k - 1)

/-- What may issue for a tenant: waiting batches by index, then ready bins by index. -/
structure Ready where
  wait : Bool
  idx : Nat
  born : Nat
  fibres : List (Nat × Nat)
deriving DecidableEq, Repr

/-- Everything on a core that may issue now, without the slot table. -/
def readyList (s : State) (c : Nat) : List (Nat × Ready) :=
  let co := s.core c
  let ws := (List.range co.waits.length).filterMap fun i =>
    match co.waits[i]? with
    | some w => if (if w.opens then openReady s c w else stallOver s c w) then
        some (w.tenant, { wait := true, idx := i, born := 0, fibres := w.fibres : Ready }) else none
    | none => none
  let bs := (co.bins.cells.filter fun p => binReady co p.2 &&
      (p.2.ready || decide (p.2.last < s.now))).map fun (i, b) =>
    (b.tenant, { wait := false, idx := i, born := b.born, fibres := b.lanes.cells : Ready })
  ws ++ bs

/-- What of a tenant's ready work the stage rule of R56 lets issue. -/
def stageFilter (s : State) (c tenant : Nat) (l : List Ready) : List Ready :=
  match s.launch? tenant with
  | none => l
  | some q =>
    if q.stages ≤ 1 then l
    else
      let co := s.core c
      let ks := (List.range q.stages).filter fun k => stageOpen s c tenant q.stages k &&
        l.any fun x => (stagesIn co q.stages x.fibres).contains k
      match pickBy (fun a b => decide (stageFill co tenant b < stageFill co tenant a) ||
          (stageFill co tenant a == stageFill co tenant b && decide (a < b))) ks with
      | some k => l.filter fun x => (stagesIn co q.stages x.fibres).contains k
      | none => []

/-- The ready work of a tenant. -/
def readyOf (s : State) (c tenant : Nat) (l : List (Nat × Ready)) : List Ready :=
  stageFilter s c tenant ((l.filter fun p => p.1 == tenant).map (·.2))

/-- The tenant whose turn the cycle is (R55). -/
def turnTenant (s : State) (c : Nat) (l : List (Nat × Ready)) : Option Nat :=
  let co := s.core c
  let here := fun t => decide (t < 64) && co.crews.vals.any fun k => k.tenant == t
  let e0 := slotWord co (s.now / clockDiv s c % 64)
  let ok := fun t => here t && !(readyOf s c t l).isEmpty
  if bit e0 15 && here (slotTenant e0) then
    (if ok (slotTenant e0) then some (slotTenant e0) else none)
  else ((List.range 64).map fun i => slotTenant (slotWord co ((s.now / clockDiv s c + i) % 64))).find? ok

/-- What issues next on a core: work of the Keeper, which no slot governs, or of the tenant whose
turn it is, once in a cycle: a waiting batch, or else the oldest ready bin. R55 and R66 give no order
between a clause that has waited for its counters and the ready bins of its tenant; the model issues
the waiting one first (DESIGN CHOICE, log entry 65). -/
def nextIssue (s : State) (c : Nat) : Option Ready :=
  let co := s.core c
  if co.halted || co.captured || (co.slow && s.now % 2 == 1) then none
  else
    let l := readyList s c
    let pick := pickBy fun (a b : Ready) =>
      if a.wait != b.wait then a.wait
      else decide (a.born < b.born) || (a.born == b.born && decide (a.idx < b.idx))
    match pick (readyOf s c Config.noTenant l) with
    | some x => some x
    | none =>
      if s.now + 1 < co.issued + clockDiv s c then none
      else (turnTenant s c l).bind fun t => pick (readyOf s c t l)

/-! ### Traps at decode (R68, R158, R364, R365) -/

/-- Some fibres of a crew take one trap before their clause begins; they have the head of their region
to issue no more. -/
def clauseTrap (s : State) (c : Nat) (f : FetchB) (slot : Nat) (cause : Cause) (sub at_ : Nat)
    (data hdr : W64) : State :=
  let (s1, id) := freshId s c
  let s2 := (f.fibres.filter fun p => p.2 == slot).foldl (fun s p =>
    match s.fibre? c slot p.1 with
    | some x => takeTrap s c slot p.1
        { cause, sub := BitVec.ofNat 8 sub, code := 0, clause := f.pc, at_, res := f.pc
          pos := f.rpos, lat := x.rlat, next := nextClause f.pc hdr, data, delivered := false
          group := id, was := none, wr := false }
    | none => s) s1
  s2.mapCrew c slot fun k => { k with region := k.region.map fun g =>
    if g.head = f.pc then { g with redo := g.redo.filter fun l => !f.fibres.contains (l, slot) } else g }

/-- The whole batch takes a trap at decode, one record for each crew. -/
def batchFault (s : State) (c : Nat) (f : FetchB) (cause : Cause) (sub at_ : Nat)
    (data hdr : W64) : State :=
  (dedup (f.fibres.map (·.2))).foldl (fun s x => clauseTrap s c f x cause sub at_ data hdr) s

/-! ### Waits at position 0 (R277, R307) -/

/-- The crews that a `cwait` keeps waiting for a handle that is not final (R277). -/
def cwaitCrews (s : State) (r : Run) : List (CrewCtx × W32) :=
  match wordAt r.words 0 with
  | some (.cwait g false _ h mask) =>
    (crewsOf s r g mask).filterMap fun x =>
      match x.cause, x.named with
      | none, a :: _ =>
        let v := leaderVal r a h
        match handleStatus (s.core r.core) x.crew v with
        | .ok none => some (x, v)
        | _ => none
      | _, _ => none
  | _ => none.toList

/-- The fibres that the instruction at position 0 lets into the clause; the others block with
their continuation at the clause. `late` adds the wait of `cwait`, which comes after that for the
region. -/
def firstBlocks (s : State) (r : Run) (late : Bool) : State × List (Nat × Nat) :=
  if r.pos ≠ 0 then (s, r.fibres)
  else
    let (s1, r1) := match wordAt r.words 0 with
      | some i => blockFibres s r (waiting s r i)
      | none => (s, r)
    if !late then (s1, r1.fibres)
    else
      let l := ((cwaitCrews s1 r1).map fun p => p.1.lanes.map fun x =>
        (x.lane, x.slot, Wait.cwait p.2)).flatten
      let (s2, r2) := blockFibres s1 r1 l
      (s2, r2.fibres)

/-! ### A clause begins (R114, R243, R344) -/

/-- The instructions of opcodes 0x080 to 0x0FF (R243). -/
def isFloat : Instr → Bool
  | .fadd .. | .fsub .. | .fmul .. | .fma .. | .fmin .. | .fmax .. | .fabs .. | .fneg ..
  | .fcmp .. | .fclass .. | .frcp .. | .frsq .. | .fsqrt .. | .fexp2 .. | .flog2 .. | .fsin ..
  | .fcos .. | .fround .. | .fdiv .. | .dp4 .. | .hfma2 .. | .sclq .. | .cvt .. | .cvtEf ..
  | .cbenc .. | .cbdec .. => true
  | _ => false

/-- Whether a clause in a batch is a vector burst (R243). -/
def isBurst (r : Run) : Bool :=
  decide (32 < r.fibres.length) && decide (4 ≤ ((r.words.filterMap decode).filter isFloat).length)

/-- The latches that resumed fibres bring along (R386). -/
def resumeLatches (s : State) (r : Run) : Tab W64 :=
  r.fibres.foldl (fun t (lane, slot) =>
    match s.fibre? r.core slot lane with
    | some f => f.rlat.cells.foldl (fun t p => t.put (latKey lane p.1) p.2) t
    | none => t) r.lat

/-- Whether the charge of a clause is left to the latch of a joint `mma` (R252). -/
def latchCharges (r : Run) : Bool :=
  r.pos == 0 && (wordAt r.words 0).any fun i => match i with | .mmaJoint .. => true | _ => false

/-- The clause begins: the charges that its words fix are taken, and the batch is inside it from
the next cycle on. R114 charges a clause as a whole; a batch that `eret.retry` resumes at position k is
charged for positions k and later (DESIGN CHOICE, log entry 65), and one that resumes after a wait for
the deque has taken its charge before that wait (R53). -/
def beginRun (s : State) (c : Nat) (r : Run) : State :=
  let joint := latchCharges r
  let (ib, mb) := fixedCharge r.words r.pos
  let paid := fun (s : State) (x : Nat) => (r.lanesOf x).all fun l =>
    (s.fibre? c x l).any (·.paid)
  let s1 := r.slots.foldl (fun s x =>
    let s := note (if joint || paid s x then s else chargeCrew s c x ib mb) c x 1 1
    s.mapCrew c x fun k => { k with region := k.region.map fun g =>
      if g.head = r.clause ∧ r.pos = 0 ∧ !joint then
        { g with redo := g.redo.filter fun l => !r.fibres.contains (l, x) } else g }) s
  let lat := resumeLatches s1 r
  let s2 := r.fibres.foldl (fun s p => s.mapFibre c p.2 p.1 fun f =>
    { f with st := .running, rpos := 0, rlat := .empty, paid := false }) s1
  if isBurst r then
    currentAsk { s2 with runs := s2.runs ++ [{ r with lat, burst := true, hold := some .current
                                                      asked := s.now }] } c 1 2
  else { s2 with runs := s2.runs ++ [{ r with lat }] }

/-- Some fibres begin a clause that needs no region opening, unless its position 0 keeps them
waiting. -/
def startRun (s : State) (c : Nat) (clause : BitVec 56) (hdr : W64) (words : List W64)
    (rpos : Nat) (fibres : List (Nat × Nat)) : State :=
  let (s1, l) := firstBlocks s (runFor c clause hdr words rpos s.now fibres) true
  if l.isEmpty then s1 else beginRun s1 c (runFor c clause hdr words rpos s.now l)

/-! ### Batches that wait before their clause (R66, R423) -/

/-- Fibres in order of the lane. -/
def laneSort (l : List (Nat × Nat)) : List (Nat × Nat) :=
  l.foldl (fun t p => t.filter (fun q => q.1 < p.1) ++ p :: t.filter fun q => p.1 < q.1) []

/-- A waiting batch joins the list; at a head it joins the fibres of its crew that wait there
already (R48). -/
def addWait (w : WaitB) : List WaitB → List WaitB
  | [] => [w]
  | x :: r =>
    if w.head && x.head && x.opens && x.clause == w.clause && x.rpos == w.rpos &&
        x.fibres.map (·.2) ⊆ w.fibres.map (·.2) then
      { x with fibres := laneSort (x.fibres ++ w.fibres) } :: r
    else x :: addWait w r

/-- Fibres of a crew wait at a region opening, outside the bins (R38, R423). -/
def blockHead (s : State) (c slot : Nat) (clause : BitVec 56) (lanes : List Nat)
    (rdv commit : Bool) : State :=
  lanes.foldl (fun s l => s.mapFibre c slot l fun f =>
    { f with pc := clause, st := .blocked (.head rdv commit) }) s

/-- A rendezvous of a crew at a head is complete (R48): its fibres that wait there enter the bins
again, and all of them have reached the head. -/
def meetHead (s : State) (c slot : Nat) (clause : BitVec 56) (lanes : List Nat) : State :=
  match s.crew? c slot with
  | none => s
  | some k =>
    let there := (k.fibres.cells.filter fun p => p.2.pc == clause && p.2.rpos == 0 &&
      match p.2.st with | .blocked (.head true _) => true | _ => false).map (·.1)
    let old := match k.woken with | some w => if w.1 = clause then w.2 else [] | none => []
    there.foldl (fun s l => binFibre s c slot l false)
      (s.mapCrew c slot fun k => { k with woken := some (clause, dedup (old ++ lanes ++ there)) })

/-- Fibres of one crew whose clause opens a region: where it may not open yet they block, and else
they are a batch that opens it, at once when its counters allow it. -/
def enterOpening (s : State) (c slot : Nat) (k : Crew) (w : WaitB) : State :=
  let lanes := w.fibres.map (·.1)
  if w.quiet then
    s.mapCore c fun co =>
      { co with waits := addWait { w with slotted := openReady s c w } co.waits }
  else if !openable s c slot k w.clause lanes w.head (hdrCommit w.hdr) then
    blockHead s c slot w.clause lanes w.head (hdrCommit w.hdr)
  else
    let s1 := if w.head && w.rpos == 0 then meetHead s c slot w.clause lanes else s
    s1.mapCore c fun co => { co with waits := addWait { w with slotted := stallOver s1 c w } co.waits }

/-- The parts of a batch by crew and by whether the fibres have their region's head yet to issue. -/
def openParts (s : State) (c : Nat) (clause : BitVec 56) (rpos : Nat) (fibres : List (Nat × Nat)) :
    List (Nat × Crew × List Nat) :=
  (dedup (fibres.map (·.2))).flatMap fun x =>
    match s.crew? c x with
    | none => []
    | some k =>
      let lanes := (fibres.filter fun p => p.2 == x).map (·.1)
      let redo := fun (l : Nat) => rpos == 0 && k.region.any fun g => g.head == clause && g.redo.contains l
      [(x, k, lanes.filter redo), (x, k, lanes.filter fun l => !redo l)].filter fun p => p.2.2 != []

/-- A batch whose clause has passed its checks: the fibres of each crew that opens a region wait for
that by themselves, and the others begin the clause or wait for their counters. -/
def enterWaits (s : State) (c tenant : Nat) (clause : BitVec 56) (hdr : W64) (words : List W64)
    (rpos : Nat) (fibres : List (Nat × Nat)) : State :=
  let base := fun (fs : List (Nat × Nat)) (o : Option (Bool × Bool)) =>
    { tenant, clause, hdr, words, fibres := fs, rpos
      from_ := if namedZero (s.core c) hdr fs then some s.now else none
      opens := o.isSome, head := o.any (·.1), quiet := o.any (·.2), slotted := false : WaitB }
  let parts := (openParts s c clause rpos fibres).map fun (x, k, lanes) =>
    (x, k, lanes.map fun l => (l, x), openKind (s.core c) x k clause hdr words rpos lanes)
  let s1 := parts.foldl (fun s (x, k, fs, o) =>
    match o with
    | some o => enterOpening s c x k (base fs (some o))
    | none => s) s
  let rest := laneSort ((parts.filter fun p => p.2.2.2.isNone).flatMap (·.2.2.1))
  if rest.isEmpty then s1
  else
    let w := base rest none
    if stallOver s1 c w then startRun s1 c clause hdr words rpos rest
    else s1.mapCore c fun co => { co with waits := co.waits ++ [w] }

/-! ### Fetch and decode (R68, R157, R158, R345) -/

/-- Whether a crew has a budget at 0 (R345). -/
def broke (slot : Nat) (k : Crew) : Bool := !isKeeper slot && (k.ib == 0 || k.mb == 0)

/-- Fibres of a crew leave a batch before its clause. -/
def leaveBatch (s : State) (c : Nat) (slot : Nat) (clause : BitVec 56)
    (fibres : List (Nat × Nat)) : State :=
  (fibres.filter fun p => p.2 == slot).foldl (fun s p => s.mapFibre c slot p.1 fun f =>
    { f with pc := clause, st := .stopped }) s

/-- The fibres of a batch about to issue that may: crews whose budget is 0 enter budget yield
(R345, step 1), and fibres of crews that are held leave the batch. -/
def mayIssue (s : State) (c : Nat) (clause : BitVec 56) (fibres : List (Nat × Nat)) :
    State × List (Nat × Nat) :=
  (dedup (fibres.map (·.2))).foldl (fun (p : State × List (Nat × Nat)) x =>
    match p.1.crew? c x with
    | none => (p.1, p.2.filter fun f => f.2 != x)
    | some k =>
      if broke x k && k.yield == .none then
        (stopFibres ((leaveBatch p.1 c x clause fibres).mapCrew c x fun k =>
          { k with yield := .entering }) c x, p.2.filter fun f => f.2 != x)
      else if crewStopped p.1 k then
        (leaveBatch p.1 c x clause fibres, p.2.filter fun f => f.2 != x)
      else p) (s, fibres)

/-- The crews of a clause of class 1 or 3 whose live fibres are not all in the batch (R39). -/
def partialCrews (s : State) (c : Nat) (hdr : W64) (fibres : List (Nat × Nat)) : List Nat :=
  if hdrClass hdr = 1 ∨ hdrClass hdr = 3 then
    (dedup (fibres.map (·.2))).filter fun x => (s.crew? c x).any fun k =>
      (liveFibres k).any fun p => !fibres.contains (p.1, x)
  else []

/-- The clause of a batch has been read: its checks, and what comes before its issue. -/
def enterClause (s : State) (c : Nat) (f : FetchB) (hdr : W64) (words : List W64) : State :=
  match (f.fibres.head?.bind fun p => s.crew? c p.2) with
  | none => s
  | some k =>
    match checkClause (footNarrow k.foot) (footRegs k.foot) hdr words with
    | .error (e, pos) => batchFault s c f e 0 pos 0 hdr
    | .ok _ =>
      let (s, l) := mayIssue s c f.pc f.fibres
      let f := { f with fibres := l }
      let bad := partialCrews s c hdr f.fibres
      let s1 := bad.foldl (fun s x => clauseTrap s c f x .partialBatch 0 f.rpos 0 hdr) s
      enterWaits s1 c f.tenant f.pc hdr words f.rpos
        (f.fibres.filter fun p => !bad.contains p.2)

/-- A line that a fetch asks for; a request already under way counts as a demand. -/
def askLine (line tenant : Nat) (l : List (Nat × Nat × Bool)) : List (Nat × Nat × Bool) :=
  if l.any fun x => x.1 == line && x.2.1 == tenant then
    l.map fun x => if x.1 == line && x.2.1 == tenant then (line, tenant, true) else x
  else l ++ [(line, tenant, true)]

/-- A batch fetches its clause: it waits for a line that the instruction cache lacks. -/
def fetchGo (s : State) (c : Nat) (f : FetchB) : State :=
  match fetchClause (s.core c) f.tenant f.pc with
  | .missing a => s.mapCore c fun co =>
      { co with fetches := co.fetches ++ [f], ifills := askLine (a / 256) f.tenant co.ifills }
  | .badHeader =>
    batchFault s c f .illegalClause 0 0 0 ((icWord (s.core c) f.tenant f.pc.toNat).getD 0)
  | .ok hdr words => enterClause s c f hdr words

/-- The batches that waited for a fetch try again. -/
def retryFetches (s : State) (c : Nat) : State :=
  (s.core c).fetches.foldl (fun s f => fetchGo s c f)
    (s.mapCore c fun co => { co with fetches := [] })

/-- A fetch that fails: FETCH_FAULT for every batch that waited for the line (R158). R68 and R158
speak of the failing position and of the word's address; the record of FETCH_FAULT names position 0 and
holds 0 in TRAPDATA, as a trap taken before any position and of no faulting access does (DESIGN
CHOICE, log entry 67). -/
def fetchFault (s : State) (c line tenant sub : Nat) : State :=
  let mine := fun (f : FetchB) =>
    match fetchClause (s.core c) f.tenant f.pc with
    | .missing a => f.tenant == tenant && a / 256 == line
    | _ => false
  let l := (s.core c).fetches.filter mine
  l.foldl (fun s f =>
    match fetchClause (s.core c) f.tenant f.pc with
    | .missing a => batchFault s c f .fetchFault sub 0 (BitVec.ofNat 64 a) 0
    | _ => s) (s.mapCore c fun co => { co with fetches := co.fetches.filter fun f => !mine f })

/-- INSTRUCTION_FILL_DONE (R157, R158, R395): the line asked for first arrives, or its fetch
fails; a prefetch that fails has no effect. Then every waiting fetch goes on as far as it can. -/
def execInstructionFillDone (c : Nat) (s : State) : Out :=
  let l := (s.core c).ifills
  match (l.find? fun f => unitKnown s (tenantTctx s f.2.1) (fillAsker c f.1 f.2.1)).or l.head? with
  | none => if (s.core c).fetches.isEmpty then .next s else .next (retryFetches s c)
  | some (line, tenant, demand) =>
    let less := fun (s : State) => s.mapCore c fun co =>
      { co with ifills := co.ifills.erase (line, tenant, demand) }
    match icFill s c line tenant with
    | .done s1 => .next (retryFetches (less s1) c)
    | .failed s1 sub =>
      .next (if demand then retryFetches (fetchFault (less s1) c line tenant sub) c else less s1)
    | .wait _ => .next (l.foldl (fun s f =>
        (askWalk s (clusterOf c) (tenantTctx s f.2.1) (fillAsker c f.1 f.2.1)).1) s)

/-! ### Issue (R36, R37, R55, R345) -/

/-- Whether a continuation that found no bin finds one now. -/
def binFound (s : State) (c : Nat) (p : Nat × Nat × Bool) : Bool :=
  (freeBin (s.core c)).isSome || match s.crew? c p.2.1, s.fibre? c p.2.1 p.1 with
    | some k, some f =>
      (binFor (s.core c) k.tenant f.pc f.rpos (footNarrow k.foot) p.1 p.2.2).isSome
    | _, _ => true

/-- The continuations that found no bin try again, in order; one that still needs a bin makes the
oldest ready (R37). -/
def drainWaits (s : State) (c : Nat) : State :=
  let s1 := (s.core c).binWait.foldl (fun s p =>
    if binFound s c p then
      binFibre (s.mapCore c fun co => { co with binWait := co.binWait.erase p }) c p.2.1 p.1 p.2.2
    else s) s
  if (s1.core c).binWait.isEmpty then s1 else s1.mapCore c forceBin

/-- The blocked fibres of a core whose wait has ended enter the bins (R38). -/
def wakeBlocked (s : State) (c : Nat) : State :=
  (s.core c).crews.cells.foldl (fun s (x, k) =>
    k.fibres.cells.foldl (fun s (lane, f) =>
      match f.st with
      | .blocked (.deque _) => s
      | .blocked (.head rdv commit) =>
        match s.crew? c x, s.fibre? c x lane with
        | some k, some f =>
          if f.st == .blocked (.head rdv commit) && !crewStopped s k && headOver s c x k f rdv commit then
            (if rdv && f.rpos == 0 then meetHead s c x f.pc [] else binFibre s c x lane false)
          else s
        | _, _ => s
      | .blocked w => if waitOver s c k lane w then binFibre s c x lane false else s
      | _ => s) s) s

/-- The waiting batches of a core brought up to date: when their counters became zero, and which
region opening they still need. One that has waited for its counters and may open no region now
waits at the opening, outside the bins. -/
def settleWaits (s : State) (c : Nat) : State :=
  let co := s.core c
  let f := fun (w : WaitB) =>
    let from_ := if namedZero co w.hdr w.fibres then some (w.from_.getD s.now) else none
    match w.opens, w.fibres with
    | true, (_, x) :: _ =>
      let o := (co.crews.get? x).bind fun k =>
        openKind co x k w.clause w.hdr w.words w.rpos (w.fibres.map (·.1))
      { w with from_, opens := o.isSome, head := o.any (·.1), quiet := o.any (·.2) }
    | _, _ => { w with from_ }
  let ws := co.waits.map f
  let shut := fun (w : WaitB) => w.opens && !w.quiet && stallOver s c w && match w.fibres with
    | (_, x) :: _ => (co.crews.get? x).any fun k =>
        !openable s c x k w.clause (w.fibres.map (·.1)) w.head (hdrCommit w.hdr)
    | [] => false
  (ws.filter shut).foldl (fun s w => match w.fibres with
    | (_, x) :: _ => blockHead s c x w.clause (w.fibres.map (·.1)) w.head (hdrCommit w.hdr)
    | [] => s) (s.setCore c { co with waits := ws.filter fun w => !shut w })

/-- A waiting batch taken from the list, once its fibres have been looked at for issue. -/
def popWait (s : State) (c i : Nat) : Option (State × WaitB × List (Nat × Nat)) :=
  match (s.core c).waits[i]? with
  | none => none
  | some w =>
    let s1 := s.mapCore c fun co => { co with waits := co.waits.eraseIdx i }
    let (s2, l) := mayIssue s1 c w.clause w.fibres
    some (s2, w, l)

/-- The mark that a core has issued in this cycle (R55, R421). -/
def markIssued (s : State) (c : Nat) (tenant : Nat) : State :=
  if tenant = Config.noTenant then s
  else (s.mapCluster (clusterOf c) fun cl => { cl with used := cl.used + 1 }).mapCore c fun co =>
    { co with issued := s.now + 1 }

/-- A batch that waited for its counters goes on: crews that now need a region wait for it. -/
def issueWait (s : State) (c i : Nat) : State :=
  match popWait s c i with
  | none => s
  | some (s1, w, l) =>
    if l.isEmpty then s1
    else
      let s2 := markIssued s1 c w.tenant
      let need := l.filter fun p => ((s2.core c).crews.get? p.2).any fun k =>
        (openKind (s2.core c) p.2 k w.clause w.hdr w.words w.rpos [p.1]).isSome
      let go := l.filter fun p => !need.contains p
      let s3 := if go.isEmpty then s2 else startRun s2 c w.clause w.hdr w.words w.rpos go
      if need.isEmpty then s3 else enterWaits s3 c w.tenant w.clause w.hdr w.words w.rpos need

/-- The oldest ready bin becomes a batch (R36, R37). -/
def issueBin (s : State) (c i : Nat) : State :=
  match (s.core c).bins.get? i with
  | none => s
  | some b =>
    let s1 := s.mapCore c fun co => { co with bins := co.bins.del i }
    let s2 := b.lanes.cells.foldl (fun s p => s.mapFibre c p.2 p.1 fun f =>
      { f with st := .running }) s1
    let (s3, l) := mayIssue (drainWaits s2 c) c b.pc b.lanes.cells
    if l.isEmpty then s3
    else fetchGo (markIssued s3 c b.tenant) c
      { tenant := b.tenant, pc := b.pc, rpos := b.rpos, fibres := l, partials := b.forced }

/-- BATCH_ISSUE (R37, R55): fibres whose wait has ended enter the bins; then, in its issue slot,
the front end issues a batch of the tenant whose turn it is. -/
def execBatchIssue (c : Nat) (s : State) : Out :=
  let s1 := settleWaits (wakeBlocked (drainWaits s c) c) c
  match nextIssue s1 c with
  | none => .next s1
  | some x =>
    if x.wait then
      (if ((s1.core c).waits[x.idx]?).any fun w => w.opens then .next s1
       else .next (issueWait s1 c x.idx))
    else .next (issueBin s1 c x.idx)

/-! ### Region openings at issue (R48, R207, R210, R423) -/

/-- A region opens at the issue of a waiting clause: the fibres that may issue do, with the
checkpoint taken just before. -/
def openWait (s : State) (c i : Nat) : State :=
  match popWait s c i with
  | none => s
  | some (s1, w, l) =>
    match l with
    | [] => s1
    | (_, x) :: _ =>
      let (s2, l) := firstBlocks s1 (runFor c w.clause w.hdr w.words w.rpos s1.now l) true
      if l.isEmpty then s2
      else
        let s3 := if w.slotted then s2 else markIssued s2 c w.tenant
        -- all the fibres that met at a head issue it within its region (R48)
        let met := match (s3.crew? c x).bind (·.woken) with
          | some m => if w.head && !w.quiet && m.1 = w.clause then m.2 else []
          | none => []
        let s4 := openRegion s3 c x (dedup (l.map (·.1) ++ met)) w.clause (hdrCommit w.hdr) []
        beginRun s4 c (runFor c w.clause w.hdr w.words w.rpos s4.now l)

/-- Whether a waiting batch is the one that issues now: it has the issue slot of this cycle, or gets
it. -/
def openTurn (s : State) (c i : Nat) (quiet : Bool) : Bool :=
  ((s.core c).waits[i]?).any fun w => w.opens && w.quiet == quiet && openReady s c w &&
    (w.slotted || (nextIssue s c).any fun x => x.wait && x.idx == i)

/-- REGION_OPEN_AT_ISSUE (R423): a head, a commit point or a `cwait` clause that waited issues
and opens its region. -/
def execRegionOpenAtIssue (c i : Nat) (s : State) : Out :=
  if openTurn s c i false then .next (openWait s c i) else .next s

/-- QUIET_REGION_OPEN (R207, last case): the first clause after a region cleared while its crew
was quiet. -/
def execQuietRegionOpen (c i : Nat) (s : State) : Out :=
  if openTurn s c i true then .next (openWait s c i) else .next s

/-! ### The end of a clause (R31, R114, R127, R129, R377, R381) -/

/-- Whether a clause holds `yield`. -/
def holdsYield (r : Run) : Bool :=
  (r.words.filterMap decode).any fun i => match i with | .yield _ => true | _ => false

/-- The fibres of a crew after a clause: those that quit are gone, the others stand at their
continuation. -/
def afterClause (r : Run) (slot : Nat) (k : Crew) : Crew :=
  let quit := fun l => r.quits.contains (l, slot)
  let go := fun l => r.fibres.contains (l, slot)
  let fibres := (k.fibres.mapKV fun l (f : Fibre) =>
    if go l && !quit l then { f with pc := r.conts.getD l (nextClause r.clause r.hdr) } else f).keep
      fun l (f : Fibre) => !(quit l && f.st == FibSt.quitting)
  { k with fibres, ended := k.ended || fibres.cells.isEmpty
           still := k.still || (k.move.isSome && holdsYield r) }

/-- The continuations of a clause enter the bins; with SSTEP every fibre takes STEP (R381). -/
def handOn (s : State) (r : Run) (slot : Nat) : State :=
  let mine := (r.fibres.filter fun p => p.2 == slot && !r.quits.contains p).map (·.1)
  let born := (r.forks.filter fun p => p.2 == slot).map (·.1)
  match s.crew? r.core slot with
  | none => s
  | some k =>
    let step := bit k.dbg 4 && !mine.isEmpty
    let s0 := if k.still then stopFibres s r.core slot else s
    let s1 := if !step then s0
      else mine.foldl (fun s l =>
        let pc := ((k.fibres.get? l).map (·.pc)).getD 0
        takeTrap s r.core slot l (softTrap { r with pos := r.words.length - 1 } .step 0 pc)) s0
    (((if step then [] else mine) ++ born).filter fun l =>
      (k.fibres.get? l).any fun f => f.st == .running).foldl
        (fun s l => binFibre s r.core slot l (r.yields.contains (l, slot))) s1

/-- CLAUSE_END (R114): the batch dissolves, 4 cc after its last position. -/
def execClauseEnd (s : State) : Out :=
  match s.runs with
  | [] => .next s
  | r :: rest =>
    if r.pos < r.words.length || r.hold.isSome || decide (s.now < r.due) then .next s
    else
      let slots := dedup ((r.fibres ++ r.forks).map (·.2))
      let s1 := endBurst { s with runs := rest } r
      let s2 := slots.foldl (fun s x => s.mapCrew r.core x (afterClause r x)) s1
      .next (slots.foldl (fun s x => handOn s r x) s2)

/-! ### Results that land later (R66, R67, R102, R130) -/

/-- One lane of a result written to its registers, but for those whose write a debugger has
cancelled (R382). -/
def landLane (k : Crew) (lane : Nat) (f : FLane) : Crew :=
  let ws := splitRegs f.n (loadValue f)
  (List.range f.n).foldl (fun k i =>
    if f.dead.contains (f.reg + i) then k else regPut k (f.reg + i) lane (ws.getD i 0)) k

/-- RESULT_WRITEBACK (R66): a result whose lanes are all known lands, and its counter falls. -/
def execResultWriteback (c slot id : Nat) (s : State) : Out :=
  match s.crew? c slot with
  | none => .next s
  | some k =>
    match k.flights.find? fun f => f.id == id && f.ready with
    | none => .next s
    | some f =>
      let k1 := f.lanes.cells.foldl (fun k p => landLane k p.1 p.2) k
      .next (touchRegion (s.setCrew c slot
        { k1 with sb := k1.sb.put f.sbi (k1.sb.getD f.sbi 0 - 1)
                  flights := k1.flights.filter fun x => x.id != id }) c slot)

/-- RENDEZVOUS_COMPLETE (R130): the results are written, and every named fibre's continuation
enters the bins. -/
def execRendezvousComplete (c slot idx : Nat) (s : State) : Out :=
  match s.crew? c slot with
  | none => .next s
  | some k =>
    match k.rdvs[idx]? with
    | none => .next s
    | some v =>
      if !v.done.any fun t => decide (t ≤ s.now) then .next s
      else
        let k1 := (rdvResults k v).foldl rdvWrite { k with rdvs := k.rdvs.eraseIdx idx }
        let lanes := v.arrived.cells.map (·.1)
        let free := fun l (f : Fibre) =>
          if lanes.contains l && f.st == FibSt.blocked .rendezvous then
            { f with pc := v.next, st := .stopped } else f
        let k2 := { k1 with fibres := k1.fibres.mapKV free }
        let ready := fun (s : State) (l : Nat) =>
          (s.fibre? c slot l).any fun (f : Fibre) => f.st == FibSt.stopped
        .next (lanes.foldl (fun s l =>
          if ready s l then binFibre s c slot l false else s) (touchRegion (s.setCrew c slot k2) c slot))

/-! ### Events that positions count (R353) -/

/-- Whether an instruction is address arithmetic (R122). -/
def isAddr : Instr → Bool
  | .lea .. | .aadd .. | .asub .. | .acmp .. | .aaddImm32 .. | .asubImm32 .. | .aaddImm64 ..
  | .asubImm64 .. => true
  | _ => false

def isRet : Instr → Bool | .ret .. => true | _ => false

/-- The crews with a fibre that an instruction acts for. -/
def actingSlots (s : State) (r : Run) (i : Instr) : List Nat :=
  match i with
  | .br c _ | .call c _ _ | .fork c _ _ | .cont c _ =>
    activeSlots ((lanesUnder s r ⟨false, false, 0⟩).filter fun x => c.takes x.fib.pred)
  | i => match i.guard? with
    | some g => activeSlots (activeLanes s r g)
    | none => []

/-- A position that the batch has completed is counted: active positions, `ret`, and address
arithmetic. -/
def countPosition (s0 : State) (r : Run) (i : Instr) (s : State) : State :=
  (actingSlots s0 r i).foldl (fun s x =>
    let s := note s r.core x 2 1
    let s := note s r.core x 3 (isRet i).toNat
    if isAddr i then note s r.core x 4 1 else s) s

end Sys2Proof.Machine
end

