-- ==== Sys2Proof/Machine/Barrier.lean ====
section
/-! DEFINITION. Barriers across crews (R50 to R52, R134, R135, R318): arrivals and departures on
their way up the levels, and the release. An arrival or a departure that waits at a unit stands
in its launch under the group, the level and the unit. -/
namespace Sys2Proof.Machine
open Sys2Proof

/-- The number of a unit of a level above a core: the core, the cluster, the die, the package. -/
def unitOf (level c : Nat) : Nat :=
  match level with
  | 0 => c
  | 1 => c / 8
  | 2 => c / 64
  | _ => 0

/-- The key of a group at a unit. -/
def barKey (g level unit : Nat) : Nat := (g * 4 + level) * 1024 + unit

/-- The members of a group (R317). -/
def Group.members (g : Group) : Nat := if g.v then g.count else 0

/-- Arrivals that reach a unit of a level: combined at the top level, or waiting to be sent up
(R51). -/
def arriveUp (s : State) (tenant g level unit n : Nat) : State :=
  s.mapLaunch tenant fun l =>
    if l.top ≤ level then
      match l.groups.get? g with
      | some x => { l with groups := l.groups.put g { x with arrived := x.arrived + n } }
      | none => l
    else
      let k := barKey g level unit
      { l with bup := l.bup.put k (l.bup.getD k 0 + n) }

/-- Departures that reach a unit of a level: combined at the top level, or waiting (R52). -/
def departUp (s : State) (tenant g level unit n : Nat) : State :=
  s.mapLaunch tenant fun l =>
    if l.top ≤ level then
      match l.groups.get? g with
      | some x =>
        let y : Group := { x with departed := x.departed + BitVec.ofNat 32 n }
        { l with groups := l.groups.put g y }
      | none => l
    else
      let k := barKey g level unit
      { l with bdep := l.bdep.put k (l.bdep.getD k 0 + n) }

/-- Whether a resident member has done what its unit waits for: its arrival has left the core, or
it has ended and its departure has (R51, R52). -/
def memberIn (co : Core) (slot : Nat) (k : Crew) (g : Nat) : Bool :=
  let held := fun (e : Effect) => co.lodge.any fun x => x.slot == slot && x.eff == e
  (decide ((barOf k g).released < (barOf k g).sent) && !held (.arrive g)) ||
    (k.ended && !held (.depart g))

/-- Whether every member that is resident below a unit has arrived, and no unit below it still
holds an arrival. -/
def unitFull (s : State) (tenant g level unit : Nat) (l : Launch) : Bool :=
  (s.cores.cells.all fun (c, co) => unitOf level c != unit ||
    co.crews.cells.all fun (x, k) =>
      k.tenant != tenant || !k.groups.contains g || memberIn co x k g) &&
    (l.bup.cells.all fun (i, n) => n == 0 || i / 4096 != g || decide (level ≤ i / 1024 % 4) ||
      !(s.cores.keys.any fun c => unitOf level c == unit && unitOf (i / 1024 % 4) c == i % 1024))

/-- BARRIER_ARRIVAL_MESSAGE (R51): a unit below the top level sends what has reached it up. -/
def execBarrierArrivalMessage (tenant g level unit : Nat) (s : State) : Out :=
  match s.launch? tenant with
  | none => .next s
  | some l =>
    let k := barKey g level unit
    let n := l.bup.getD k 0
    if n = 0 || !unitFull s tenant g level unit l then .next s
    else
      let s1 := s.mapLaunch tenant fun l => { l with bup := l.bup.del k }
      let up := if level ≤ 1 then unit / 8 else 0
      .next (arriveUp s1 tenant g (level + 1) up n)

/-- BARRIER_DEPARTURE (R52): a departure goes up; it lowers what each level expects. -/
def execBarrierDeparture (tenant g level unit : Nat) (s : State) : Out :=
  match s.launch? tenant with
  | none => .next s
  | some l =>
    let k := barKey g level unit
    let n := l.bdep.getD k 0
    if n = 0 then .next s
    else
      let s1 := s.mapLaunch tenant fun l => { l with bdep := l.bdep.del k }
      let up := if level ≤ 1 then unit / 8 else 0
      .next (departUp s1 tenant g (level + 1) up n)

/-- A fibre when the release reaches its crew (R134): one that waits goes on with its bit clear;
the bit of another is that of an episode that is over. -/
def fibreReleased (i g : Nat) (f : Fibre) : Fibre :=
  if f.st = .blocked (.barrier g) then
    { f with arr := setBit f.arr i false, stale := setBit f.stale i false, st := .stopped }
  else if bit f.arr i then { f with stale := setBit f.stale i true }
  else f

/-- A crew that the release of a group reaches (R51, R134, R377): its next clause opens a new
region, and a crew marked for a move stops. -/
def crewReleased (g : Nat) (k : Crew) : Crew :=
  match groupIdx k g with
  | none => k
  | some i =>
    let b := barOf k g
    if b.sent ≤ b.released then k
    else
      let up := fun (t : Tab Fibre) => t.mapKV fun _ f => fibreReleased i g f
      { k with bars := k.bars.put g { b with released := b.released + 1 }
               opening := max 1 k.opening, fibres := up k.fibres
               still := k.still || k.move.isSome
               region := k.region.map fun x => { x with ck := { x.ck with fibres := up x.ck.fibres } } }

/-- The release reaches the crew in a slot: its fibres enter the bins. -/
def releaseAt (s : State) (tenant g c slot : Nat) : State :=
  match s.crew? c slot with
  | none => s
  | some k =>
    if k.tenant != tenant then s
    else
      let s1 := s.setCrew c slot (crewReleased g k)
      let s2 := if (crewReleased g k).still && !k.still then stopFibres s1 c slot else s1
      (k.fibres.cells.filter fun p => p.2.st == FibSt.blocked (.barrier g)).foldl
        (fun s p => if (s.fibre? c slot p.1).any fun f => f.st == FibSt.stopped then
          binFibre s c slot p.1 false else s) s2

/-- BARRIER_RELEASE (R51, R318): the arrivals of an episode equal the members less those that
have departed. -/
def execBarrierRelease (tenant g : Nat) (s : State) : Out :=
  match (s.launch? tenant).bind fun l => l.groups.get? g with
  | none => .next s
  | some x =>
    if x.arrived = 0 || decide (x.arrived + x.departed.toNat < x.members) then .next s
    else
      let s1 := s.mapLaunch tenant fun l =>
        { l with groups := l.groups.put g { x with arrived := 0, episode := x.episode + 1 } }
      let s2 := s1.cores.cells.foldl (fun s (c, co) =>
        co.crews.keys.foldl (fun s slot => releaseAt s tenant g c slot) s) s1
      .next { s2 with cores := s2.cores.mapKV fun _ (co : Core) =>
        { co with evicted := co.evicted.map fun e =>
            if e.crew.tenant == tenant then { e with crew := crewReleased g e.crew } else e } }

end Sys2Proof.Machine
end

