-- ==== Sys2Proof/Machine/Crypto.lean ====
section
/-! DEFINITION. SHA-256 and the verification of an ECDSA signature on the curve P-256, which the
boot ROM uses (R413, R415). The manual names both and defines neither: they are the functions of
FIPS 180-4 and FIPS 186-5 (log entry 53). -/
namespace Sys2Proof.Machine
open Sys2Proof

/-! ### SHA-256 -/

/-- The integer k-th root of x, found one bit at a time from bit n - 1 down, above the bits r
already found. -/
def rootBits (k x : Nat) : Nat → Nat → Nat
  | 0, r => r
  | n + 1, r => rootBits k x n (if (r + 2 ^ n) ^ k ≤ x then r + 2 ^ n else r)

/-- The first 32 bits of the fractional part of the k-th root of p: the constants of the function
are such roots of the first primes, which is how they are defined. -/
def rootWord (k p : Nat) : W32 := BitVec.ofNat 32 (rootBits k (p * 2 ^ (32 * k)) 40 0)

/-- The primes below a bound. -/
def primesBelow (n : Nat) : List Nat :=
  (List.range n).filter fun p =>
    decide (2 ≤ p) && (List.range p).all fun d => decide (d < 2) || decide (p % d ≠ 0)

/-- The constants of the 64 rounds: from the cube roots of the first 64 primes. -/
def shaKeys : List W32 := (primesBelow 312).map (rootWord 3)

/-- The exclusive or of a word rotated right by each of some counts. -/
def spinXor (counts : List Nat) (x : W32) : W32 :=
  counts.foldl (fun y n => y ^^^ x.rotateRight n) 0

/-- The eight working words. -/
structure ShaRegs where
  a : W32
  b : W32
  c : W32
  d : W32
  e : W32
  f : W32
  g : W32
  h : W32
  deriving DecidableEq, Repr

/-- The word each register starts from: the square roots of the first eight primes. -/
def ShaRegs.start : ShaRegs :=
  { a := rootWord 2 2, b := rootWord 2 3, c := rootWord 2 5, d := rootWord 2 7, e := rootWord 2 11,
    f := rootWord 2 13, g := rootWord 2 17, h := rootWord 2 19 }

/-- The sum register by register. -/
def ShaRegs.plus (x y : ShaRegs) : ShaRegs :=
  { a := x.a + y.a, b := x.b + y.b, c := x.c + y.c, d := x.d + y.d, e := x.e + y.e, f := x.f + y.f,
    g := x.g + y.g, h := x.h + y.h }

/-- One round on the registers, with the sum of its constant and its message word. A choice of
bits and a majority of bits are written with the select the bits of one word make. -/
def ShaRegs.turn (x : ShaRegs) (kw : W32) : ShaRegs :=
  let pick := x.g ^^^ (x.e &&& (x.f ^^^ x.g))
  let most := (x.a &&& x.b) ||| (x.c &&& (x.a ||| x.b))
  let add := kw + x.h + pick + spinXor [6, 11, 25] x.e
  { a := add + most + spinXor [2, 13, 22] x.a, b := x.a, c := x.b, d := x.c, e := x.d + add,
    f := x.e, g := x.f, h := x.g }

/-- The rounds of a block: every round takes the first of the 16 message words in view and puts
the word made from four of them behind the last. -/
def shaRounds : List W32 → List W32 → ShaRegs → ShaRegs
  | [], _, x => x
  | k :: ks, view, x =>
    let now := view.headD 0
    let near := view.getD 1 0
    let far := view.getD 14 0
    let next := now + view.getD 9 0 + (spinXor [7, 18] near ^^^ near >>> 3) +
      (spinXor [17, 19] far ^^^ far >>> 10)
    shaRounds ks (view.tail ++ [next]) (x.turn (k + now))

/-- A number from bytes, the first the most significant. -/
def beNat (l : List Byte) : Nat := l.foldl (fun n b => 256 * n + b.toNat) 0

/-- A number as n bytes, the first the most significant. -/
def beBytes (n x : Nat) : List Byte :=
  (List.range n).map fun i => BitVec.ofNat 8 (x / 256 ^ (n - 1 - i))

/-- A message with its padding. -/
def shaPad (l : List Byte) : List Byte :=
  l ++ 0x80 :: List.replicate ((119 - l.length % 64) % 64) 0 ++ beBytes 8 (8 * l.length)

/-- The 16 words of the first block of a padded message. -/
def shaWords (l : List Byte) : List W32 :=
  (List.range 16).map fun j => BitVec.ofNat 32 (beNat ((l.drop (4 * j)).take 4))

/-- The registers after the first n blocks of a padded message. -/
def shaBlocks : Nat → List Byte → ShaRegs → ShaRegs
  | 0, _, x => x
  | n + 1, l, x => shaBlocks n (l.drop 64) (x.plus (shaRounds shaKeys (shaWords l) x))

/-- The SHA-256 digest of a message. -/
def sha256 (l : List Byte) : List Byte :=
  let p := shaPad l
  let x := shaBlocks (p.length / 64) p ShaRegs.start
  [x.a, x.b, x.c, x.d, x.e, x.f, x.g, x.h].flatMap fun w => beBytes 4 w.toNat

/-! ### P-256 -/

/-- The prime, the coefficient b, the order and the base point. -/
def p256p : Nat := 0xffffffff00000001000000000000000000000000ffffffffffffffffffffffff
def p256b : Nat := 0x5ac635d8aa3a93e7b3ebbd55769886bc651d06b0cc53b0f63bce3c3e27d2604b
def p256n : Nat := 0xffffffff00000000ffffffffffffffffbce6faada7179e84f3b9cac2fc632551
def p256g : Nat × Nat :=
  (0x6b17d1f2e12c4247f8bce6e563a440f277037d812deb33a0f4a13945d898c296,
   0x4fe342e2fe1a7f9b8ee7eb4a7c0f9e162bce33576b315ececbb6406837bf51f5)

/-- Whether a point lies on the curve (R413). -/
def onCurve (q : Nat × Nat) : Bool :=
  decide (q.1 < p256p) && decide (q.2 < p256p) &&
    q.2 * q.2 % p256p == (q.1 * q.1 * q.1 + (p256p - 3) * q.1 + p256b) % p256p

/-- A power modulo m, by the bits of the exponent from the top. -/
def powMod (m b e : Nat) : Nat :=
  (List.range 256).foldl (fun r i =>
    let q := r * r % m
    if e / 2 ^ (255 - i) % 2 = 1 then q * b % m else q) 1

/-- The inverse modulo a prime. -/
def invMod (m a : Nat) : Nat := powMod m (a % m) (m - 2)

/-- The sum of two points, none being the point at infinity. -/
def ecAdd (a b : Option (Nat × Nat)) : Option (Nat × Nat) :=
  match a, b with
  | none, q => q
  | q, none => q
  | some (x1, y1), some (x2, y2) =>
    if x1 = x2 ∧ (y1 + y2) % p256p = 0 then none
    else
      let k := if x1 = x2 then (3 * x1 * x1 + p256p - 3) * invMod p256p (2 * y1) % p256p
        else (y2 + p256p - y1) * invMod p256p (x2 + p256p - x1) % p256p
      let x := (k * k + 2 * p256p - x1 - x2) % p256p
      some (x, (k * (x1 + p256p - x) + p256p - y1) % p256p)

/-- A multiple of a point. -/
def ecMul (n : Nat) (q : Nat × Nat) : Option (Nat × Nat) :=
  (List.range 256).foldl (fun r i =>
    let d := ecAdd r r
    if n / 2 ^ (255 - i) % 2 = 1 then ecAdd d (some q) else d) none

/-- Whether r, s is a signature of a digest under a public key. -/
def ecdsaVerify (key : Nat × Nat) (digest : List Byte) (r s : Nat) : Bool :=
  if r = 0 ∨ p256n ≤ r ∨ s = 0 ∨ p256n ≤ s ∨ onCurve key = false then false
  else
    let w := invMod p256n s
    let e := beNat digest
    match ecAdd (ecMul (e * w % p256n) p256g) (ecMul (r * w % p256n) key) with
    | some (x, _) => x % p256n == r
    | none => false

end Sys2Proof.Machine
end

