-- ==== Sys2Proof/Machine/Record.lean ====
section
/-! DEFINITION. Crew records (R267, R370 to R373): writing a record into device memory, reading
one back, the checks of a restore, and a crew as a restore makes it. The bytes that R370 to R372
do not place are the model's (log entry 48). -/
namespace Sys2Proof.Machine
open Sys2Proof

/-! ### Ranges of device memory -/

/-- A range of whole lines written at its homes: copies in the cluster L2s give way to it. -/
def homeImage (s : State) (pa size : Nat) (l : List (Nat × Byte)) : State :=
  let out := fun (a : Nat) => decide (a < pa) || decide (pa + size ≤ a)
  let s1 := { s with
    clusters := s.clusters.mapKV fun _ (k : Cluster) =>
      { k with l2 := k.l2.filter fun x => out (x.line * 256) }
    llc := s.llc.keep fun line _ => out (line * 256)
    mem := s.mem.filter fun p => out p.1 }
  l.foldl (fun s p => homePut s (pa + p.1) p.2) s1

/-- Dirty copies of a range of lines brought to their homes. -/
def homeGather (s : State) (pa size : Nat) : State :=
  (List.range (ceilDiv size 256)).foldl (fun s i => homeCollect s (pa + 256 * i)) s

/-- A field of an image: its bytes at an offset. -/
def field (off n v : Nat) : List (Nat × Byte) :=
  ((List.range n).map fun i => (off + i, BitVec.ofNat 8 (v >>> (8 * i)))).filter fun p => p.2 != 0

/-- Words of 8 bytes from an offset on. -/
def fieldWords (off : Nat) (ws : List W64) : List (Nat × Byte) :=
  ((List.range ws.length).map fun i => field (off + 8 * i) 8 (ws.getD i 0).toNat).flatten

/-! ### The layout of a crew record (R370) -/

/-- The bytes of a granule (R97). -/
def granBytes (foot : W64) : Nat := if footNarrow foot then 1024 else 2048
def scratchAt (foot : W64) : Nat := 0x8000 + (fld foot 47 43 + 1) * granBytes foot
def accAt (foot : W64) : Nat := roundUp (scratchAt foot + scratchBytes foot) 4096
def recordBytes (foot : W64) : Nat := accAt foot + 4096 * footAcc foot

/-- The offset of a lane of a register in a record (R97). -/
def regAt (foot : W64) (v lane : Nat) : Nat :=
  0x8000 + v / 8 * granBytes foot + v % 8 * (granBytes foot / 8) + 4 * lane

/-! ### Writing a record (R371, R372) -/

/-- Word 3: the place's offset from the origin of its rectangle. -/
def placeOffset (q : Rect) (n : Nat) : W64 :=
  setFld (setFld (setFld (0 : W64) 10 8 (n / 64 - q.d0)) 7 4 (n / 8 % 8 - q.y0)) 3 0 (n % 8 - q.x0)

/-- ARRG: memberships whose arrival at the open episode has been sent. -/
def arrgOf (k : Crew) : Nat :=
  ((List.range k.groups.length).filter fun i =>
    let b := barOf k (k.groups.getD i 0)
    decide (b.released < b.sent)).foldl (fun m i => m + 2 ^ i) 0

/-- The header of a crew's record with its DONE word. -/
def headerWords (s : State) (k : Crew) (done : W64) : List W64 :=
  let l := crewLaunch s k
  let tag := (l.map fun l => pkTag l.post.packet).getD 0
  let q := (l.map fun l => rectOf (l.post.packet.getD 0 0)).getD allPlaces
  [setFld (setFld (setFld (0 : W64) 63 32 0x43535652) 31 16 1) 15 0 (recordBytes k.foot / 4096),
    k.foot,
    setFld (setFld (setFld (0 : W64) 63 48 tag) 35 32 k.depth) 31 0 k.number.toNat,
    placeOffset q k.place.toNat, k.cont, k.ib.setWidth 64, k.mb.setWidth 64,
    setFld (setFld (k.wdLimit.setWidth 64) 47 24 k.wdCount.toNat) 63 48 k.rseq.toNat] ++
    ((List.range 4).map fun i =>
      [(pctrOf k.pctrs i).sel.setWidth 64, (pctrOf k.pctrs i).val]).flatten ++
    [k.sparg, setFld (setFld (0 : W64) 7 0 k.dbg.toNat) 11 8 (arrgOf k)] ++
    List.replicate 13 0 ++ [done]

/-- The fibres whose commit point has performed and is to be reissued (R210). -/
def replayLanes (k : Crew) : List Nat :=
  match k.region with
  | some g => if g.replay.isSome then g.lanes else []
  | none => []

/-- The operand and the mask that a fibre brought to a rendezvous. -/
def heldArrival (k : Crew) (lane : Nat) : Option (Rdv × Arrival) :=
  k.rdvs.findSome? fun v => (v.arrived.get? lane).map fun a => (v, a)

/-- Entry l of the fibre table (R372). -/
def fibreWords (s : State) (c slot : Nat) (k : Crew) (lane : Nat) : List W64 :=
  match k.fibres.get? lane with
  | none => List.replicate 8 0
  | some f =>
    let arr := heldArrival k lane
    let (pos, pc, lat) := match arr, f.st with
      | some (v, a), _ => (v.pos, v.clause, a.lat)
      | none, .trapped t => (t.pos, t.res, t.lat)
      | none, _ => (f.rpos, f.pc, f.rlat)
    let w := laneWait s c slot k lane
    let reason := if (replayLanes k).contains lane then 3 else (w.map Wait.code).getD 0
    let code := match f.st with
      | .trapped t => t.cause.code + 256 * (fld t.code 7 0)
      | _ => 0
    [setFld (pc.setWidth 64) 63 60 pos,
      setFld (setFld (setFld (setFld (setFld (setFld (0 : W64) 63 48 f.pred.toNat) 47 44
        f.arr.toNat) 43 40 (fibreFlags k lane)) 39 32 reason) 31 16
        ((w.map Wait.param).getD 0)) 15 0 code,
      (arr.map fun p => p.1.mask).getD 0, (arr.map fun p => p.2.a).getD 0] ++
      (List.range 4).map fun j => lat.getD j 0

/-- A queue: binding spec and vR, T, D, then the cursors (R370). -/
def queueFields (k : Crew) (q : Nat) : List (Nat × Byte) :=
  match k.queues.get? q with
  | none => []
  | some x =>
    let at_ := 0x200 + 512 * q
    let spec := x.off + (x.cap - 1) * 2 ^ 24 + x.out.toNat * 2 ^ 31
    field at_ 4 spec ++ field (at_ + 4) 4 (x.reg + 2 ^ 31) ++ field (at_ + 8) 4 x.tail ++
      field (at_ + 12) 4 x.drain ++
      ((List.range 64).map fun l => field (at_ + 256 + 4 * l) 4 (x.cur.getD l 0)).flatten

/-- The generation counters (R370). -/
def genFields (k : Crew) : List (Nat × Byte) :=
  let one := fun (kind base n : Nat) =>
    ((List.range n).map fun i => field (base + 2 * i) 2 (genOf k kind i).toNat).flatten
  one 0 0xA00 64 ++ one 1 0xA80 128 ++ one 2 0xB80 8

/-- A context of the engine section: the descriptor or layout record, its state, and the first
chunk that is not released. -/
def ctxWords (x : Ctx) : List W64 :=
  (List.range 8).map (fun i => wordOf x.desc i) ++
    [setBit (setBit (setBit (setBit (setFld (setFld (setFld (setFld (0 : W64) 2 0 x.state) 15 8
      x.place) 23 16 ((x.cause.map Cause.code).getD 0)) 39 32 (x.desc.length))
      3 x.nw) 4 x.tensor) 5 x.own) 6 x.acqDone, BitVec.ofNat 64 x.next]

/-- A stream of the engine section: program record, step, queue or rings. -/
def streamWords (x : Stream) : List W64 :=
  (List.range 4).map (fun i => wordOf x.prog i) ++
    [BitVec.ofNat 64 (x.next + x.total * 2 ^ 32),
      setFld (setFld (setFld (setFld (setFld (setFld (setFld (0 : W64) 3 0 x.kind) 7 4 x.q) 11 8
        x.src) 15 12 (x.state + 8)) 23 16 x.place) 31 24 ((x.cause.map Cause.code).getD 0)) 63 32
        ((x.stop.map fun p => p.1 + 1).getD 0), x.mask, 0]

/-- A node of the engine section: words 0 to 11 of R326 with crew-relative successors. -/
def nodeRecWords (co : Core) (x : Node) : List W64 :=
  let y : Node := { x with succ := x.succ.map fun j => ((co.nodes.get? j).map (·.idx)).getD 0 }
  (List.range 12).map (nodeWord y)

/-- The engine sections of a crew (R370). -/
def engineFields (co : Core) (k : Crew) : List (Nat × Byte) :=
  let who := crewId k
  ((List.range 64).map fun i => match ctxOf co who i with
    | some (_, x) => fieldWords (0x2000 + 128 * i) (ctxWords x)
    | none => []).flatten ++
  ((List.range 8).map fun i => match streamOf co who i with
    | some (_, x) => fieldWords (0x4000 + 64 * i) (streamWords x)
    | none => []).flatten ++
  ((List.range 128).map fun i => match nodeOf co who i with
    | some (_, x) => fieldWords (0x4200 + 96 * i) (nodeRecWords co x)
    | none => []).flatten

/-- The bytes of a crew's record that are not zero. -/
def recordFields (s : State) (c slot : Nat) (k : Crew) (engine : Bool) (done : W64) :
    List (Nat × Byte) :=
  let lanes := List.range (footLanes k.foot)
  let replay := fun (l : Nat) => match (k.region.bind (·.replay)).bind fun t => t.get? l with
    | some v => field (0x1C00 + 16 * l) 16 v.toNat
    | none => []
  fieldWords 0 (headerWords s k done) ++
  ((List.range 16).map fun i =>
    fieldWords (0x100 + 16 * i) [(recOf k i).desc, (recOf k i).map]).flatten ++
  ((List.range 4).map (queueFields k)).flatten ++ genFields k ++
  (lanes.map fun l => fieldWords (0xC00 + 64 * l) (fibreWords s c slot k l)).flatten ++
  (lanes.map replay).flatten ++
  (if engine then engineFields (s.core c) k else []) ++
  ((List.range (footRegs k.foot)).map fun v =>
    (lanes.map fun l => field (regAt k.foot v l) 4 (regGet k v l).toNat).flatten).flatten ++
  (k.scratch.cells.map fun p => field (scratchAt k.foot + p.1) 1 p.2.toNat).flatten ++
  ((List.range (footAcc k.foot)).map fun b =>
    ((List.range 1024).map fun i =>
      field (accAt k.foot + 4096 * b + 4 * i) 4 (accGet k b (i / 16) (i % 16)).toNat).flatten).flatten

/-- The stream engine writes a crew's record, its DONE word last (R369, R377, R378). -/
def writeRecord (s : State) (c slot : Nat) (k : Crew) (engine : Bool) (pa : Nat) (done : W64) :
    State :=
  homeImage s pa (recordBytes k.foot) (recordFields s c slot k engine done)

/-- The DONE word of a record: of an eviction, or of an emergency save (R371). -/
def doneWord (seq : Nat) : W64 := BitVec.ofNat 64 (0x434F4D50 * 2 ^ 32 + seq)

/-! ### Reading a record (R371, R372) -/

/-- A word of a record. -/
def recWord (s : State) (pa off : Nat) : W64 := BitVec.ofNat 64 (homeWord s (pa + off) 8)

/-- Every cause, in code order (R363). -/
def allCauses : List Cause :=
  [.illegalClause, .illegalInstruction, .registerBound, .operandAlignment, .staleLatch,
    .fetchFault, .translation, .pteFormat, .permission, .attrSplit, .alignment, .scratchBound,
    .privateBound, .windowUnowned, .domainAbsent, .placeRange, .placeAbsent, .targetAlignment,
    .partialBatch, .memberExited, .memberMismatch, .memberCrossed, .groupNotMember,
    .barrierState, .spawnDepth, .crewNumber, .privilege, .budgetShort, .format] ++
  [.recordState, .operandPlace, .operandSpace, .operandRange, .accBound, .gangState,
    .gangMismatch, .gangTimeout, .handleState, .copyOverlap, .graphLimit, .ringState,
    .queueState, .orphanQueue, .tableIndex, .tableState, .contextState, .trap, .break_, .step,
    .machineCheck, .regionStorm, .lodgeOverflow] ++
  [.budgetYield, .watchdog, .doorbellMiss, .launchRefused, .contextFault, .lowFlow, .highDt,
    .gas, .coolFailed, .thermalMigrate, .thermalThrottle, .emergencySave, .coreCaptured,
    .arrayError, .ringFault, .doneFault]

/-- The cause with a code. -/
def causeOf (n : Nat) : Option Cause := allCauses.find? fun c => c.code == n

/-- The wait that a record names, as far as the fibre enters it blocked: a fibre that waited at an
instruction re-enters its wait as its clause issues (R373). -/
def waitNamed (reason param : Nat) (held : Bool) : Option Wait :=
  if reason = 1 ∧ held then some .rendezvous
  else if reason = 2 then some (.barrier param)
  else none

/-- A fibre of a record (R372). -/
def readFibre (s : State) (pa lane : Nat) : Option Fibre :=
  let w := fun i => recWord s pa (0xC00 + 64 * lane + 8 * i)
  if !bit (w 1) 40 then none
  else
    let pc := (w 0).setWidth 56
    let pos := fld (w 0) 63 60
    let lat : Tab W64 := ⟨(List.range 4).map fun j => (j, w (4 + j))⟩
    let st := if bit (w 1) 42 then
        match causeOf (fld (w 1) 7 0) with
        | some cause => FibSt.trapped
            { cause, sub := 0, code := BitVec.ofNat 16 (fld (w 1) 15 8), clause := pc, at_ := pos
              res := pc, pos, lat, next := pc, data := 0, delivered := false, group := 0
              was := none, wr := false }
        | none => .stopped
      else match waitNamed (fld (w 1) 39 32) (fld (w 1) 31 16) (bit (w 1) 43) with
        | some x => .blocked x
        | none => .stopped
    some { pc, rpos := pos, rlat := lat, pred := BitVec.ofNat 16 (fld (w 1) 63 48)
           arr := BitVec.ofNat 4 (fld (w 1) 47 44), stale := 0, paid := false, st }

/-- The queues of a record. -/
def readQueue (s : State) (pa q : Nat) : Option OQueue :=
  let at_ := pa + 0x200 + 512 * q
  let spec := homeWord s at_ 4
  let vr := homeWord s (at_ + 4) 4
  if vr < 2 ^ 31 then none
  else
    let cur : Tab Nat := ⟨((List.range 64).map fun l => (l, homeWord s (at_ + 256 + 4 * l) 4)).filter
      fun p => p.2 != 0⟩
    some { out := decide (2 ^ 31 ≤ spec), cap := spec / 2 ^ 24 % 64 + 1, off := spec % 2 ^ 20
           reg := vr % 256, tail := homeWord s (at_ + 8) 4, cur, drain := homeWord s (at_ + 12) 4
           rel := cur, pend := cur, last := none, fresh := false }

/-- A table of what a function finds below a limit. -/
def tabOf {α : Type} (n : Nat) (f : Nat → Option α) : Tab α :=
  ⟨(List.range n).filterMap fun i => (f i).map fun x => (i, x)⟩

/-- The words of 32 bits of a region of a record that are not zero, under their keys. -/
def readCells (s : State) (l : List (Nat × Nat)) : Tab W32 :=
  l.foldl (fun (t : Tab W32) p =>
    let w := homeWord s p.2 4
    if w = 0 then t else t.put p.1 (BitVec.ofNat 32 w)) .empty

/-- The operand records of a record in a fresh share, in record order, not filled (R239). -/
def readRecs (s : State) (pa foot0 obase : Nat) : Tab Rec :=
  ((List.range foot0).foldl (fun (p : Tab Rec × Nat) i =>
    let d := setBit (recWord s pa (0x100 + 16 * i)) 19 false
    let m := recWord s pa (0x108 + 16 * i)
    if d = 0 ∧ m = 0 then p
    else
      let n := if recState d = 1 then recLines d else 0
      (p.1.put i { desc := d, map := m, first := p.2, count := n, fault := none, relSeq := none },
        p.2 + n)) (.empty, obase)).1

/-- A region that holds a commit point's replay record, for the fibres that issued it (R210). -/
def readRegion (s : State) (pa win : Nat) (k : Crew) : Option Region :=
  let lanes := (List.range 64).filter fun l =>
    fld (recWord s pa (0xC08 + 64 * l)) 39 32 == 3 && (k.fibres.get? l).isSome
  match lanes with
  | [] => none
  | l :: _ =>
    let head := ((k.fibres.get? l).map (·.pc)).getD 0
    let val := fun (i : Nat) => BitVec.ofNat 128 (homeWord s (pa + 0x1C00 + 16 * i) 16)
    some { close := s.now, win, ck := checkpoint k lanes head
           replay := some ⟨lanes.map fun i => (i, val i)⟩, commit := true, head, link := []
           freed := [], lanes, again := 1, redo := [] }

/-- The crew that a record describes, at a spot of a core (R373): registers and blocks in copy 0,
records in a fresh share, the sequence number one up, both signatures saturated. -/
def readCrew (s : State) (pa tenant place : Nat) (l : Launch) (win : Nat) (at_ : Spot) : Crew :=
  let foot := recWord s pa 8
  let w2 := recWord s pa 16
  let number : BitVec 32 := w2.setWidth 32
  let lanes := footLanes foot
  let cells := ((List.range (footRegs foot)).map fun v =>
    (List.range lanes).map fun i => (regKey v i, pa + regAt foot v i)).flatten
  let accs := ((List.range (footAcc foot)).map fun b =>
    (List.range 1024).map fun i => (b * 1024 + i, pa + accAt foot + 4096 * b + 4 * i)).flatten
  let bytes := (List.range (scratchBytes foot)).filterMap fun i =>
    let b := homeGet s (pa + scratchAt foot + i)
    if b = 0 then none else some (i, b)
  let fibres := tabOf lanes (readFibre s pa)
  let w7 := recWord s pa 56
  let w17 := recWord s pa 136
  let budget := fibres.keys.any fun i => fld (recWord s pa (0xC08 + 64 * i)) 39 32 == 13
  let gens := (List.range 200).foldl (fun (t : Tab (BitVec 16)) i =>
    let g := homeWord s (pa + 0xA00 + 2 * i) 2
    let key := if i < 64 then genKey 0 i else if i < 192 then genKey 1 (i - 64) else genKey 2 (i - 192)
    if g = 0 then t else t.put key (BitVec.ofNat 16 g)) .empty
  let groups := groupsOf l number.toNat
  let open_ := fun (i : Nat) => bit w17 (8 + i)
  let full := fun (i : Nat) => fibres.vals.all fun (f : Fibre) => bit f.arr i
  let stale := (List.range groups.length).foldl (fun (m : BitVec 4) i =>
    if full i && !open_ i then setBit m i true else m) 0
  let k : Crew :=
    { newCrew tenant number place foot at_ with
      depth := fld w2 35 32
      reg0 := readCells s cells, acc0 := readCells s accs, scratch := ⟨bytes⟩
      fibres := fibres.mapKV fun _ (f : Fibre) => { f with stale := f.arr &&& stale }
      cont := recWord s pa 32, ib := (recWord s pa 40).setWidth 48
      mb := (recWord s pa 48).setWidth 48
      rseq := BitVec.ofNat 16 (fld w7 63 48 + 1), opening := 2
      wdLimit := BitVec.ofNat 24 (fld w7 23 0), wdCount := BitVec.ofNat 24 (fld w7 47 24)
      wdSaid := fld w7 23 0 != 0 && fld w7 23 0 == fld w7 47 24
      pctrs := ⟨(List.range 4).map fun i =>
        (i, ⟨(recWord s pa (64 + 16 * i)).setWidth 32, recWord s pa (72 + 16 * i)⟩)⟩
      sparg := recWord s pa 128, dbg := BitVec.ofNat 64 (fld w17 7 0)
      recs := readRecs s pa (footOrec foot) at_.obase
      queues := tabOf 4 (readQueue s pa), gens, groups, wsat := true, asat := true
      yield := if budget then .complete else .none }
  { k with region := readRegion s pa win k }

/-! ### What the record does not hold -/

/-- The open rendezvous of a restored crew: each held arrival re-arrives with its mask and operand
(R132, R373); the instruction is read from the clause. -/
def readRdvs (s : State) (c pa : Nat) (k : Crew) : List Rdv :=
  let held := (List.range 64).filter fun l =>
    bit (recWord s pa (0xC08 + 64 * l)) 43 && (k.fibres.get? l).isSome
  held.foldl (fun (rs : List Rdv) l =>
    match k.fibres.get? l with
    | none => rs
    | some f =>
      let w := peekHeader s c k.tenant (f.pc + BitVec.ofNat 56 (8 * (f.rpos + 1)))
      match w.bind decode with
      | none => rs
      | some i =>
        let next := nextClause f.pc ((peekHeader s c k.tenant f.pc).getD 0)
        let r : Run := { core := c, clause := f.pc, hdr := 0, words := [], fibres := [(l, 0)]
                         first := f.rpos, pos := f.rpos, due := 0, lat := .empty, hold := none
                         asked := 0, fails := [], tmp := [], taken := false, conts := .empty
                         quits := [], yields := [], forks := [], burst := false }
        let active := match i.guard? with
          | some g => g.holds f.pred
          | none => true
        let b := match i with
          | .shfl _ _ _ _ _ b _ => srcVal k r l false b
          | _ => 0
        let a : Arrival := { active, a := recWord s pa (0xC18 + 64 * l), b, lat := f.rlat }
        let same := fun (v : Rdv) => v.clause == f.pc && v.pos == f.rpos
        if rs.any same then
          rs.map fun (v : Rdv) => if same v then { v with arrived := v.arrived.put l a } else v
        else rs ++ [{ clause := f.pc, pos := f.rpos, instr := i
                      mask := recWord s pa (0xC10 + 64 * l), next, arrived := ⟨[(l, a)]⟩
                      done := none }]) []

/-- A trapped fibre of a record knows where `eret.next` continues once its clause is read. -/
def withNext (s : State) (c : Nat) (k : Crew) : Crew :=
  let fix := fun (f : Fibre) => match f.st with
    | .trapped t =>
      let soft := t.cause.cls == 3
      let next := if soft then t.res
        else nextClause t.clause ((peekHeader s c k.tenant t.clause).getD 0)
      { f with st := .trapped { t with next } }
    | _ => f
  { k with fibres := k.fibres.mapKV fun _ f => fix f }

/-- The contexts, streams and nodes of a record that an emergency save wrote (R267, R370). -/
def readEngine (s : State) (c slot pa : Nat) (k : Crew) : State :=
  let who := crewId k
  let t := tctxOf s slot k
  let s1 := (List.range 64).foldl (fun s i =>
    let w := fun j => recWord s pa (0x2000 + 128 * i + 8 * j)
    let st := fld (w 8) 2 0
    if st = 0 then s
    else
      let (s1, id) := freshId s c
      let co := s1.core c
      let x : Ctx :=
        { slot, idx := i, state := st
          cause := if st = 3 ∨ st = 4 then causeOf (fld (w 8) 23 16) else none
          nw := bit (w 8) 3, tensor := bit (w 8) 4
          desc := (List.range (fld (w 8) 39 32)).map w, place := fld (w 8) 15 8
          own := bit (w 8) 5, rseq := none, next := (w 9).toNat, acqDone := bit (w 8) 6
          relStaged := false, wsig := 0, wsatd := true, granted := false, asked := false
          node := none, id, fenceId := 0, after := s.now, tctx := t, who }
      s1.setCore c { co with ctxs := co.ctxs.put ((freeKey co.ctxs 4096).getD 0) x }) s
  let s2 := (List.range 8).foldl (fun s i =>
    let w := fun j => recWord s pa (0x4000 + 64 * i + 8 * j)
    if fld (w 5) 15 12 = 0 then s
    else
      let co := s.core c
      let x : Stream :=
        { slot, idx := i, kind := fld (w 5) 3 0, q := fld (w 5) 7 4, src := fld (w 5) 11 8
          mask := w 6, prog := (List.range 4).map w, place := fld (w 5) 23 16
          total := fld (w 4) 63 32, next := fld (w 4) 31 0, part := 0
          state := fld (w 5) 15 12 - 8, cause := causeOf (fld (w 5) 31 24), born := none
          rseq := none
          stop := if fld (w 5) 63 32 = 0 then none else some (fld (w 5) 63 32 - 1, none)
          before := 1, after := s.now, tctx := t, who, fenceId := 0 }
      let bound := fun (k : Crew) => match k.queues.get? x.q with
        | some y => if x.kind ≤ 1 then
            k.queues.put x.q { y with last := some (i, genOf k 2 i) } else k.queues
        | none => k.queues
      (s.setCore c { co with streams := co.streams.put ((freeKey co.streams 4096).getD 0) x }).mapCrew
        c slot fun k => { k with queues := bound k }) s1
  let live := (List.range 128).filter fun i => fld (recWord s pa (0x4200 + 96 * i)) 63 61 != 0
  -- table indexes for the crew's nodes, by crew index
  let free := (List.range 512).filter fun j => ((s2.core c).nodes.get? j).isNone
  let at_ := fun (i : Nat) => free.getD (live.takeWhile fun j => j != i).length 0
  live.foldl (fun s i =>
    let w := fun j => recWord s pa (0x4200 + 96 * i + 8 * j)
    let x : Node :=
      { state := fld (w 0) 63 61, kind := fld (w 0) 60 59, keep := bit (w 0) 58
        pred := fld (w 0) 57 50
        succ := (List.range (fld (w 0) 49 46)).map fun j =>
          at_ (fld (w (1 + j / 4)) (16 * (j % 4) + 8) (16 * (j % 4)))
        slot, idx := i, cause := if fld (w 0) 63 61 = 5 then causeOf (fld (w 0) 23 16) else none
        gen := BitVec.ofNat 16 (fld (w 0) 15 0), payload := (List.range 8).map fun j => w (4 + j)
        armSeq := none, bornSeq := none, links := [], ctx := none, fin := false, orphan := false
        tctx := t, who }
    -- a node whose work was running starts it again from what its context has left
    let y := if x.state = 3 ∧ 2 ≤ x.kind then { x with state := 2 } else x
    s.mapCore c fun co => { co with nodes := co.nodes.put (at_ i) y }) s2

/-! ### The checks of a restore (R373, R379) -/

/-- The completion word of a core's emergency save lies at the end of its 4 MiB (R378). -/
def esBase (s : State) (c : Nat) : Nat := fld s.mod.esctl 63 34 * 2 ^ 30 + c * 0x400000
def completionAt (s : State) (c : Nat) : Nat := esBase s c + 0x3FFFF8
def esSeq (s : State) : Nat := fld s.mod.esctl 24 0

/-- Whether a core's part of the current emergency save is complete. -/
def coreSaved (s : State) (c : Nat) : Bool :=
  recWord s (completionAt s c) 0 == doneWord (esSeq s)

/-- Whether a core's header lists a record with a launch tag (R378; the list is the model's, log
entry 48). -/
def headerHas (s : State) (c tag : Nat) : Bool :=
  (List.range 32).any fun i =>
    let w := recWord s (esBase s c) (8 * i)
    bit w 63 && fld w 47 32 == tag

/-- SAVE_INCOMPLETE: a record of an emergency save is restored only if every core that held a crew
of its launch has completed the current save (R379). -/
def saveBroken (s : State) (pa : Nat) : Bool :=
  let done := recWord s pa 248
  let tag := fld (recWord s pa 16) 63 48
  fld done 31 0 != 0 &&
    (fld done 31 0 != esSeq s || (List.range Config.cores).any fun c =>
      (headerHas s c tag || decide (esBase s c ≤ pa ∧ pa < esBase s c + 0x400000)) && !coreSaved s c)

/-- The launch whose tag a record names and in whose rectangle a place lies. -/
def launchFor (s : State) (pa place : Nat) : Option (Nat × Launch) :=
  let tag := fld (recWord s pa 16) 63 48
  s.mod.launches.cells.find? fun p => pkTag p.2.post.packet == tag &&
    (rectOf (p.2.post.packet.getD 0 0)).has place

/-- The first check of R373 that a restore fails, with its status. -/
def loadStatus (s : State) (pa place : Nat) : Option Nat :=
  let foot := recWord s pa 8
  let w0 := recWord s pa 0
  if fld w0 63 32 ≠ 0x43535652 ∨ fld w0 31 16 ≠ 1 ∨ fld w0 15 0 ≠ recordBytes foot / 4096 ∨
      fld (recWord s pa 248) 63 32 ≠ 0x434F4D50 then some 0x19
  else if saveBroken s pa then some 0x1A
  else if footStatus foot = some 0x12 then some 0x12
  else if (launchFor s pa place).isNone || (placeCore s place).isNone then some 0x16
  else none

/-! ### A crew restored (R267, R373) -/

/-- The engine work of a crew that is between two cores. -/
structure EngLoad where
  who : Nat × BitVec 32
  ctxs : List (Nat × Ctx)
  streams : List (Nat × Stream)
  nodes : List (Nat × Node)

/-- The engine work of a crew leaves a core (R267). -/
def engineLeave (s : State) (a : Nat) (who : Nat × BitVec 32) : State × EngLoad :=
  let co := s.core a
  let ctxs := co.ctxs.cells.filter fun p => p.2.who == who
  ((ctxs.foldl (fun s p => dropCurrent s a p.1 p.2) s).mapCore a fun co =>
    { co with ctxs := co.ctxs.keep fun _ (x : Ctx) => x.who != who
              streams := co.streams.keep fun _ (x : Stream) => x.who != who
              nodes := co.nodes.keep fun _ (x : Node) => x.who != who },
   { who, ctxs, streams := co.streams.cells.filter fun p => p.2.who == who
     nodes := co.nodes.cells.filter fun p => p.2.who == who })

/-- It enters another: what finds no free entry of a pool or of the node table follows its crew outside
them (R267; log entry 49). -/
def engineEnter (s : State) (b slot : Nat) (e : EngLoad) : State :=
  let freeN := (List.range 1024).filter fun j => ((s.core b).nodes.get? j).isNone
  let at_ := fun (i : Nat) => freeN.getD ((e.nodes.map (·.1)).takeWhile fun j => j != i).length 1024
  let ordered := (List.range 64).filterMap fun i => e.ctxs.find? fun p => p.2.idx == i
  -- contexts of nodes have no index of their own that is free, and keep their order
  let rest := e.ctxs.filter fun p => !ordered.contains p
  let s2 := (ordered ++ rest).foldl (fun (s : State) p =>
    let co := s.core b
    let key := match freeKey co.ctxs 256 with
      | some i => i
      | none => ((List.range 4096).find? fun i => 256 ≤ i && (co.ctxs.get? i).isNone).getD 256
    let x := { p.2 with slot, granted := false, asked := false, node := p.2.node.map at_ }
    s.setCore b { co with ctxs := co.ctxs.put key x }) s
  let s3 := e.streams.foldl (fun (s : State) p => s.mapCore b fun co =>
    { co with streams := co.streams.put ((freeKey co.streams 4096).getD 0) { p.2 with slot } }) s2
  let ctxKey := fun (s : State) (x : Node) => x.ctx.bind fun q =>
    (e.ctxs.find? fun p => p.1 == q).bind fun p => (ctxOf (s.core b) e.who p.2.idx).map (·.1)
  e.nodes.foldl (fun (s : State) p =>
    let x := { p.2 with slot, succ := p.2.succ.map at_, ctx := ctxKey s p.2 }
    s.mapCore b fun co => { co with nodes := co.nodes.put (at_ p.1) x }) s3

/-- The engine work of a crew moved to another core. -/
def moveEngine (s : State) (a b slot : Nat) (who : Nat × BitVec 32) : State :=
  let (s1, e) := engineLeave s a who
  engineEnter s1 b slot e

/-- The engine work of a crew that is back on its core, under its slot. -/
def ownEngine (s : State) (c slot : Nat) (who : Nat × BitVec 32) : State :=
  s.mapCore c fun co =>
    { co with
      ctxs := co.ctxs.mapKV fun _ (x : Ctx) => if x.who == who then { x with slot } else x
      streams := co.streams.mapKV fun _ (x : Stream) => if x.who == who then { x with slot } else x
      nodes := co.nodes.mapKV fun _ (x : Node) => if x.who == who then { x with slot } else x
      units := co.units.map fun u => if unitWho co u == who then { u with slot } else u }

/-- A trapped fibre whose record is to be delivered again. -/
def redeliver (f : Fibre) : Fibre :=
  match f.st with
  | .trapped t => { f with st := .trapped { t with delivered := false } }
  | _ => f

/-- What the Keeper that evicted a crew has kept for it, laid over what its record gives (R369). -/
def withKept (e : Evicted) (k : Crew) : Crew :=
  let x := e.crew
  { k with
    fibres := x.fibres.mapKV fun _ f => redeliver f
    rdvs := x.rdvs, queues := x.queues, gens := x.gens, bars := x.bars, groups := x.groups
    ib := x.ib, mb := x.mb, yield := x.yield, wdFrac := x.wdFrac, wdSaid := x.wdSaid, wdPast := x.wdPast
    storms := x.storms, pressure := x.pressure, pendC := x.pendC, pendAt := x.pendAt, stopAll := x.stopAll
    scratch := e.late.cells.foldl (fun t p => t.put p.1 p.2) k.scratch }

/-- Where the Keeper of a core keeps the crew of a record. -/
def keptAt (s : State) (pa : Nat) : Option (Nat × Evicted) :=
  s.cores.cells.findSome? fun (c, co) =>
    ((co.evicted.find? fun e => e.addr.toNat == pa &&
      e.crew.number == (recWord s pa 16).setWidth 32 &&
      (launchFor s pa e.place).any fun p => p.1 == e.crew.tenant)).map fun e => (c, e)

/-- A crew enters a core from its record. -/
def enterRecord (s : State) (c pa place tenant : Nat) (l : Launch) (at_ : Spot) : State :=
  let k0 := readCrew s pa tenant place l (fld (s.core c).qwin 15 0) at_
  let kept := keptAt s pa
  let k := match kept with
    | some (_, e) => withKept e k0
    | none => withNext s c { k0 with rdvs := readRdvs s c pa k0 }
  let who := crewId k
  let s1 := match kept with
    | some (a, _) => s.mapCore a fun co =>
        { co with evicted := co.evicted.filter fun e => crewId e.crew != who }
    | none => s
  let s2 := s1.mapLaunch tenant fun l =>
    if l.alive.contains k.number then l else { l with alive := l.alive ++ [k.number] }
  let s3 := enterCore s2 c at_.slot k
  let s4 := match kept with
    | some (a, _) => if a = c then ownEngine s3 c at_.slot who else moveEngine s3 a c at_.slot who
    | none => readEngine s3 c at_.slot pa k
  lateArrivals (refillRecs s4 c at_.slot) c at_.slot

/-- Whether the engine of the core that keeps an evicted crew still stages a unit of it: a crew
that goes to another core waits for them (R267). -/
def keptBusy (s : State) (pa c : Nat) : Bool :=
  (keptAt s pa).any fun (a, e) => a != c &&
    (s.core a).units.any fun u => unitWho (s.core a) u == crewId e.crew

/-- The footprint of a record that waits for room on a core, or waits no more (R233, R373). -/
def wantFoot (s : State) (c pa : Nat) (foot : Option W64) : State :=
  s.mapCore c fun co =>
    if foot.any fun f => co.wants.contains (pa, f) then co
    else { co with wants := (co.wants.filter fun p => p.1 != pa) ++ (foot.map fun f => (pa, f)).toList }

/-- A restore onto a place (R373): a failed check writes its status, a footprint that does not fit
waits; the answer says whether the request is over. -/
def loadCrew (s : State) (place pa : Nat) : State × Bool :=
  let s1 := match placeCore s place with | some c => wantFoot s c pa none | none => s
  let s0 := homeGather s1 pa (recordBytes (recWord s pa 8))
  match loadStatus s0 pa place with
  | some code => (homePuts s0 (pa + 240) (toBytes 8 code), true)
  | none =>
    match launchFor s0 pa place, placeCore s0 place with
    | some (tenant, l), some c =>
      if keptBusy s0 pa c then (s, false)
      else match placeSpot s0 c (recWord s0 pa 8) with
        | some at_ => (enterRecord s0 c pa place tenant l at_, true)
        | none => (wantFoot s c pa (some (recWord s0 pa 8)), false)
    | _, _ => (s1, true)

end Sys2Proof.Machine
end

