-- ==== Sys2Proof/Machine/Move.lean ====
section
/-! DEFINITION. Pre-emption and migration (R368 to R379): blocking points, evictions and restores,
dependants that give way (R300), launch records, core moves and the emergency save. -/
namespace Sys2Proof.Machine
open Sys2Proof

/-! ### Blocking points (R368) -/

/-- Whether a live fibre is trapped, parked or waits for a reason at which its crew may be taken. -/
def blocksHere (s : State) (c slot : Nat) (k : Crew) (lane : Nat) (f : Fibre) : Bool :=
  match f.st with
  | .trapped _ => true
  | .blocked .halt | .blocked (.head ..) | .blocked .gang => false
  | .blocked _ => true
  | .stopped => k.yield == .complete
  | .running => remoteWait s c slot k lane
  | .binned | .quitting => false

/-- A crew at a blocking point. -/
def atBlockingPoint (s : State) (c slot : Nat) (k : Crew) : Bool :=
  !insideClause s c slot && (k.yield == .complete ||
    (liveFibres k).all fun p => blocksHere s c slot k p.1 p.2)

/-- Whether nothing of a crew is left that has to clear before it leaves its core (R241, R369): its
region has cleared or stands at its head, and its effects have left the lodge. -/
def quietToLeave (s : State) (c slot : Nat) (k : Crew) : Bool :=
  let co := s.core c
  (k.region.all fun g => g.again == 1) && !inMatrixQueue co slot && countersZero k &&
    co.lodge.all (fun e => e.slot != slot) && !insideClause s c slot

/-- The fibres of a crew that leaves: whatever stood in a bin or before a clause stands at it. -/
def atRest (k : Crew) : Crew := { k with fibres := k.fibres.mapKV fun _ f => ckFibre f }

/-! ### Eviction and restore (R369) -/

/-- The end of an eviction: the record, its DONE word, and the footprint. -/
def evictNow (s : State) (c slot : Nat) (k : Crew) (pa : Nat) : State :=
  let s1 := pullCrew s c slot
  let k := atRest k
  let s2 := writeRecord s1 c slot k false pa (doneWord 0)
  let place := (coreOfPlace? s2 c).getD k.place.toNat
  let e : Evicted :=
    { crew := { k with gang := 0, still := false, move := none, region := none }, late := .empty
      addr := BitVec.ofNat 56 pa, place, wake := false }
  (leaveCore s2 c slot).mapCore c fun co => { co with evicted := co.evicted ++ [e] }

/-- Whether a fibre of a crew waits for another module or the host. -/
def anyRemote (s : State) (c slot : Nat) (k : Crew) : Bool :=
  (liveFibres k).any fun p => p.2.st == FibSt.running && remoteWait s c slot k p.1

/-- A request to save the crew in a slot goes as far as it can; the answer says whether it is over
(R369). A crew that has gone leaves nothing to save. -/
def saveCrew (s : State) (c slot pa : Nat) : State × Bool :=
  match s.crew? c slot with
  | none => (s, true)
  | some k =>
    if anyRemote s c slot k && atBlockingPoint s c slot k then
      ((restartOnly s c [slot] false).mapCrew c slot fun k => { k with still := true }, false)
    else if (k.still || atBlockingPoint s c slot k) && quietToLeave s c slot k then
      (evictNow s c slot k pa, true)
    else (s, false)

/-- Whether the wait of some fibre of an evicted crew has ended (R369). -/
def wakeable (s : State) (c : Nat) (e : Evicted) : Bool :=
  let k := e.crew
  (s.launch? k.tenant).isSome &&
    (if k.yield == .complete then k.ib != 0 && k.mb != 0
     else (liveFibres k).any fun p => match p.2.st with
       | .blocked w => waitOver s c k p.1 w
       | .stopped => true
       | _ => false)

/-- WAKEABLE_RESTORE (R369): the Keeper restores a wakeable crew at its own place. -/
def execWakeableRestore (c i : Nat) (s : State) : Out :=
  match (s.core c).evicted[i]?, coreOfPlace? s c with
  | some e, some p =>
    if wakeable s c e && s.mod.keepers then .next (loadCrew s p e.addr.toNat).1 else .next s
  | _, _ => .next s

/-! ### Dependants that give way (R300) -/

/-- Whether a launch depends, directly or through others, on the launch with a ticket number. -/
def dependsOn (s : State) (l : Launch) (tno : Nat) : Bool :=
  let rec go : Nat → Launch → Bool
    | 0, _ => false
    | n + 1, l =>
      match l.post.pred with
      | none => false
      | some p => p.2.2 == tno || (launchByTicket s p.2.2).any fun q => go n q.2
  go 64 l

/-- Whether a crew is blocked at `gate`: a fibre of it waits there, and none can run on (R300). -/
def atGate (k : Crew) : Bool :=
  let l := liveFibres k
  (l.any fun p => match p.2.st with | .blocked (.gate _) => true | _ => false) &&
    l.all fun p => match p.2.st with | .blocked _ | .trapped _ => true | _ => false

/-- The launches that have a crew waiting for placement on a core where it does not fit: one of their own
crews, or a child in the core's deque. -/
def starved (s : State) (c : Nat) : List Launch :=
  match coreOfPlace? s c with
  | none => []
  | some p => s.mod.launches.vals.filter fun l =>
      ((decide (l.taken < launchCrews l) && (rectOf (l.post.packet.getD 0 0)).has p) ||
        (s.core c).deque.any fun x => (s.launch? x.launch).any fun y => y.post.tno == l.post.tno) &&
        coreOpen s c && coolFits s c l.foot && (spotFor (s.core c) l.foot).isNone

/-- The crew that gives way on a core: blocked at a gate of a waiting launch, with the highest
crew number. -/
def givesWay (s : State) (c : Nat) : Option (Nat × Crew) :=
  let ls := starved s c
  let cand := (s.core c).crews.cells.filter fun p => !isKeeper p.1 && atGate p.2 &&
    (crewLaunch s p.2).any fun q => ls.any fun l => dependsOn s q l.post.tno
  pickBy (fun a b => decide (b.2.number.toNat < a.2.number.toNat)) cand

/-- DEPENDANT_EVICTION (R300): the Keeper asks for the eviction, to a page of its own. -/
def execDependantEviction (c : Nat) (s : State) : Out :=
  match givesWay s c with
  | none => .next s
  | some (slot, _) =>
    if (s.core c).migs.any fun m => match m with | .save x _ => x == slot | _ => false then .next s
    else
      let (s1, id) := freshId s c
      let pa : BitVec 56 := (Config.evictPage id).setWidth 56 <<< 12
      .next (s1.mapCore c fun co => { co with migs := co.migs ++ [.save slot pa] })

/-! ### Launch records (R374) -/

/-- The tenant number under which the crews of a saved launch are kept. -/
def awayTenant (pa : Nat) : Nat := 128 + pa / 4096

/-- Everything that names a launch by its index follows it to another. -/
def retenant (s : State) (old new : Nat) (tctx : W64) : State :=
  let who := fun (w : Nat × BitVec 32) => if w.1 == old then (new, w.2) else w
  let bars := fun (t : Tab BarSt) => t.mapKV fun _ (b : BarSt) => { b with sent := b.released }
  let ev := fun (e : Evicted) => if e.crew.tenant == old then
    { e with crew := { e.crew with tenant := new, bars := bars e.crew.bars } } else e
  let ctx := fun (x : Ctx) => if x.who.1 == old then { x with who := who x.who, tctx } else x
  let str := fun (x : Stream) => if x.who.1 == old then { x with who := who x.who, tctx } else x
  let nod := fun (x : Node) => if x.who.1 == old then { x with who := who x.who, tctx } else x
  { s with cores := s.cores.mapKV fun _ (co : Core) =>
      { co with evicted := co.evicted.map ev, ctxs := co.ctxs.mapKV fun _ x => ctx x
                ghosts := co.ghosts.map fun (k : Crew) => if k.tenant == old then { k with tenant := new } else k
                streams := co.streams.mapKV fun _ x => str x
                nodes := co.nodes.mapKV fun _ x => nod x } }

/-- The children of a launch in the deques, with the place of each deque. -/
def dequeChildren (s : State) (tenant : Nat) : List (Nat × Child) :=
  (s.cores.cells.map fun (c, co) =>
    (co.deque.filter fun x => x.launch == tenant).map fun x =>
      ((coreOfPlace? s c).getD 0, x)).flatten

/-- A child's budgets with the changes that reached it before its placement (R346). -/
def childBudget (l : Launch) (x : Child) : Child :=
  (l.grants.filter fun g => g.1 == x.number).foldl (fun x g =>
    let f := fun (b : BitVec 48) =>
      if g.2.2.1 then BitVec.ofNat 48 g.2.2.2.toNat
      else BitVec.ofNat 48 (min (b.toNat + g.2.2.2.toNat) (2 ^ 48 - 1))
    if g.2.1 then { x with mb := f x.mb } else { x with ib := f x.ib }) x

/-- The bytes of a launch record (R374); words 0x060 to 0x078 and the list of the crews that have
not ended, which follows the children, are the model's (log entry 48). -/
def launchFields (s : State) (tenant : Nat) (l : Launch) : List (Nat × Byte) :=
  let q := rectOf (l.post.packet.getD 0 0)
  let cs := dequeChildren s tenant
  let dep := fun (g : Nat) => ((l.bdep.cells.filter fun p => p.1 / 4096 == g).map (·.2)).sum
  let child := fun (i : Nat) (p : Nat × Child) =>
    let x := childBudget l p.2
    fieldWords (0x1000 + 48 * i)
      [BitVec.ofNat 64 (x.number.toNat + x.depth * 2 ^ 32), x.entry.setWidth 64, x.sparg,
        x.ib.setWidth 64, x.mb.setWidth 64, placeOffset q p.1]
  let alive := l.alive.filter fun n => !cs.any fun p => p.2.number == n
  let base := 0x1000 + 48 * cs.length
  fieldWords 0 ((List.range 8).map fun i => l.post.packet.getD i 0) ++
  fieldWords 0x40 [BitVec.ofNat 64 (l.taken + l.childs * 2 ^ 32), l.gate.setWidth 64,
    BitVec.ofNat 64 (pkPred l.post.packet), BitVec.ofNat 64 tenant,
    BitVec.ofNat 64 (l.post.pasid.toNat * 2 ^ 44 + l.post.qnum.toNat * 2 ^ 32 + l.post.recent),
    BitVec.ofNat 64 l.post.cb, BitVec.ofNat 64 l.post.tno,
    BitVec.ofNat 64 (cs.length + alive.length * 2 ^ 32)] ++
  fieldWords 0x80 ((List.range 16).map fun i =>
    ((l.tk.get? i).map fun t => t.next.setWidth 64).getD 0) ++
  (l.groups.cells.map fun (g, x) => if g = 255 then [] else
    field (0x800 + 8 * g) 8 (x.episode.toNat * 2 ^ 32 + x.departed.toNat + dep g)).flatten ++
  field 0xFF8 8 (doneWord 0).toNat ++
  ((List.range cs.length).map fun i => match cs[i]? with
    | some p => child i p
    | none => []).flatten ++
  ((List.range alive.length).map fun i => field (base + 4 * i) 4 (alive.getD i 0).toNat).flatten

/-- `mig.lsave` at its release (R374): the launch leaves the active-launch table. -/
def lsaveApply (s : State) (tenant pa : Nat) : State :=
  match s.launch? tenant with
  | none => s
  | some l =>
    if launchResident s tenant then s
    else
      let fs := launchFields s tenant l
      let size := roundUp (0x1000 + 48 * (dequeChildren s tenant).length + 4 * l.alive.length) 4096
      let s1 := homeImage s pa size fs
      let s2 := { s1 with cores := s1.cores.mapKV fun _ (co : Core) =>
        { co with deque := co.deque.filter fun x => x.launch != tenant } }
      let s3 := s2.mapMod fun m => { m with launches := m.launches.del tenant }
      retenant s3 tenant (awayTenant pa) l.tctx

/-- The rectangle word of a packet with a new origin, the extents kept (R374). -/
def movedRect (w : W64) (d x y : Nat) : W64 :=
  let q := rectOf w
  let d1 := d + (q.d1 - q.d0)
  let x1 := x + (q.x1 - q.x0)
  let y1 := y + (q.y1 - q.y0)
  setFld (setFld (setFld (setFld (setFld (setFld w 17 16 d) 19 18 d1) 22 20 x) 25 23 x1)
    28 26 y) 31 29 y1

/-- Whether a rectangle with a new origin leaves the module. -/
def rectOut (w : W64) (d x y : Nat) : Bool :=
  let q := rectOf w
  decide (3 < d + (q.d1 - q.d0)) || decide (7 < x + (q.x1 - q.x0)) || decide (7 < y + (q.y1 - q.y0))

/-- The launch that a record describes, from the launch its packet gives. -/
def readLaunch (s : State) (pa : Nat) (l : Launch) : Launch :=
  let w := fun (i : Nat) => recWord s pa (0x40 + 8 * i)
  let n := fld (w 7) 31 0
  let base := 0x1000 + 48 * n
  let kids := (List.range n).map fun i => (recWord s pa (0x1000 + 48 * i)).setWidth 32
  let alive := (List.range (fld (w 7) 63 32)).map fun i =>
    BitVec.ofNat 32 (homeWord s (pa + base + 4 * i) 4)
  let crews := launchCrews l
  { l with
    taken := fld (w 0) 31 0, childs := fld (w 0) 63 32, gate := (w 1).setWidth 16
    alive := alive ++ kids
    given := (List.range (fld (w 0) 63 32 - crews)).map fun i => BitVec.ofNat 32 (crews + i)
    tk := ⟨(List.range 16).map fun i => (i, ⟨(recWord s pa (0x80 + 8 * i)).setWidth 32, []⟩)⟩
    groups := l.groups.mapKV fun g (x : Group) =>
      let v := if g = 255 then 0 else recWord s pa (0x800 + 8 * g)
      { x with episode := BitVec.ofNat 32 (fld v 63 32), departed := v.setWidth 32 } }

/-- A launch enters under an index, and its children the deques they came from (R374). -/
def enterLaunch (s : State) (pa i : Nat) (l : Launch) : State :=
  let n := fld (recWord s pa 0x78) 31 0
  let q := rectOf (l.post.packet.getD 0 0)
  let s1 := s.mapMod fun m => { m with launches := m.launches.put i l }
  let s2 := retenant s1 (awayTenant pa) i l.tctx
  (List.range n).foldl (fun s j =>
    let w := fun k => recWord s pa (0x1000 + 48 * j + 8 * k)
    let x : Child :=
      { launch := i, number := (w 0).setWidth 32, depth := fld (w 0) 63 32
        entry := (w 1).setWidth 56, sparg := w 2, ib := (w 3).setWidth 48, mb := (w 4).setWidth 48 }
    let place := 64 * (q.d0 + fld (w 5) 10 8) + 8 * (q.y0 + fld (w 5) 7 4) + q.x0 + fld (w 5) 3 0
    match placeCore s place with
    | some c => s.mapCore c fun co => { co with deque := co.deque ++ [x] }
    | none => s) s2

/-- A request to re-enter a launch (R374): refused with CONTEXT, SAVE_INCOMPLETE or RECT, or
another status that its packet gives; it waits for an entry of the active-launch table. -/
def lloadApply (s : State) (d x y pa : Nat) : State × Bool :=
  let s0 := homeGather s pa 4096
  let n := recWord s0 pa 0x78
  let s0 := homeGather s0 pa (roundUp (0x1000 + 48 * fld n 31 0 + 4 * fld n 63 32) 4096)
  let w := recWord s0 pa 0x60
  let w0 := recWord s0 pa 0
  let packet := movedRect w0 d x y :: (List.range 7).map fun i => recWord s0 pa (8 * (i + 1))
  let p : Posted :=
    { packet, pasid := w.extractLsb' 44 20, qnum := w.extractLsb' 32 12
      cb := (recWord s0 pa 0x68).toNat, recent := fld w 31 0, tno := (recWord s0 pa 0x70).toNat
      pred := none, node := none, fromCrew := none, va := 0 }
  let pred := if p.cb = 0 || !pkDep packet then none
    else (recentTag s0 p.cb (pkPred packet)).bind fun i =>
      (s0.mod.recents.get? (recentKey p.cb i)).map fun n => (p.cb, i, n)
  let p := { p with pred }
  let done := recWord s0 pa 0xFF8
  if cbTaken s0 p.cb then (s, false)
  else if fld done 63 32 ≠ 0x434F4D50 then (refuseLaunch s0 p 0x19, true)
  else if fld done 31 0 ≠ 0 ∧ (fld done 31 0 ≠ esSeq s0 ∨ ((List.range Config.cores).any fun c =>
      headerHas s0 c (pkTag packet) && !coreSaved s0 c) = true) then (refuseLaunch s0 p 0x1A, true)
  else if rectOut w0 d x y then (refuseLaunch s0 p 0x16, true)
  else match launchChecks s0 p with
    | .error code => (refuseLaunch s0 p code, true)
    | .ok l =>
      match (List.range 64).find? fun i => (s0.launch? i).isNone with
      | some i => (enterLaunch s0 pa i (readLaunch s0 pa l), true)
      | none => (s, false)

/-! ### The requests of a Keeper -/

/-- The i-th request of a core's Keeper goes as far as it can. -/
def serveMig (s : State) (c i : Nat) : State :=
  match (s.core c).migs[i]? with
  | none => s
  | some m =>
    let (s1, over_) := match m with
      | .save slot pa => saveCrew s c slot pa.toNat
      | .load place pa => loadCrew s place pa.toNat
      | .enter d x y pa => lloadApply s d x y pa.toNat
    if over_ then s1.mapCore c fun co => { co with migs := co.migs.eraseIdx i } else s1

/-! ### Core moves (R377) -/

/-- Every crew of a core is marked for a move. -/
def markMove (s : State) (c other : Nat) : State :=
  let at_ := s.now + fld (s.core c).thctl 15 0 * 1024
  s.mapCore c fun co =>
    { co with
      moving := some (other, s.now)
      crews := co.crews.mapKV fun x (k : Crew) =>
        if isKeeper x then k else { k with move := some at_ } }

/-- A move of a core to a place begins, unless a move or a save is in progress on either core. -/
def startMove (s : State) (c place : Nat) : State :=
  match placeCore s place with
  | none => s
  | some t =>
    if t = c ∨ moveBusy (s.core c) = true ∨ moveBusy (s.core t) = true then s
    else markMove (markMove s c t) t c

/-- The crews of a core run on after a move, or after one that is abandoned. -/
def endMove (s : State) (c : Nat) : State :=
  let s1 := s.mapCore c fun co =>
    { co with moving := none
              crews := co.crews.mapKV fun _ (k : Crew) => { k with move := none, still := false } }
  (s1.core c).crews.keys.foldl (fun s x => unstop s c x) s1

/-- What R345 (step 2) does to every live fibre of a crew: it goes to `%cont`, a parked fibre's
fault is forgotten, and rendezvous and gang arrivals and waits at issue are withdrawn. -/
def toCont (s : State) (c slot : Nat) : State :=
  let s1 := pullCrew s c slot
  let go := fun (cont : W64) (f : Fibre) =>
    let pc : BitVec 56 := cont.setWidth 56
    match f.st with
    | .trapped t =>
      if t.parks then { f with pc, rpos := 0, rlat := .empty, paid := false, st := .stopped }
      else { f with pc, rpos := 0, rlat := .empty, paid := false
                    st := .trapped { t with res := pc, pos := 0, lat := .empty, next := pc
                                            was := none } }
    | _ => { f with pc, rpos := 0, rlat := .empty, paid := false, st := .stopped }
  (s1.mapCrew c slot fun k =>
    { k with fibres := k.fibres.mapKV fun _ f => go k.cont f, rdvs := [], woken := none }).mapCore c fun co =>
      let gone := fun (x : TrapRec) => x.slot == slot && x.cls == 1 && decide (x.cause.code < 0x48)
      { co with traps := co.traps.filter fun x => !gone x
                trapWait := co.trapWait.filter fun x => !gone x }

/-- MOVE_FORCE (R377): a crew that has not stopped in time is forced at its clause boundary. -/
def execMoveForce (c slot : Nat) (s : State) : Out :=
  match s.crew? c slot with
  | none => .next s
  | some k =>
    if k.move.any (fun t => decide (t ≤ s.now)) && !k.still && !insideClause s c slot then
      .next ((toCont s c slot).mapCrew c slot fun k => { k with still := true })
    else .next s

/-- A marked crew that is at a blocking point stops there (R377). -/
def stopMarked (s : State) (c : Nat) : State :=
  (s.core c).crews.cells.foldl (fun s (x, k) =>
    if k.move.isSome && !k.still && atBlockingPoint s c x k then
      stopFibres (s.mapCrew c x fun k => { k with still := true }) c x
    else s) s

/-- Whether a core is ready for the exchange: every crew has stopped and cleared, its effects have
reached their homes, and the engine has released its units. -/
def readyToSwap (s : State) (c : Nat) : Bool :=
  let co := s.core c
  co.units.isEmpty && !netBusy s c && co.fills.isEmpty &&
    (co.crews.cells.all fun p => isKeeper p.1 || (p.2.still && quietToLeave s c p.1 p.2))

/-- The records of a crew in a fresh share, in record order (R239). -/
def freshRecs (k : Crew) : Tab Rec :=
  ((List.range 32).foldl (fun (p : Tab Rec × Nat) i =>
    match k.recs.get? i with
    | none => p
    | some r => (p.1.put i { ckRec r with first := p.2 }, p.2 + r.count)) (.empty, k.obase)).1

/-- A crew as it runs on after a move: as a restore makes it, where it lay (R104, R227, R239,
R240, R373). -/
def movedCrew (now : Nat) (k : Crew) : Crew :=
  let regs : Tab W32 := ⟨((List.range 32).map fun g =>
    (regCopy k g).cells.filter fun p => p.1 / 512 == g).flatten⟩
  let accs : Tab W32 := ⟨((List.range 64).map fun b =>
    ((if bit k.acur b then k.acc1 else k.acc0).cells.filter fun p => p.1 / 1024 == b)).flatten⟩
  let region := k.region.bind fun g =>
    if g.replay.isSome then some { g with close := now } else none
  { atRest k with
    reg0 := regs, reg1 := .empty, cur := 0, dirty := 0, acc0 := accs, acc1 := .empty, acur := 0
    adirty := 0, recs := freshRecs k, rseq := k.rseq + 1, region, opening := 2
    wsig := 0, asig := 0, wsat := true, asat := true, gang := 0, gkeys := []
    fibres := (atRest k).fibres.mapKV fun _ f => redeliver f
    restartAt := 0, move := none, still := false }

/-- The records of a core's crews, one after another behind the core header (R378), each with its
slot, its offset and its crew. -/
def recordList (co : Core) : List (Nat × Nat × Crew) :=
  ((guests co).foldl
    (fun (p : Nat × List (Nat × Nat × Crew)) q =>
      (p.1 + recordBytes q.2.foot, p.2 ++ [(q.1, p.1, q.2)])) (4096, [])).2

/-- The records of a core's crews written into its part of the emergency area. -/
def writeRecords (s : State) (c seq : Nat) : State :=
  (recordList (s.core c)).foldl (fun s (slot, off, k) =>
    writeRecord s c slot k true (esBase s c + off) (doneWord seq)) s

/-- Launches posted by a node or a crew of a core that moves follow it. -/
def followPost (f g : Nat → Nat → Nat × Nat) (p : Posted) : Posted :=
  { p with node := p.node.map fun x => f x.1 x.2
           fromCrew := p.fromCrew.map fun x => g x.1 x.2 }

/-- The place entries n and m swapped, and everything of two cores that belongs to their places
exchanged: crews, each in the lowest-numbered slot that is free when it enters (R35), their engine work,
which leaves both cores before it enters the other (R267), rings, deques, and the crews that the Keepers
have evicted. -/
def swapCores (s : State) (c t : Nat) : State :=
  let a := s.core c
  let b := s.core t
  let keep := fun (co : Core) => co.crews.keep fun x _ => isKeeper x
  let go := fun (co : Core) => (guests co).zipIdx.map fun p => (p.2, movedCrew s.now p.1.2)
  let join := fun (x y : Core) => (go y).foldl (fun (m : Tab Crew) p => m.put p.1 p.2) (keep x)
  let live := fun (x : TrapRec) => x.slot == Config.keeperSlot || decide (0x60 ≤ x.cause.code)
  let side := fun (x y : Core) =>
    { x with crews := join x y, rings := y.rings, deque := y.deque, evicted := y.evicted
             bins := x.bins.keep fun _ q => q.tenant == Config.noTenant
             traps := x.traps.filter live, trapWait := x.trapWait.filter live }
  let ids := fun (co : Core) => ((go co).map fun p => (p.1, crewId p.2)) ++
    co.evicted.map fun e => (0, crewId e.crew)
  let s1 := (s.setCore c (side a b)).setCore t (side b a)
  let leave := fun (q : State × List (Nat × EngLoad)) (core : Nat) (p : Nat × Nat × BitVec 32) =>
    let (s, e) := engineLeave q.1 core p.2
    (s, q.2 ++ [(p.1, e)])
  let (s2, fromA) := (ids a).foldl (fun q p => leave q c p) (s1, [])
  let (s2, fromB) := (ids b).foldl (fun q p => leave q t p) (s2, [])
  let enter := fun (s : State) (core : Nat) (l : List (Nat × EngLoad)) =>
    l.foldl (fun s p => engineEnter s core p.1 p.2) s
  let s3 := enter (enter s2 t fromA) c fromB
  let fill := fun (s : State) (x : Nat) =>
    (s.core x).crews.keys.foldl (fun s k => if isKeeper k then s else refillRecs s x k) s
  let new := fun (core n : Nat) =>
    if core ≠ c ∧ core ≠ t then (core, n)
    else match (if core = c then a else b).nodes.get? n with
      | none => (core, n)
      | some x => match nodeOf (s3.core (if core = c then t else c)) x.who x.idx with
        | some (i, _) => (if core = c then t else c, i)
        | none => (core, n)
  let other := fun (core slot : Nat) =>
    if core = c then (t, ((guests a).map (·.1)).idxOf slot)
    else if core = t then (c, ((guests b).map (·.1)).idxOf slot) else (core, slot)
  let f := followPost new other
  (fill (fill s3 c) t).mapMod fun m =>
    { m with tickets := m.tickets.map fun p => (p.1, f p.2), barred := m.barred.map f
             pendIn := m.pendIn.map fun (l : Launch) => { l with post := f l.post }
             launches := m.launches.mapKV fun _ (l : Launch) => { l with post := f l.post } }

/-- MOVE_TRANSFER (R377, steps 3 and 4): both cores are at rest; their crews' records are written,
the crews exchanged and the place entries swapped in one step. -/
def execMoveTransfer (c : Nat) (s : State) : Out :=
  match (s.core c).moving with
  | none => .next s
  | some (t, _) =>
    if !readyToSwap s c || !readyToSwap s t then .next s
    else match coreOfPlace? s c, coreOfPlace? s t with
      | some n, some m =>
        let pull := fun (s : State) (x : Nat) =>
          ((s.core x).crews.keys.filter fun k => !isKeeper k).foldl (fun s k =>
            dissolveGang (pullCrew s x k) x k) s
        let s1 := pull (pull s c) t
        let s2 := writeRecords (writeRecords s1 c 0) t 0
        let s3 := swapPlaces (swapCores s2 c t) n m
        let had := fun (s : State) (x : Nat) => coreTenants (s.core x)
        let ready := fun (s1 : State) (x : Nat) =>
          let s2 := reheat (s1.mapCore x l1Keep) x
          endMove (if had s2 x = had s x then s2 else slotAssign s2 x) x
        .next (ready (ready s3 c) t)
      | _, _ => .next (endMove (endMove s c) t)

/-! ### The emergency save (R378, R379) -/

/-- A move of a core is abandoned (R377). -/
def dropMove (s : State) (c : Nat) : State :=
  match (s.core c).moving with
  | none => s
  | some (t, _) => endMove (endMove s c) t

/-- The management core starts an emergency save: the sequence number rises, the count starts
again, moves and waiting power changes are abandoned (R421) and every core is signalled. -/
def startSave (s : State) : State :=
  if s.mod.saving then s
  else
    let s0 := s.cores.keys.foldl dropMove s
    let s1 := s0.clusters.keys.foldl (fun s k => s.mapCluster k fun x => { x with change := none })
      s0
    let s2 := s1.mapMod fun m =>
      { m with saving := true
               esctl := setFld (setFld m.esctl 33 25 0) 24 0 (fld m.esctl 24 0 + 1) }
    ((List.range Config.cores).filter fun c => !s2.mod.bad.contains c &&
        !(s2.core c).halted && !(s2.core c).captured).foldl (fun s c =>
      s.mapCore c fun co => { co with saveSeq := some (esSeq s2) }) s2

/-- Steps 1 to 3 of R378: the completion word is 0, issue and the engine stop, and every uncleared
region and unreleased unit is squashed without a restart. -/
def saveStop (s : State) (c : Nat) : State :=
  let s1 := homePuts s (completionAt s c) (List.replicate 8 0)
  let slots := uncleared s1 c
  let s2 := engineSquash s1 c (regionTags s1 c slots)
  let s3 := slots.foldl (fun s x => squashCrew s c x) s2
  let s4 := ((s3.core c).crews.keys.filter fun x => !isKeeper x).foldl (fun s x =>
    stopFibres (pullCrew s c x) c x) s3
  s4.mapCore c fun co => { co with halted := true }

/-- The core header: one word for each crew record (log entry 48). -/
def saveHeader (s : State) (c : Nat) : List W64 :=
  (recordList (s.core c)).map fun (_, off, k) =>
    let tag := ((crewLaunch s k).map fun l => pkTag l.post.packet).getD 0
    setBit (setFld (BitVec.ofNat 64 off) 47 32 tag) 63 true

/-- Steps 5 to 7 of R378: the records, the core header, the completion word; the clock stops. -/
def saveWrite (s : State) (c seq : Nat) : State :=
  let rest := fun (s : State) => s.mapCore c fun co =>
    { co with crews := co.crews.mapKV fun x (k : Crew) => if isKeeper x then k else atRest k }
  let s1 := writeRecords (rest s) c seq
  let s2 := homeImage s1 (esBase s1 c) 4096 (fieldWords 0 (saveHeader s1 c))
  let s3 := homePuts s2 (completionAt s2 c) (toBytes 8 (doneWord seq).toNat)
  let s4 := s3.mapCore c fun co =>
    { co with saveSeq := none, tickStop := some (co.tickStop.getD s.now) }
  s4.mapMod fun m => { m with esctl := setFld m.esctl 33 25 (fld m.esctl 33 25 + 1) }

/-- EMERGENCY_SAVE (R378): a signalled core stops and squashes; once everything that had been
released has applied at its home, it writes its records. -/
def execEmergencySave (c : Nat) (s : State) : Out :=
  let co := s.core c
  match co.saveSeq with
  | none => .next s
  | some seq =>
    if !co.halted then .next (saveStop s c)
    else if co.lodge.isEmpty && co.units.isEmpty && !netBusy s c then .next (saveWrite s c seq)
    else .next s

end Sys2Proof.Machine
end

