-- ==== Sys2Proof/Machine/World.lean ====
section
/-! DEFINITION. The boundary of the module (R403 to R410, R418 to R422): the device registers that
Keepers and crews write, page requests, the links, messages between domains, power states,
near-threshold, quiesce points, the power-up stagger and the manifold. -/
namespace Sys2Proof.Machine
open Sys2Proof

/-- The device signals the host by MSI-X vector 0 (R403). -/
def msiSend (s : State) : State := s.mapMod fun m => { m with msi := m.msi + 1 }

/-- HOSTSTAT takes a value; a change signals the host (R403, R405). -/
def hoststatSet (s : State) (w : W64) : State :=
  if s.mod.hoststat = w then s else msiSend (s.mapMod fun m => { m with hoststat := w })

/-- Whether the CXL link is up (R405). -/
def linkUp (s : State) : Bool := bit s.mod.hoststat 0

/-! ### Page requests (R406) -/

/-- A write of PRQ word 0 by the Keeper of a core; ignored while BUSY. -/
def prqPut (s : State) (c : Nat) (w : W64) : State :=
  if (s.core c).prqBusy then s
  else s.mapCore c fun co => { co with prqBusy := true, prqReq := w, prqAt := usOf s.now }

/-- PRQ_WRITE (R406). -/
def execPrqWrite (c : Nat) (w : W64) (s : State) : Out := .next (prqPut s c w)

/-- Why a fibre needs the host for a page, with the virtual address: TRANSLATION, or FETCH_FAULT
of subcause 0, once delivered (R367). -/
def pageWant (f : Fibre) : Option (Nat × Bool) :=
  match f.st with
  | .trapped t =>
    if !t.delivered then none
    else if t.cause = .translation then some (t.data.toNat, t.wr)
    else if t.cause = .fetchFault ∧ t.sub = 0 then some (t.data.toNat, false)
    else none
  | _ => none

/-- PRQ word 0 for a page of an address space. -/
def prqWordFor (pasid : BitVec 20) (va : Nat) (wr : Bool) : W64 :=
  setFld (setBit (setFld (BitVec.ofNat 64 (va / 65536 % 2 ^ 40)) 63 44 pasid.toNat) 43 wr) 42 40 0

/-- The pages that a core's trapped fibres wait for, in order of the slot and the lane, then those
of the crews that its Keeper has evicted. -/
def pagesWanted (s : State) (c : Nat) : List W64 :=
  let co := s.core c
  let one := fun (slot : Nat) (k : Crew) => (liveFibres k).filterMap fun p =>
    (pageWant p.2).map fun x => prqWordFor (tctxPasid (tctxOf s slot k)) x.1 x.2
  ((guests co).map fun p => one p.1 p.2).flatten ++ (co.evicted.map fun e => one 0 e.crew).flatten

/-- The Keeper forwards the next request of its core (R367). -/
def nextRequest (s : State) (c : Nat) : State :=
  if (s.core c).prqBusy then s
  else match pagesWanted s c with
    | w :: _ => prqPut s c w
    | [] => s

/-! ### The CXL link (R405) -/

/-- CXL_LINK_CHANGE (R405): the link trains or goes down; a link that comes up releases the batches
that waited for the host. -/
def execCxlLinkChange (up : Bool) (speed : BitVec 4) (width : BitVec 8) (s : State) : Out :=
  let w : W64 := if up then setBit (setFld (setFld 0 15 8 width.toNat) 7 4 speed.toNat) 0 true else 0
  let s1 := hoststatSet s w
  if up then
    .next { s1 with mod := { s1.mod with linkDown := none }
                    runs := s1.runs.map fun r =>
                      if r.hold == some .remote then { r with hold := none, due := s.now } else r }
  else
    .next (s1.mapMod fun m => { m with linkDown := some (m.linkDown.getD (usOf s.now)) })

/-- CXL_LINK_DOWN_TIMEOUT (R405): LINK has been 0 for 1 s. -/
def execCxlLinkDownTimeout (s : State) : Out :=
  match s.mod.linkDown with
  | some t => if t + 1000000 ≤ usOf s.now then .next (startSave s) else .next s
  | none => .next s

/-! ### Caravan (R407 to R410) -/

/-- CARAVAN_PORT_TRAIN (R407, R408, R416): a port that BIST names stays down. -/
def execCaravanPortTrain (port : Nat) (up : Bool) (s : State) : Out :=
  let bad := s.mod.bistFailed.contains (BitVec.ofNat 16 (0x5000 + port))
  if 16 ≤ port then .next s
  else .next (s.mapMod fun m => { m with cvcfg := setBit m.cvcfg port (up && !bad) })

/-- A write of CVCFG: refused whole while any launch is active (R408). -/
def cvcfgPut (s : State) (w : W64) : State :=
  if !s.mod.launches.cells.isEmpty then s
  else s.mapMod fun m =>
    { m with cvcfg := setFld (setFld m.cvcfg 57 48 (fld w 57 48)) 41 32 (fld w 41 32) }

/-- CVCFG_WRITE (R408). -/
def execCvcfgWrite (w : W64) (s : State) : Out := .next (cvcfgPut s w)

/-- A write of MSGTX: ignored while a message is in flight; else the message is read from SRC
(R410). -/
def msgtxPut (s : State) (w : W64) : State :=
  if fld s.mod.msgtx 1 0 = 1 then s
  else
    let src := fld w 39 8 * 256
    let data := homeBytes (homeCollect s src) src 256
    s.mapMod fun m =>
      { m with msgtx := setFld (setFld (setFld (1 : W64) 63 54 (fld w 63 54)) 53 44 (fld w 53 44))
                 39 8 (fld w 39 8)
               msgSend := some data }

/-- MSGTX_WRITE (R410). -/
def execMsgtxWrite (w : W64) (s : State) : Out := .next (msgtxPut s w)

/-- MESSAGE_SEND_DONE (R410): STATUS tells what became of the message. -/
def execMessageSendDone (res : MsgResult) (s : State) : Out :=
  match s.mod.msgSend with
  | none => .next s
  | some data =>
    let code := match res with | .delivered => 0 | .refused => 2 | .noRoute => 3
    .next (s.mapMod fun m =>
      let out := if code = 0 then
          m.outbox ++ [(fld m.msgtx 63 54, fld m.msgtx 53 44, data)]
        else m.outbox
      { m with msgtx := setFld m.msgtx 1 0 code, msgSend := none, outbox := out })

/-- A byte list of a fixed length, filled with zeros. -/
def padBytes (n : Nat) (l : List Byte) : List Byte := (List.range n).map fun i => l.getD i 0

/-- Bytes that a unit of the module writes at their home: copies in the clusters give way, as for
a write of the host (R166). -/
def moduleStore (s : State) (pa : Nat) (bytes : List Byte) : State :=
  let lines := dedup ((List.range bytes.length).map fun i => canonPa s (pa + i) / 256)
  let s1 := lines.foldl (fun s line =>
    let s := s.clusters.keys.foldl (fun s k => l2Drop s k line) s
    s.cores.keys.foldl (fun s c => l1Drop s c fun x => x == line) s) s
  homePuts s1 pa bytes

/-- MESSAGE_ARRIVAL (R410): written at NEXT, or refused with the ring full or absent. -/
def execMessageArrival (bytes : List Byte) (s : State) : Out :=
  let w := s.mod.msgrx
  let next := fld w 11 0
  if fld w 51 20 = 0 ∨ (next + 4096 - fld w 63 52) % 4096 = 4095 then .next s
  else
    let s1 := moduleStore s (fld w 51 20 * 2 ^ 20 + 256 * next) (padBytes 256 bytes)
    .next (s1.mapMod fun m => { m with msgrx := setFld m.msgrx 11 0 ((next + 1) % 4096) })

/-! ### Power (R418 to R421) -/

/-- The deepest state whose exit latency is at most TOL. -/
def deepest (tol : Nat) : Nat :=
  if 5000 ≤ tol then 4 else if 1000 ≤ tol then 3 else if 40 ≤ tol then 2 else if 2 ≤ tol then 1
  else 0

/-- The control blocks that the hash table names (R286). -/
def hostQueues (s : State) : List Nat :=
  let base := s.mod.cbhbase.toNat
  let m := fld (cbRead s base).2 4 0
  if base = 0 ∨ m < 4 ∨ 16 < m then []
  else (List.range (2 ^ m)).filterMap fun i =>
    let at_ := base + 64 + 16 * i
    if fld (cbRead s at_).2 1 0 = 1 then some (fld (cbRead s (at_ + 8)).2 51 9 * 512) else none

/-- Whether no launch is active and every host queue is IDLE (R418). -/
def moduleIdle (s : State) : Bool :=
  s.mod.launches.cells.isEmpty && s.mod.pendIn.isEmpty && s.mod.tickets.isEmpty &&
    s.mod.walkQ.isEmpty && s.mod.walkers.cells.isEmpty &&
    (hostQueues s).all fun cb => cbState s cb == 0

/-- Whether a cluster has a resident crew. -/
def clusterInUse (s : State) (k : Nat) : Bool :=
  s.cores.cells.any fun p => clusterOf p.1 == k && p.2.crews.keys.any fun x => !isKeeper x

/-- A cluster is powered down: dirty L2 sectors are written back, and the contents of its caches
and TLBs are lost. -/
def powerDown (s : State) (k : Nat) : State :=
  let s1 := (s.cluster k).l2.foldl (fun s x => l2Drop s k x.line) s
  let s2 := s1.mapCluster k fun cl => { cl with tlb := [], wcache := [], pstate := 2 }
  (s2.cores.keys.filter fun c => clusterOf c == k).foldl (fun s c =>
    s.mapCore c fun co => { co with tlb := [], l1 := [], icache := [] }) s2

/-- A change of a cluster is asked for; it waits for a quiesce point (R421). Kind 0 enters
near-threshold, 1 leaves it, 2 + p goes to power state p. -/
def askChange (s : State) (k kind : Nat) : State :=
  if (s.cluster k).change.isSome then s
  else s.mapCluster k fun cl => { cl with change := some (kind, s.now), retryAt := s.now }

/-- The state that the controller chooses for the module, and for a cluster. -/
def moduleTarget (s : State) : Nat :=
  let d := deepest (fld s.mod.pwrctl 47 32)
  if moduleIdle s then d else min 2 d
def clusterTarget (s : State) (k : Nat) : Nat :=
  if clusterInUse s k then 0 else min 2 (deepest (fld s.mod.pwrctl 47 32))

/-- The last-level caches written back and off (R418, S4). -/
def llcFlush (s : State) : State :=
  { s with mem := s.llc.cells.foldl (fun m (line, x) => llcBack m line x) s.mem, llc := .empty }

/-- POWER_STATE_CHANGE (R418) of cluster 0 to 31, or of the module: to the state that the
controller chooses. -/
def execPowerStateChange (cluster : Nat) (state : BitVec 3) (s : State) : Out :=
  let p := state.toNat
  if cluster < 32 then
    if p = clusterTarget s cluster ∧ (s.cluster cluster).pstate ≠ state then
      .next (askChange s cluster (2 + p))
    else .next s
  else if p ≠ moduleTarget s ∨ s.mod.pstate = state then .next s
  else
    let s1 := s.mapMod fun m => { m with pstate := state }
    let s2 := if p < 3 then s1
      else (List.range 32).foldl (fun s k =>
        if (s.cluster k).pstate = 2 then s else askChange s k 4) s1
    .next (if p = 4 then llcFlush s2 else s2)

/-- A write of PWRCTL: TOL by the host, the other fields by the Keeper of die 0; refused whole for
STAG outside 5 to 255 (R403, R419). -/
def pwrctlPut (s : State) (by_ : Requester) (w : W64) : State :=
  if fld w 23 16 < 5 then s
  else match by_ with
    | .host => s.mapMod fun m => { m with pwrctl := setFld m.pwrctl 47 32 (fld w 47 32) }
    | .keeper c =>
      if c ≠ leadCore s then s
      else s.mapMod fun m =>
        { m with pwrctl := setFld (setFld m.pwrctl 23 16 (fld w 23 16)) 0 0 (fld w 0 0) }
    | .crew => s

/-- PWRCTL_WRITE (R419). -/
def execPwrctlWrite (by_ : Requester) (w : W64) (s : State) : Out := .next (pwrctlPut s by_ w)

/-- Whether a matrix queue of a cluster holds an entry or a vector burst runs there (R421). -/
def clusterBurns (s : State) (k : Nat) : Bool :=
  s.cores.cells.any (fun p => clusterOf p.1 == k && !p.2.mq.isEmpty) ||
    s.runs.any fun r => clusterOf r.core == k && r.burst

/-- Cycles in 64 microseconds. -/
def nearCycles : Nat := 64 * Config.ccPerUs

/-- Whether a cluster may enter near-threshold (R421). -/
def nearDue (s : State) (k : Nat) : Bool :=
  let cl := s.cluster k
  bit s.mod.pwrctl 0 && !cl.near && !clusterBurns s k && decide (cl.idle + nearCycles ≤ s.now) &&
    decide (cl.used < s.now - cl.idle)

/-- NEAR_THRESHOLD_ENTRY (R421). -/
def execNearThresholdEntry (k : Nat) (s : State) : Out :=
  if nearDue s k && (s.cluster k).pstate == 0 then .next (askChange s k 0) else .next s

/-- The measurement of R421 over a cycle that ends: it starts again with a matrix entry or a burst,
and when its time has passed with too many issue slots used. -/
def nearTick (s : State) : State :=
  s.clusters.keys.foldl (fun s k =>
    let cl := s.cluster k
    if clusterBurns s k then
      let s1 := if cl.near then askChange s k 1 else s
      s1.mapCluster k fun cl => { cl with idle := s.now + 1, used := 0 }
    else if cl.idle + nearCycles ≤ s.now ∧ s.now - cl.idle ≤ cl.used then
      s.mapCluster k fun cl => { cl with idle := s.now, used := 0 }
    else s) s

/-- Whether a hold of R421 is in force for a cluster. -/
def quiesceHold (s : State) (k : Nat) : Bool :=
  let cl := s.cluster k
  cl.change.isSome && decide (cl.retryAt ≤ s.now)

/-- Whether nothing is in flight across the boundary of a cluster: no chunk, no fill, no load, no
walk and no message of its cores. -/
def quiesced (s : State) (k : Nat) : Bool :=
  (s.cluster k).misses.isEmpty && s.cores.cells.all fun (c, co) =>
    clusterOf c != k || (!netBusy s c && decide (co.engBusy ≤ s.now) && co.fills.isEmpty &&
      co.ifills.isEmpty && co.crews.vals.all fun x => x.flights.all fun f =>
        f.ready || f.lanes.vals.all fun l => l.req.isNone)

/-- A waiting change is made (R421). -/
def makeChange (s : State) (k kind : Nat) : State :=
  let s1 := s.mapCluster k fun cl => { cl with change := none }
  match kind with
  | 0 => s1.mapCluster k fun cl => { cl with near := true }
  | 1 => s1.mapCluster k fun cl => { cl with near := false, idle := s.now, used := 0 }
  | n =>
    if clusterInUse s k ∧ n ≠ 2 then s1
    else if n = 4 then powerDown s1 k
    else s1.mapCluster k fun cl => { cl with pstate := BitVec.ofNat 3 (n - 2) }

/-- QUIESCE_POINT (R421). -/
def execQuiescePoint (k : Nat) (s : State) : Out :=
  match (s.cluster k).change with
  | some (kind, _) => if quiesceHold s k && quiesced s k then .next (makeChange s k kind) else .next s
  | none => .next s

/-- QUIESCE_TIMEOUT (R421): after 10 microseconds the hold lifts; the next try is 100 later. -/
def execQuiesceTimeout (k : Nat) (s : State) : Out :=
  let cl := s.cluster k
  match cl.change with
  | some (_, since) =>
    if quiesceHold s k && decide (max since cl.retryAt + 10 * Config.ccPerUs ≤ s.now) then
      .next (s.mapCluster k fun cl => { cl with retryAt := s.now + 100 * Config.ccPerUs })
    else .next s
  | none => .next s

/-- The clocks of a core start (R417, R420): not those of a core that is captured, that failed, or
after the trip. -/
def startCore (s : State) (c : Nat) : State :=
  if s.mod.bad.contains c || (s.core c).captured || s.mod.railCut then s
  else s.mapCore c fun co =>
    { co with halted := false, beats := 0, beatSeen := false, beatAt := usOf s.now }

/-- A unit comes up: a core by kind 0, the cores of a cluster by kind 1, which boot holds until the
Keepers start (R411); the others only run. -/
def unitUp (s : State) (unit : Nat) : State :=
  if unit / 4096 = 0 then startCore s (unit % 256)
  else if unit / 4096 = 1 ∧ s.mod.keepers then
    (List.range 8).foldl (fun s j => startCore s (unit % 4096 * 8 + j)) s
  else s

/-- Units to come up, one after another from a time on, in microseconds (R420). -/
def staggerFrom (t step : Nat) (units : List Nat) : List (Nat × Nat) :=
  units.zipIdx.map fun p => (t + (p.2 + 1) * step, p.1)

/-- A zone whose four cores all run after step 7 returns to RUN, and free flow is given out to the
zones that wait for it (R334, R337). -/
def readmit (s : State) (z : Nat) : State :=
  let s1 := mapZone s z fun x =>
    { x with w0 := setFld (setFld (setFld x.w0 39 37 1) 36 34 0) 33 32 0
             w3 := x.w3 &&& ~~~(0x84 : W64), gasNow := false, lowAt := none, hotAt := none }
  serveFlow s1

/-- The cores of a coolant zone in rising order (R13, R331). -/
def zoneCores (z : Nat) : List Nat := (List.range 256).filter fun c => zoneOfCore c == z

/-- POWER_STAGGER_STEP (R420): the next unit comes up. -/
def execPowerStaggerStep (s : State) : Out :=
  match s.mod.stagger with
  | (t, u) :: rest =>
    if usOf s.now < t then .next s
    else
      let s1 := unitUp (s.mapMod fun m => { m with stagger := rest }) u
      let z := zoneOfCore (u % 256)
      let waits := rest.any fun p => decide (p.2 / 4096 = 0) && zoneOfCore (p.2 % 256) == z
      if u / 4096 = 0 ∧ zStep (zoneOfMod s1.mod z) = 7 ∧ !waits then .next (readmit s1 z)
      else .next s1
  | [] => .next s

/-! ### The manifold (R422) -/

/-- MANIFOLD_LEAK (R422). -/
def execManifoldLeak (s : State) : Out :=
  if bit s.mod.modcool 1 then .next s
  else .next (startSave (msiSend (s.mapMod fun m =>
    { m with modcool := setBit m.modcool 1 true, leakAt := some (usOf s.now) })))

/-- Whether an emergency save is over: no core is still writing. -/
def saveOver (s : State) : Bool := s.mod.saving && s.cores.vals.all fun co => co.saveSeq.isNone

/-- The rail of every compute die is cut: no core runs on. -/
def cutRail (s : State) : State :=
  let s1 := s.mapMod fun m => { m with railCut := true }
  (List.range Config.cores).foldl (fun s c => s.mapCore c fun co =>
    { co with halted := true, saveSeq := none, tickStop := some (co.tickStop.getD s.now) }) s1

/-- LEAK_VALVE_CLOSE (R422): when the save has ended, or 10 ms after the leak, every valve closes
and the rail is cut. -/
def execLeakValveClose (s : State) : Out :=
  match s.mod.leakAt with
  | none => .next s
  | some t =>
    if !s.mod.railCut && (saveOver s || decide (t + 10000 ≤ usOf s.now)) then
      .next (cutRail ((List.range 64).foldl (fun s z => mapZone s z fun x =>
        { x with w1 := setFld x.w1 55 48 0 }) s))
    else .next s

/-- MODCOOL_HOT (R422). -/
def execModcoolHot (hot : Bool) (s : State) : Out :=
  if bit s.mod.modcool 0 = hot then .next s
  else .next (msiSend (s.mapMod fun m => { m with modcool := setBit m.modcool 0 hot }))

/-! ### Writes of device registers (R403) -/

/-- A write of 4 or 8 bytes laid over the register's present word. -/
def overWord (old : W64) (pa size : Nat) (w : W64) : W64 :=
  if size = 8 then w
  else if pa / 4 % 2 = 0 then setFld old 31 0 (fld w 31 0) else setFld old 63 32 (fld w 31 0)

/-- A released write of a Keeper or of another crew into the device-register block; what its
requester may not write is ignored (R403). -/
def devWrite (s : State) (by_ : Requester) (pa size : Nat) (w : W64) : State :=
  let off := (pa - 0x20000000000) / 8 * 8
  let word := overWord (devWord s off) pa size w
  if off = 0x1000 then doorWrite size w s
  else match by_ with
    | .host | .crew => s
    | .keeper c =>
      let lead := decide (c = leadCore s)
      if off = 0x2000 + 16 * c then prqPut s c (overWord 0 pa size w)
      else if !lead then s
      else if off = 0x3000 then cvcfgPut s word
      else if 0x3100 ≤ off ∧ off < 0x3180 then
        s.mapMod fun m => { m with dommap := m.dommap.put ((off - 0x3100) / 8) word }
      else if off = 0x3200 then msgtxPut s (overWord 0 pa size w)
      else if off = 0x3208 then
        s.mapMod fun m => { m with msgrx := setFld (setFld m.msgrx 63 52 (fld word 63 52)) 51 20
                                              (fld word 51 20) }
      else if off = 0x6000 then pwrctlPut s by_ word
      else s

end Sys2Proof.Machine
end

