-- ==== Sys2Proof/Machine/Quarantine.lean ====
section
/-! DEFINITION. Quarantine: regions that clear, the release of lodge entries, staging and the
messages between dies, the lodge's service of waiting batches, walks and load data (R21, R28, R51,
R160, R161, R174, R186 to R188, R207 to R217, R253, R322). -/
namespace Sys2Proof.Machine
open Sys2Proof

/-! ### The lead core (R322) -/

/-- Whether a present place entry names a core. -/
def coreNamed (s : State) (c : Nat) : Bool :=
  s.mod.places.vals.any fun w => bit w 15 && fld w 7 0 == c

/-- The core that would become the lead: the lowest of die 0 that is usable, not captured and
named by a place. -/
def nextLead (s : State) : Option Nat :=
  (List.range 64).find? fun c => coreUsable s c && !(s.core c).captured && coreNamed s c

/-- When the lead core is lost, the next is named and its Keeper told; with none, the emergency
save starts. -/
def checkLead (s : State) : State :=
  let c := leadCore s
  if !s.mod.keepers || (!(s.core c).captured && coreNamed s c) then s
  else match nextLead s with
    | some d => report (msiSend (s.mapMod fun m => { m with bootstat := setFld m.bootstat 55 48 d }))
        d .coreCaptured 0 0 0 0
    | none => startSave s

/-! ### What a lodge entry does (R28, R187 to R189, R209) -/

/-- The bytes of an entry by their physical address. -/
def entryBytes (e : LEntry) : List (Nat × Byte) :=
  (List.range 64).filterMap fun i =>
    if bit e.mask i then some (64 * e.sector + i, byteOf e.data i) else none

/-- The bytes of a window entry by their offset in the core's window. -/
def entryOffsets (e : LEntry) (off : Nat) : List (Nat × Byte) :=
  (entryBytes e).map fun p => (off + p.1 % 64, p.2)

/-- The tenant of the crew in a slot. -/
def tenantAt (s : State) (c slot : Nat) : Nat :=
  match s.crew? c slot with | some k => k.tenant | none => Config.noTenant

/-- `rel` at its clear: a release-order OR on the gate word at package scope (R299, R315). -/
def relApply (s : State) (c slot k : Nat) : State :=
  let pub := crewPub s c slot
  let tenant := tenantAt s c slot
  let s1 := gateSet (releaseOf .package s c slot) tenant (BitVec.ofNat 16 (2 ^ k)) false
  let s2 := match s1.launch? tenant with
    | some l =>
      if l.post.cb ≠ 0 && recentHeld s1 l.post.cb l.post.recent l.post.tno then
        sidePublish s1 (recentAt l.post.cb l.post.recent) pub false
      else s1
    | none => s1
  resetSigs s2 c slot

/-- A launch packet of a crew is read and posted; one that cannot be read, or whose word 0 a walker would
refuse, is reported (R288, R309). -/
def launchApply (s : State) (c slot : Nat) (va : BitVec 56) : State :=
  match s.crew? c slot with
  | none => s
  | some k =>
    match packetWords s c ⟨tctxOf s slot k, crewId k, 0⟩ va.toNat with
    | (s1, none) => report s1 c .launchRefused slot 0 (va.setWidth 64) 0
    | (s1, some ws) =>
      if noLaunch ws then report s1 c .launchRefused slot 0 (va.setWidth 64) 0
      else (submitLaunch s1 (crewPosted s1 k.tenant ws va none (some (c, slot)))).getD s1

/-- A request of a Keeper's `mig` joins its core's list (R390). -/
def migAsk (s : State) (c : Nat) (m : MigReq) : State :=
  s.mapCore c fun co => { co with migs := co.migs ++ [m] }

/-- What an entry does where it acts, but for the end of a launch. -/
def effectBase (s : State) (c : Nat) (e : LEntry) : State :=
  let by_ := if isKeeper e.slot then Requester.keeper c else .crew
  match e.eff with
  | .bytes =>
    if e.kind = .scratch then
      s.mapCrew c e.slot fun k =>
        (entryBytes e).foldl (fun x p => x.scratchPut (p.1 - chipPa c k.sbase) p.2) k
    else if e.kind = .store then (entryBytes e).foldl (fun s p => homeWrite s c p.1 [p.2]) s
    else s
  | .window place off w => windowRelease s c place w (entryOffsets e off)
  | .atom op sgn size l => l.foldl (fun s (pa, v, cmp) =>
      (atomAt s c pa size op sgn v.toNat cmp.toNat).1) s
  | .ared op size l => l.foldl (fun s (pa, v) =>
      let s1 := homeCollect s pa
      homeStore s1 c pa (toBytes size (aredCombine op size (homeWord s1 pa size) v.toNat))) s
  | .dev pa size w => devWrite s by_ pa size w
  | .arrive g => arriveUp s (tenantAt s c e.slot) g 0 c 1
  | .depart g => departUp s (tenantAt s c e.slot) g 0 c 1
  | .sig r take n =>
    ringAdvance s c (tenantAt s c e.slot) r e.slot (if take then 0 else n) (if take then n else 0)
  | .rel k => relApply s c e.slot k
  | .children l => s.mapCore c fun co => { co with deque := co.deque ++ l }
  | .launch vas => vas.foldl (fun s va => launchApply s c e.slot va) s
  | .tbwr n idx word w => checkLead (tbwrApply s c n idx word w)
  | .tbswap i j => checkLead (swapPlaces s i j)
  | .ccreq .. | .ccrel _ => s.mapCore c fun co => { co with asks := co.asks ++ [e.eff] }
  | .give mb n amt => giveApply s c e.slot mb n amt
  | .top set mb l n amt => postChange s { core := c, tenant := l, giver := none, target := n, mb, set, amt }
  | .beat => s.mapCore c fun co => { co with beatSeen := true }
  | .eret act slot mask => eretApply s c act slot mask
  | .halt .. => s
  | .syswr n sel w => sysApply s c n.toNat sel w
  | .migMove place => startMove s c place
  | .migSave slot pa => migAsk s c (.save slot pa)
  | .migLoad place pa => migAsk s c (.load place pa)
  | .migLsave l pa => lsaveApply s l pa.toNat
  | .migLload d x y pa => migAsk s c (.enter d x y pa)

/-- A store homed on the core's own die enters the cluster L2, and the L1 copy of its line if there
is one (R18, R28, R163, R172). -/
def storeOwn (s : State) (c : Nat) (e : LEntry) : State :=
  if zoneOf (64 * e.sector) ≠ .device ∨ e.attr = 1 then
    (entryBytes e).foldl (fun s p => l1Put s c p.1 p.2) (effectBase s c e)
  else
    let k := clusterOf c
    let ev := e.ev || e.attr == 3
    let s1 := l2Touch (l2Alloc s k (e.sector / 4) e.cls ev) k (e.sector / 4) ev
    (entryBytes e).foldl (fun s p => l1Put (l2Put s k p.1 p.2 true) c p.1 p.2) s1

/-- An entry that acts on the core's own die is released: atomics and device writes travel to the
home as requests do, in order (R165, R187). -/
def releaseOwn (s : State) (c : Nat) (e : LEntry) : State :=
  match e.eff with
  | .bytes => if e.kind = .store then storeOwn s c e else effectBase s c e
  | .atom .. | .ared .. | .dev .. => netSend s c (dieOf c) (.access e)
  | _ => effectBase s c e

/-- What an entry does, the end of a launch among it (R387). -/
def effectNow (s : State) (c : Nat) (e : LEntry) : State :=
  match e.eff with
  | .halt l code killed => endLaunch releaseOwn s l code.toNat (if killed then 0x21 else 0x20)
  | _ => effectBase s c e

/-! ### Regions that clear (R208, R253) -/

/-- Whether a crew's region has run its window out, its crew quiet or waiting at an opening. -/
def windowOut (s : State) (c slot : Nat) : Bool :=
  match s.crew? c slot with
  | none => false
  | some k =>
    k.region.any fun g =>
      g.again == 0 && decide (g.close + clockDiv s c * g.win ≤ s.now) &&
        !inMatrixQueue (s.core c) slot &&
        !(s.runs.any fun r => r.core == c && r.hold != some .latch &&
          r.fibres.any fun f => f.2 == slot) &&
        (quietCrew s c slot || waitsAtOpening s c slot)

/-- The crews whose regions clear with that of a crew. -/
def clearSet (s : State) (c slot : Nat) : List Nat := (withLinked s c [slot]).filter fun x =>
  (s.crew? c x).any fun k => k.region.isSome

/-- Whether an entry ends a launch. -/
def haltsLaunch (tenant : Nat) (e : LEntry) : Bool :=
  match e.eff with | .halt l _ _ => l == tenant | _ => false

/-- Whether the end of a launch is about to be released: nothing of it clears any more (R387). -/
def haltNear (s : State) (tenant : Nat) : Bool :=
  s.cores.cells.any fun (c, co) => co.lodge.any fun e =>
    haltsLaunch tenant e && (e.cleared || (clearSet s c e.slot).all (windowOut s c)) &&
      !(clearSet s c e.slot).isEmpty

/-- Whether a region clears now. -/
def clearDue (s : State) (c slot : Nat) : Bool :=
  let l := clearSet s c slot
  !l.isEmpty && l.all (windowOut s c) &&
    (l.any (fun x => (s.core c).lodge.any fun e => e.slot == x &&
        haltsLaunch (tenantAt s c x) e) || !haltNear s (tenantAt s c slot))

/-- A record that a region released is free once the region clears (R239). -/
def clearRecs (rseq : BitVec 16) (t : Tab Rec) : Tab Rec :=
  t.keep fun _ r => r.relSeq != some rseq

/-- A final handle that `cwait` returned is freed at the clear (R277). -/
def freeHandle (s : State) (c : Nat) (who : Nat × BitVec 32) (h : Nat × Nat) : State :=
  match h.1 with
  | 0 => match ctxOf (s.core c) who h.2 with
    | some (p, _) => freeCtx s c p true
    | none => s
  | 1 => match nodeOf (s.core c) who h.2 with
    | some (p, _) => freeNode s c p
    | none => s
  | _ => match streamOf (s.core c) who h.2 with
    | some (p, _) =>
      raiseGen (s.mapCore c fun co => { co with streams := co.streams.del p }) c who 2 h.2
    | none => s

/-- One crew's region clears (R208 to R210, R263, R301, R302, R345); no granule is renamed any more, so
every DIRTY bit is 0 from the clear on (R105; log 68). -/
def clearCrew (s : State) (c slot : Nat) : State :=
  match s.crew? c slot with
  | none => s
  | some k =>
    match k.region with
    | none => s
    | some g =>
      let s1 := s.mapCore c fun co =>
        { co with lodge := co.lodge.map fun (e : LEntry) =>
            if e.slot = slot && e.rseq == k.rseq then { e with cleared := true } else e }
      let s2 := finalResv (engineClear s1 c slot k.rseq) c slot
      let s3 := g.freed.foldl (fun s h => freeHandle s c (crewId k) h) s2
      let s4 := if k.taken.isEmpty then s3
        else s3.mapLaunch k.tenant fun l =>
          { l with given := l.given ++ k.taken, alive := l.alive ++ k.taken }
      let done := k.yield == .waiting
      let s5 := s4.mapCrew c slot fun k =>
        { k with
          region := none, dirty := 0, storms := 0, reserve := [], taken := [], clearedAt := s.now + 1
          recs := clearRecs k.rseq k.recs
          queues := k.queues.mapKV fun _ (q : OQueue) => { q with pend := q.cur, fresh := false }
          pressure := k.pressure && !k.pressed, pressed := false
          yield := if done then .complete else k.yield
          still := k.still || (done && k.move.isSome) }
      if done then countFixed (report s5 c .budgetYield slot 0 0 0) c 12 1 else s5

/-- A crew's pushes are released, and an ended crew goes, once no entry of it is left (R304, R297). -/
def settleCrew (s : State) (c slot : Nat) : State :=
  match s.crew? c slot with
  | none => s
  | some k =>
    if (s.core c).lodge.any fun e => e.slot == slot && e.cleared && !e.told then s
    else
      let s1 := if k.queues.vals.all fun q => q.rel == q.pend then s
        else s.mapCrew c slot fun k =>
          { k with queues := k.queues.mapKV fun _ (q : OQueue) => { q with rel := q.pend } }
      if crewOver (s1.core c) slot k then crewGone s1 c slot else s1

/-- The regions linked to a crew's clear together. -/
def clearAll (s : State) (c slot : Nat) : State :=
  let l := clearSet s c slot
  l.foldl (fun s x => settleCrew s c x) (l.foldl (fun s x => clearCrew s c x) s)

/-! ### Releases (R193, R209, R214) -/

/-- Whether the link to the host keeps an entry waiting (R405). -/
def hostBlocked (s : State) (e : LEntry) : Bool :=
  (e.kind == .store || e.kind == .ffAtomic) && hostAway s (64 * e.sector)

/-- Whether an entry may be released: the copies before a fence are done (R193), the link to the
host is up, no clause holds up a register write (R116), and the ticket list has room (R309). -/
def lodgeReady (s : State) (c : Nat) (e : LEntry) : Bool :=
  let co := s.core c
  (e.fence.all fun i => co.ctxs.vals.all fun (x : Ctx) =>
    x.id != i || (x.state != 1 && x.state != 3)) &&
  !hostBlocked s e &&
  match e.eff with
  | .window place off w => e.home.isSome || !windowBusy s place w (entryOffsets e off)
  | .launch vas => decide (s.mod.tickets.length + vas.length ≤ 256 + s.mod.claimed.length) &&
      !((s.launch? (tenantAt s c e.slot)).any fun l => cbTaken s l.post.cb)
  | _ => true

/-- The entry of a crew that is released next. -/
def nextEntry (co : Core) (slot : Nat) : Option LEntry :=
  co.lodge.find? fun e => e.slot == slot && e.cleared && !e.told

/-- An entry with the other part of its store, which is released in the same cycle (R177). -/
def withMate (co : Core) (e : LEntry) : List LEntry :=
  e :: co.lodge.filter fun x => e.mate == some x.id && x.slot == e.slot && x.cleared && !x.told

/-- The entry that a core releases next: that of the lowest slot whose first entry may go. -/
def releasable (s : State) (c : Nat) : Option LEntry :=
  let co := s.core c
  co.crews.keys.findSome? fun x =>
    (nextEntry co x).filter fun e => (withMate co e).all (lodgeReady s c)

/-- Whether a core has released nothing yet in its cycle. -/
def releaseFirst (s : State) (c : Nat) : Bool := decide ((s.core c).relAt + clockDiv s c ≤ s.now + 1)

/-- Whether a core may release so many more entries in this cycle (R209). -/
def releaseTurn (s : State) (c n : Nat) : Bool :=
  releaseFirst s c || decide ((s.core c).relN + n ≤ 4)

/-- WSIG gains the line of a released write (R227, R228). -/
def signEntry (s : State) (c : Nat) (e : LEntry) : State :=
  if e.kind = .store ∨ e.kind = .ffAtomic ∨ e.kind = .window then
    s.mapCrew c e.slot fun k => { k with wsig := sigAdd k.wsig (e.sector / 4) }
  else s

/-- One release: an entry homed on another die updates the L1 and sends its clear message; another
acts and leaves the lodge (R28, R187, R214). -/
def releaseEntry (s : State) (c : Nat) (e : LEntry) : State :=
  let s1 := signEntry s c e
  match e.home with
  | some d =>
    let s2 := if e.kind ≠ .store then s1
      else (entryBytes e).foldl (fun s p => l1Put s c p.1 p.2) s1
    netSend (s2.mapCore c fun co =>
      { co with lodge := (co.lodge.map fun (x : LEntry) =>
          if x.id = e.id then { x with told := true } else x).filter fun x =>
            !(x.told && x.acked) }) c d (.clear e.slot e.rseq e.id)
  | none =>
    let s2 := s1.mapCore c fun co => { co with lodge := co.lodge.filter fun x => x.id != e.id }
    match e.eff with
    | .halt .. => effectNow s2 c e
    | _ => releaseOwn s2 c e

/-- A core releases its next entry, and with it the other part of its store. -/
def releaseStep (s : State) (c : Nat) : State :=
  match releasable s c with
  | none => s
  | some e =>
    let l := withMate (s.core c) e
    if !releaseTurn s c l.length then s
    else
      let s1 := s.mapCore c fun co =>
        { co with relAt := if releaseFirst s c then s.now + 1 else co.relAt
                  relN := (if releaseFirst s c then 0 else co.relN) + l.length }
      settleCrew (l.foldl (fun s e => releaseEntry s c e) s1) c e.slot

/-- REGION_CLEAR (R208, R209) of a core and slot: the region clears; or, with no region that
clears, the core's next entry is released. -/
def execRegionClear (c slot : Nat) (s : State) : Out :=
  if (clearSet s c slot).length ≤ 1 && clearDue s c slot then .next (clearAll s c slot)
  else .next (settleCrew (releaseStep s c) c slot)

/-- LINKED_REGION_CLEAR (R253). -/
def execLinkedRegionClear (c slot : Nat) (s : State) : Out :=
  if 1 < (clearSet s c slot).length && clearDue s c slot then .next (clearAll s c slot)
  else .next s

/-! ### The lodge's waiting batches (R160) -/

/-- The batches of a core that wait for entries, and the one that has waited longest. -/
def lodgeWaiter (s : State) (c : Nat) : Option Run :=
  pickBy (fun (a b : Run) => decide (a.asked < b.asked))
    (s.runs.filter fun r => r.core == c && r.hold == some .lodge)

/-- LODGE_GRANT (R160): the oldest waiter is served once its entries are free. -/
def execLodgeGrant (c : Nat) (s : State) : Out :=
  match lodgeWaiter s c with
  | none => .next s
  | some r =>
    if 1024 < lodgeTaken s c s.runs + lodgeNeed r then .next s
    else .next { s with runs := s.runs.map fun x =>
      if x = r then { x with hold := none, due := s.now, tmp := x.tmp ++ [(0, 1)] } else x }

/-- LODGE_STALL_BREAK (R160): the waiter's crews restart, with a pressure flag; a crew that has it
already takes LODGE_OVERFLOW at its head. -/
def execLodgeStallBreak (c : Nat) (s : State) : Out :=
  match lodgeWaiter s c with
  | none => .next s
  | some r =>
    if s.now < r.asked + 16 * fld (s.core c).qwin 15 0 * clockDiv s c then .next s
    else
      let again := r.slots.filter fun x => (s.crew? c x).any fun k => k.pressure
      let s1 := countFixed (restartOnly s c r.slots true) c 13 1
      .next (r.slots.foldl (fun s x => s.mapCrew c x fun k =>
        { k with pressure := true, stopAll := k.stopAll || again.contains x
                 pendC := if again.contains x && k.pendC.isNone then some .lodgeOverflow
                   else k.pendC }) s1)

/-! ### Staging and the messages between dies (R161, R187, R214, R215) -/

/-- The head of the messages from a core to a die, and the state without it. -/
def netHead (s : State) (c d : Nat) : Option (Msg × State) :=
  match s.net.getD (c * 4 + d) [] with
  | [] => none
  | m :: r =>
    some (m, { s with net := if r.isEmpty then s.net.del (c * 4 + d) else s.net.put (c * 4 + d) r })

/-- A lodge entry has been acknowledged; it is free once its clear message has been sent. -/
def ackEntry (s : State) (c id : Nat) : State :=
  s.mapCore c fun co =>
    { co with lodge := (co.lodge.map fun (x : LEntry) =>
        if x.id = id then { x with acked := true, back := false } else x).filter fun x =>
          !(x.home.isSome && x.told && x.acked) }

/-- Whether a clear message that has passed covers an entry. -/
def clearedBefore (d : Die) (c : Nat) (e : LEntry) : Bool :=
  d.cleared.any fun x => x.1 == c && x.2.1 == e.slot && x.2.2.1 == e.rseq && decide (e.id ≤ x.2.2.2)

/-- Clear messages are kept only while an entry they cover waits to cross. -/
def trimCleared (s : State) (d : Nat) : State :=
  let waits := fun (q : Nat × Nat × BitVec 16 × Nat) =>
    (s.core q.1).lodge.any fun e => e.home == some d && !e.acked && e.slot == q.2.1 &&
      e.rseq == q.2.2.1 && decide (e.id ≤ q.2.2.2)
  s.mapDie d fun x => { x with cleared := x.cleared.filter waits }

/-- An entry in the staging of a die: a second copy merges, a full staging sends it back (R161). -/
def stageEntry (s : State) (c d : Nat) (e : LEntry) : State :=
  let di := s.die d
  let same := fun (x : StEntry) => x.core == c && x.e.id == e.id
  let over_ := fun (y : StEntry) => if same y then { y with e } else y
  if di.staging.any same then
    s.mapDie d fun x => { x with staging := x.staging.map over_ }
  else if !dieFull di then
    s.mapDie d fun x => { x with staging := x.staging ++ [{ core := c, e }] }
  else s.mapCore c fun co =>
    { co with lodge := co.lodge.map fun (x : LEntry) =>
        if x.id = e.id then { x with back := true } else x }

/-- A core's unit with an identity, not yet released. -/
def heldUnit (s : State) (c id : Nat) : Option Unit_ :=
  (s.core c).units.find? fun u => u.id == id && !u.told

/-- A core's unit with an identity is changed. -/
def mapUnit (s : State) (c id : Nat) (f : Unit_ → Unit_) : State :=
  s.mapCore c fun co => { co with units := co.units.map fun u => if u.id = id then f u else u }

/-- An engine unit in the staging of a die: a full staging sends it back, and one that was squashed on
its way does not enter (R161, R214, R263). -/
def stageUnit (s : State) (c d id : Nat) : State :=
  if (heldUnit s c id).isNone then s
  else if dieFull (s.die d) then mapUnit s c id fun u => { u with back := true }
  else s.mapDie d fun x => { x with units := x.units ++ [(c, id)] }

/-- An arrival whose code is bad is refused, and sent again from the lodge (R161). -/
def refused (s : State) (c d : Nat) (e : LEntry) : State × Bool :=
  match readSites s c none (· == .link c e.id) with
  | (s, some x) => (netSend (s.heal (· == x)) c d (.entry e), true)
  | (s, none) => (s, false)

/-- STAGING_ARRIVAL (R28, R161, R214, R263). -/
def execStagingArrival (c d : Nat) (s : State) : Out :=
  match netHead s c d with
  | some (.entry e, s0) =>
    let (s1, again) := refused s0 c d e
    if again then .next s1
    else if clearedBefore (s1.die d) c e then
      if !lodgeReady s1 c { e with home := none, fence := [] } then .next s
      else .next (settleCrew (trimCleared (ackEntry (effectNow s1 c e) c e.id) d) c e.slot)
    else .next (stageEntry s1 c d e)
  | some (.unit_ id, s1) => .next (stageUnit s1 c d id)
  | _ => .next s

/-- STAGING_SPACE_FREE (R28, R263): the oldest entry that waits in the lodge crosses, or with none the
oldest engine unit that waits. -/
def execStagingSpaceFree (c d : Nat) (s : State) : Out :=
  match (s.core c).lodge.find? fun e => e.home == some d && e.back with
  | none =>
    match (s.core c).units.find? fun u => u.home == some d && u.back with
    | none => .next s
    | some u =>
      if dieFull (s.die d) then .next s
      else .next (netSend (mapUnit s c u.id fun u => { u with back := false }) c d (.unit_ u.id))
  | some e =>
    if dieFull (s.die d) then .next s
    else
      let s1 := s.mapCore c fun co => { co with lodge := co.lodge.map fun (x : LEntry) =>
        if x.id = e.id then { x with back := false } else x }
      .next (netSend s1 c d (.entry { e with back := false }))

/-- STAGING_ACK (R161, R263). -/
def execStagingAck (c id : Nat) (s : State) : Out :=
  match (s.core c).lodge.find? fun e => e.id == id && !e.acked with
  | none =>
    match (heldUnit s c id).bind (·.home) with
    | some d =>
      if (s.die d).units.contains (c, id) then
        .next (mapUnit s c id fun u => { u with acked := true, back := false })
      else .next s
    | none => .next s
  | some e =>
    match e.home with
    | none => .next s
    | some d =>
      if (s.die d).staging.any fun x => x.core == c && x.e.id == id then
        .next (settleCrew (ackEntry s c id) c e.slot)
      else .next s

/-- The staged entries that a clear message releases, oldest first. -/
def stagedFor (d : Die) (c slot : Nat) (rseq : BitVec 16) (upTo : Nat) : List LEntry :=
  (d.staging.filter fun x => x.core == c && x.e.slot == slot && x.e.rseq == rseq &&
    decide (x.e.id ≤ upTo)).map (·.e)

/-- CLEAR_MESSAGE (R28, R214, R263): the staged entries it covers act in order; one that still waits to
cross will be released when it arrives. The clear message of an engine unit releases that unit. -/
def execClearMessage (c d : Nat) (s : State) : Out :=
  match netHead s c d with
  | some (.clear slot rseq upTo, s1) =>
    let l := stagedFor (s1.die d) c slot rseq upTo
    if l.any fun e => !lodgeReady s1 c { e with home := none, fence := [] } then .next s
    else
      let s2 := l.foldl (fun s e => ackEntry (effectNow (s.mapDie d fun x =>
        { x with staging := x.staging.filter fun y => !(y.core == c && y.e.id == e.id) }) c e)
        c e.id) s1
      let late := (s2.core c).lodge.any fun e => e.home == some d && !e.acked && e.slot == slot &&
        e.rseq == rseq && decide (e.id ≤ upTo)
      let s3 := if late then s2.mapDie d fun x =>
          { x with cleared := x.cleared ++ [(c, slot, rseq, upTo)] }
        else s2
      .next (settleCrew s3 c slot)
  | some (.unitClear id, s1) =>
    match (s1.core c).units.find? fun u => u.id == id && u.told with
    | none => .next s1
    | some u => if unitHeld s1 u then .next s else .next (unitActs s1 c u)
  | _ => .next s

/-- SQUASH_MESSAGE (R29, R214). -/
def execSquashMessage (c d : Nat) (s : State) : Out :=
  match netHead s c d with
  | some (.squash slot rseq, s1) =>
    .next (s1.mapDie d fun x => { x with staging := x.staging.filter fun y =>
      !(y.core == c && y.e.slot == slot && y.e.rseq == rseq) })
  | _ => .next s

/-- HOME_ACCESS_ARRIVAL (R165, R188): a released access acts at its home. -/
def execHomeAccessArrival (c d : Nat) (s : State) : Out :=
  match netHead s c d with
  | some (.access e, s1) => .next (effectNow s1 c e)
  | _ => .next s

/-! ### Pass sensors (R19, R205, R216) -/

/-- The dies that a link joins (R324). -/
def linkEnds (j : Nat) : Nat × Nat :=
  match j with | 0 => (0, 1) | 1 => (2, 3) | 2 => (0, 2) | _ => (1, 3)

/-- The links on the route from a die to another: east or west first, then north or south (R19). -/
def routeLinks (a b : Nat) : List Nat :=
  (if a % 2 = b % 2 then [] else [if a / 2 = 0 then 0 else 1]) ++
    (if a / 2 = b / 2 then [] else [if b % 2 = 0 then 2 else 3])

/-- Whether the region of an entry of a core has not cleared. -/
def unclearedEntry (s : State) (c : Nat) (e : LEntry) : Bool :=
  (s.core c).lodge.any fun x => x.id == e.id && !x.cleared

/-- The cores in the vale of a link: those with an uncleared entry, or an engine unit that is not
released, on the link or in the staging of a die that it joins. -/
def linkVale (s : State) (j : Nat) : List Nat :=
  let ends := linkEnds j
  let flying := s.net.cells.filterMap fun (key, l) =>
    let c := key / 4
    if (routeLinks (dieOf c) (key % 4)).contains j && l.any (fun m => match m with
      | .entry e => unclearedEntry s c e
      | .unit_ id => (heldUnit s c id).isSome
      | _ => false) then some c else none
  let staged := ((s.die ends.1).staging ++ (s.die ends.2).staging).filterMap fun x =>
    if unclearedEntry s x.core x.e then some x.core else none
  let held := ((s.die ends.1).units ++ (s.die ends.2).units).filterMap fun p =>
    if (heldUnit s p.1 p.2).isSome then some p.1 else none
  (flying ++ staged ++ held).foldl (fun l c => insertNat c l) []

/-- Entries on a link whose regions have cleared and that are not yet acknowledged are sent again,
behind what is on the way. -/
def resendCleared (s : State) (j : Nat) : State :=
  { s with net := s.net.mapKV fun key (l : List Msg) =>
      if !(routeLinks (dieOf (key / 4)) (key % 4)).contains j then l
      else
        let again := fun (m : Msg) => match m with
          | .entry e => !unclearedEntry s (key / 4) e
          | _ => false
        (l.filter fun m => !again m) ++ l.filter again }

/-- PASS_SENSOR_REPORT (R216). -/
def execPassSensorReport (sensor : Nat) (s : State) : Out :=
  if sensor < 1664 ∨ 1696 ≤ sensor ∨ !sensorOn s sensor then .next s
  else
    let j := (sensor - 1664) / 8
    .next ((linkVale s j).foldl reportCore (resendCleared s j))

/-! ### Walks (R171 to R174) -/

/-- What a walk finds is put in the cluster TLB, the walk cache and the TLBs of the cores that
asked; the walk cache keeps the 64 entries walked latest, which is the model's choice (log entry
70). -/
def walkFill (s : State) (k : Nat) (cores : List Nat) (e0 : TlbE)
    (seen : List WalkE) : State × TlbE :=
  let (s1, e) := markLeaf (llcFill s (e0.at_ / 64)) e0 false
  let s2 := s1.mapCluster k fun cl =>
    { cl with tlb := ctlbInsert cl.tlb e
              wcache := (seen ++ cl.wcache.filter fun x => !seen.contains x).take 64 }
  (cores.foldl (fun s c => s.mapCore c fun co => { co with tlb := tlbInsert co.tlb e }) s2, e)

/-- The cause with which one requester's translation fails (R173). -/
def askFails (o : Except Cause Leaf) (a : Asker) : Option Cause :=
  match o with
  | .error e => some e
  | .ok leaf => leafCheck leaf.w a.keeper a.write a.fetch

/-- A walk that failed for a requester: a prefetch is dropped, and a fetch or an engine finds the
failure when it tries again. -/
def tellFailed (k : Nat) (pasid : BitVec 20) (s : State) (a : Asker) (cause : Cause) : State :=
  match a.kind with
  | .access .. => s
  | .prefetch .. => dropPrefetch s a.core
  | .fetch .. | .engine => s.mapCluster k fun cl => { cl with failed := cl.failed ++ [(a, pasid, cause)] }

/-- Whether a requester is a fibre of a batch. -/
def Asker.isOf (a : Asker) (r : Run) : Bool :=
  match a.kind with
  | .access lane slot => a.core == r.core && r.fibres.contains (lane, slot)
  | _ => false

/-- The batches that wait for walks in a cluster try again; those whose own walk failed remember it. -/
def wakeWalks (s : State) (k : Nat) (bad : List (Asker × Cause)) : State :=
  { s with runs := s.runs.map fun r =>
      if r.hold == some .walk && clusterOf r.core == k then
        { r with hold := none, due := s.now
                 fails := ((bad.filter fun p => p.1.isOf r).map fun p => (failKey p.1.va, p.2)) ++
                   r.fails }
      else r }

/-- TRANSLATION_WALK (R174): the oldest miss of a cluster is served. A walk that fails for all of its
requesters fills nothing (R173). -/
def execTranslationWalk (k : Nat) (s : State) : Out :=
  match (s.cluster k).misses with
  | [] => .next s
  | m :: rest =>
    let s1 := s.mapCluster k fun cl => { cl with misses := rest }
    let o := walk s1 k m.pasid m.root m.va
    let leaf := o.map (·.1)
    let bad := m.askers.filterMap fun a => (askFails leaf a).map fun e => (a, e)
    let good := m.askers.filter fun a => (askFails leaf a).isNone
    let s2 := match o, good with
      | .ok (l, seen), _ :: _ =>
        let e0 : TlbE := { pasid := m.pasid, level := l.level, page := m.va / 2 ^ pageBits l.level
                           leaf := l.w, at_ := l.at_ }
        let (s, e) := walkFill s1 k (dedup (good.map (·.core))) e0 seen
        good.foldl (fun s a => match a.kind with
          | .prefetch tenant lvl => prefetchAct s a.core tenant a.va lvl e
          | _ => s) s
      | _, _ => s1
    .next (wakeWalks (bad.foldl (fun s p => tellFailed k m.pasid s p.1 p.2) s2) k bad)

/-! ### Load data (R186, R187, R199) -/

/-- A byte that a load awaits, read through the caches as its page says. -/
def fetchByte (s : State) (c pa : Nat) (attr : BitVec 3) (cls : BitVec 2) (ev : Bool) :
    State × Byte :=
  let a := canonPa s pa
  if zoneOf a = .host then l2Read s (clusterOf c) a cls ev
  else if zoneOf a ≠ .device ∨ attr = 1 then (homeCollect s a, homeGet (homeCollect s a) a)
  else
    let k := clusterOf c
    let s := if (l2Byte (s.cluster k) a).isSome then s else homeCollect s a
    if attr = 3 ∨ ev then l2Read s k a cls true
    else
      let s := if (l1Find (s.core c) (a / 256)).isSome then s else l1Fill s c (a / 256) cls false
      match l1Find (s.core c) (a / 256) with
      | some x => (s, byteOf x.data (a % 256))
      | none => l2Read s k a cls false

/-- One lane of a load with every byte it awaited. -/
def fetchLane (s : State) (c : Nat) (f : FLane) : State × FLane :=
  match f.req with
  | none => (s, f)
  | some q =>
    let (s1, l) := (q.pas.zip (q.got.zip q.tags)).foldl (fun (p : State × List Byte) x =>
      match x.2.1 with
      | some b => (p.1, p.2 ++ [b])
      | none =>
        let (t, b) := fetchByte p.1 c x.1 x.2.2.1 x.2.2.2 q.ev
        (t, p.2 ++ [b])) (s, [])
    (s1, { f with data := BitVec.ofNat 512 (ofBytes l), req := none })

/-- The lines of a flight that the cluster L2 lacks (R353, event 9). -/
def l2Misses (s : State) (c : Nat) (f : Flight) : Nat :=
  (dedup ((f.lanes.vals.filterMap (·.req)).map fun q =>
    ((q.pas.zip q.got).filter fun x => x.2.isNone &&
      (l2Byte (s.cluster (clusterOf c)) (canonPa s x.1)).isNone).map fun x => x.1 / 256).flatten).length

/-- Whether a fire-and-forget atomic of a crew on the sector of an address has cleared and is still
to leave: a load of the crew goes behind it (R219). -/
def atomAhead (s : State) (c slot pa : Nat) : Bool :=
  (s.core c).lodge.any fun e =>
    e.slot == slot && e.kind == .ffAtomic && e.cleared && (!e.told || e.back) && e.sector == canonPa s pa / 64

/-- Whether data for a flight may come: what the core sent to the homes has been acted on (R187),
no atomic of the crew is ahead of it, and the host can answer (R405). -/
def dataFree (s : State) (c slot : Nat) (f : Flight) : Bool :=
  f.lanes.vals.all fun l => match l.req with
    | none => true
    | some q => q.pas.all fun pa =>
      (s.net.getD (c * 4 + homeOf (canonPa s pa)) []).isEmpty && !hostAway s pa &&
        !atomAhead s c slot pa

/-- Whether a flight is a load's that awaits data; the values of `ard` come from its entry (R250). -/
def awaitsData (f : Flight) : Bool := !f.ready && f.lanes.vals.any fun l => l.req.isSome

/-- The bytes of another module's memory as a reply brings them (R199). -/
def takeReply (s : State) (reply : Reply) : State :=
  reply.foldl (fun s p => if zoneOf (canonPa s p.1) = .domain then homePut s p.1 p.2 else s) s

/-- The reply that a batch awaits at a commit point on another module's memory (R199). -/
def replyRun (s : State) (c slot : Nat) (reply : Reply) : State :=
  let s := takeReply s reply
  { s with runs := s.runs.map fun r =>
      if r.core == c && r.hold == some .remote && r.fibres.any (fun f => f.2 == slot) then
        { r with hold := none, due := s.now, tmp := (7, 1) :: r.tmp }
      else r }

/-- LOAD_DATA_RETURN (R186): the data of a flight has come; what others have written to far memory
comes with the reply, which a commit point awaits under the identity 0 (R199). -/
def execLoadDataReturn (c slot id : Nat) (reply : Reply) (s : State) : Out :=
  match s.crew? c slot with
  | none => .next s
  | some k =>
    match k.flights.find? fun f => f.id == id && awaitsData f with
    | none => .next (if id = 0 then replyRun s c slot reply else s)
    | some f =>
      if !dataFree s c slot f then .next s
      else
        let s0 := takeReply s reply
        let s1 := note s0 c slot 9 (l2Misses s0 c f)
        let (s2, cells) := f.lanes.cells.foldl (fun (p : State × List (Nat × FLane)) x =>
          let (t, l) := fetchLane p.1 c x.2
          (t, p.2 ++ [(x.1, l)])) (s1, [])
        .next (s2.mapCrew c slot fun k => { k with flights := k.flights.map fun x =>
          if x.id = id then { x with lanes := ⟨cells⟩, ready := true } else x })

end Sys2Proof.Machine
end

