-- ==== Sys2Proof/Machine/Heat.lean ====
section
/-! DEFINITION. What the Keepers and the management core do with traps, budgets, beats, heat and
coolant: trap delivery and disposition (R363 to R367), page requests (R406), budget yield (R345),
heartbeats and captures (R341, R351), watchdogs (R352), temperatures (R375, R376), and the coolant
zones (R331 to R337). -/
namespace Sys2Proof.Machine
open Sys2Proof

/-! ### Disposing of a delivered trap (R367, R380) -/

/-- Whether a crew's launch is attached (R367, R380). -/
def attached (k : Crew) : Bool := bit k.dbg 7

/-- A crew is held for a debugger (R380, R381). -/
def holdCrew (s : State) (c slot : Nat) : State :=
  match s.crew? c slot with
  | none => s
  | some k => refreeze (s.setCrew c slot { k with dbg := setBit k.dbg 0 true }) k.tenant

/-- Whether a core has no crew but its Keeper's, runs, and takes part in no move or save. -/
def coreFree (s : State) (c : Nat) : Bool :=
  let co := s.core c
  (co.crews.keys.all fun x => isKeeper x) && !co.halted && !co.captured && !moveBusy co

/-- The idle place of a rectangle with the lowest number (R367). -/
def idlePlace (s : State) (q : Rect) (c : Nat) : Option Nat :=
  (List.range 256).find? fun n => q.has n &&
    (placeCore s n).any fun t => t != c && coreFree s t

/-- REGION_STORM: the core moves to an idle place of the launch's rectangle and the crew resumes at
its head; with none, or at its second storm, the launch ends (R367). -/
def stormMove (s : State) (c slot : Nat) : State :=
  match s.crew? c slot with
  | none => s
  | some k =>
    let dest := (crewLaunch s k).bind fun l => idlePlace s (rectOf (l.post.packet.getD 0 0)) c
    match dest with
    | some n =>
      if k.stormed then endLaunch releaseOwn s k.tenant 0 0x21
      else
        let s1 := startMove (s.setCrew c slot { k with stormed := true }) c n
        let s2 := s1.mapCrew c slot fun k => { k with still := k.move.isSome }
        returnFrom s2 c slot (BitVec.allOnes 64) .retry
    | none => endLaunch releaseOwn s k.tenant 0 0x21

/-- What the Keeper does with a delivered record (R367). A trap of its own crew stops that crew
(R363). -/
def dispose (s : State) (c slot : Nat) (t : Trap) : State :=
  match s.crew? c slot with
  | none => s
  | some k =>
    if isKeeper slot then s.setCrew c slot { k with stopAll := true }
    else match t.cause with
      | .translation => nextRequest s c
      | .fetchFault =>
        if t.sub = 0 then nextRequest s c
        else if attached k then holdCrew s c slot
        else endLaunch releaseOwn s k.tenant 0 0x21
      | .break_ | .step => holdCrew s c slot
      | .trap =>
        if attached k then holdCrew s c slot
        else endLaunch releaseOwn s k.tenant t.code.toNat 0x22
      | .regionStorm => stormMove s c slot
      | _ => if attached k then holdCrew s c slot else endLaunch releaseOwn s k.tenant 0 0x21

/-! ### Delivery (R364, R365) -/

/-- The trap of a fibre that has one which is not delivered. -/
def pendingTrap (f : Fibre) : Option Trap :=
  match f.st with
  | .trapped t => if t.delivered then none else some t
  | _ => none

/-- Whether a trap may be delivered now: BREAK and STEP at once, the others when the region in
which they were raised has cleared. -/
def deliverable (k : Crew) (t : Trap) : Bool :=
  k.region.isNone || t.cause == .break_ || t.cause == .step

/-- The next delivery of a crew: the lowest lane with a trap that may be delivered. -/
def nextDelivery (k : Crew) : Option (Nat × Trap) :=
  (liveFibres k).findSome? fun p => ((pendingTrap p.2).filter (deliverable k)).map fun t => (p.1, t)

/-- The fibre's trap counts as delivered, with every other fibre's that one record stands for. -/
def markDelivered (lane : Nat) (t : Trap) (k : Crew) : Crew :=
  { k with fibres := k.fibres.mapKV fun l (f : Fibre) =>
      match f.st with
      | .trapped u =>
        if l = lane ∨ (t.group ≠ 0 ∧ u.group = t.group) then
          { f with st := .trapped { u with delivered := true } }
        else f
      | _ => f }

/-- One delivery: its record enters the queue, and the Keeper disposes of it. -/
def deliver (s : State) (c slot lane : Nat) (t : Trap) : State :=
  let s1 := s.mapCrew c slot (markDelivered lane t)
  dispose (s1.mapCore c fun co => trapEnter co (trapRecord s.now slot lane t)) c slot t

/-- Whether the kind C trap of a crew is due (R365). -/
def stormDue (s : State) (k : Crew) : Bool := k.pendC.isSome && decide (k.restartAt ≤ s.now)

/-- The trap of kind C as a fibre takes it: POS 0, with its continuation at the head as its resume
state, and the wait that it had (log entry 47). -/
def headTrap (cause : Cause) (head : BitVec 56) (f : Fibre) : Trap :=
  { cause, sub := 0, code := 0, clause := head, at_ := 0, res := f.pc, pos := f.rpos, lat := f.rlat
    next := f.pc, data := 0, delivered := true, group := 0
    was := (match f.st with | .blocked w => some w | _ => none), wr := false }

/-- A kind C trap is delivered: every live fibre of the crew is trapped at the head, with one record
that names lane 0 (R364, R365). -/
def deliverHead (s : State) (c slot : Nat) (cause : Cause) : State :=
  let s1 := pullCrew s c slot
  match s1.crew? c slot with
  | none => s
  | some k =>
    let head := (k.region.map (·.head)).getD (k.cont.setWidth 56)
    let fibres := k.fibres.mapKV fun _ (f : Fibre) =>
      if isTrapped f then f else { f with st := .trapped (headTrap cause head f) }
    let s2 := s1.setCrew c slot { k with fibres, pendC := none, pendAt := 0, stopAll := false }
    let t := { headTrap cause head
      { pc := head, rpos := 0, rlat := .empty, pred := 0, arr := 0, stale := 0, paid := false, st := .stopped } with data := BitVec.ofNat 64 k.pendAt }
    dispose (s2.mapCore c fun co => trapEnter co (trapRecord s.now slot 0 t)) c slot t

/-- TRAP_DELIVERY (R365): the next delivery on a core, a kind C trap first, then in order of the
slot and the lane; waiting records enter as entries free. -/
def execTrapDelivery (c : Nat) (s : State) : Out :=
  let co := s.core c
  match co.crews.cells.find? fun p => stormDue s p.2 with
  | some (x, k) => .next (deliverHead s c x (k.pendC.getD .regionStorm))
  | none =>
    match co.crews.cells.findSome? fun p => (nextDelivery p.2).map fun q => (p.1, q) with
    | some (x, lane, t) => .next (deliver s c x lane t)
    | none => .next (if co.trapWait.isEmpty then s else s.mapCore c trapRefill)

/-! ### Page requests (R367, R406) -/

/-- Whether a fibre waits for the page that a request names. -/
def wantsPage (s : State) (slot : Nat) (k : Crew) (w : W64) (f : Fibre) : Bool :=
  (pageWant f).any fun x =>
    tctxPasid (tctxOf s slot k) == w.extractLsb' 44 20 && x.1 / 65536 % 2 ^ 40 == fld w 39 0

/-- The lanes of a crew that wait for a page. -/
def pageLanes (s : State) (slot : Nat) (k : Crew) (w : W64) : W64 :=
  (liveFibres k).foldl (fun m p => if wantsPage s slot k w p.2 then setBit m p.1 true else m) 0

/-- The page has been served: its fibres resume by `eret.retry`, those of the crews that the Keeper
has evicted as well (R367, R369). -/
def pageServed (s : State) (c : Nat) (w : W64) : State :=
  let co := s.core c
  let s1 := (guests co).foldl (fun s p =>
    returnFrom s c p.1 (pageLanes s p.1 p.2 w) .retry) s
  s1.mapCore c fun co => { co with evicted := co.evicted.map fun (e : Evicted) =>
    let go := fun (f : Fibre) => match f.st with
      | .trapped t => if wantsPage s 0 e.crew w f then resumed e.crew.cont f t .retry else f
      | _ => f
    { e with crew := { e.crew with fibres := e.crew.fibres.mapKV fun _ f => go f } } }

/-- The launches with a fibre that waits for a page. -/
def pageLaunches (s : State) (c : Nat) (w : W64) : List Nat :=
  let co := s.core c
  let some_ := fun (slot : Nat) (k : Crew) => (liveFibres k).any fun p => wantsPage s slot k w p.2
  dedup (((co.crews.cells.filter fun p => !isKeeper p.1 && some_ p.1 p.2).map fun p => p.2.tenant)
    ++ (co.evicted.filter fun e => some_ 0 e.crew).map fun e => e.crew.tenant)

/-- PAGE_REQUEST_RESULT (R367, R406): the answer of the host, or none within 100 ms. A request waits
at the port while the link is down (R405). -/
def execPageRequestResult (c : Nat) (res : PrqResult) (s : State) : Out :=
  let co := s.core c
  if !co.prqBusy || !linkUp s then .next s
  else
    let code : BitVec 2 := match res with
      | .success => 0 | .invalid => 1 | .failure => 2 | .noResponse => 3
    let s1 := s.mapCore c fun co => { co with prqBusy := false, prqRes := code }
    let s2 := if code = 0 then pageServed s1 c co.prqReq
      else (pageLaunches s1 c co.prqReq).foldl (fun s a => endLaunch releaseOwn s a 0 0x21) s1
    .next (nextRequest s2 c)

/-! ### Budget yield (R345) -/

/-- BUDGET_YIELD_ENTER (R345, step 2): once no batch of the crew is inside a clause, its fibres go to
`%cont`; the yield is complete when its last region has cleared. -/
def execBudgetYieldEnter (c slot : Nat) (s : State) : Out :=
  match s.crew? c slot with
  | none => .next s
  | some k =>
    if k.yield ≠ .entering ∨ insideClause s c slot = true then .next s
    else
      let s1 := toCont s c slot
      if k.region.any fun g => g.again == 0 then
        .next (s1.mapCrew c slot fun k => { k with yield := .waiting })
      else
        let s2 := s1.mapCrew c slot fun k =>
          { k with yield := .complete, region := none, still := k.still || k.move.isSome }
        .next (countFixed (report s2 c .budgetYield slot 0 0 0) c 12 1)

/-- BUDGET_YIELD_LEAVE (R345, step 4): with both budgets non-zero, the crew goes on at `%cont` in a
region opened as a head does. -/
def execBudgetYieldLeave (c slot : Nat) (s : State) : Out :=
  match s.crew? c slot with
  | none => .next s
  | some k =>
    if k.yield = .complete ∧ k.ib ≠ 0 ∧ k.mb ≠ 0 then
      .next (unstop (s.setCrew c slot { k with yield := .none, opening := 2 }) c slot)
    else .next s

/-! ### Heartbeats (R341, R351) -/

/-- A control block that a captured core left mid-update is rolled back (R341). -/
def rollBack (s : State) (c cb : Nat) : State :=
  let w0 := cbWord s cb 0
  if fld w0 0 0 = 0 ∨ fld w0 39 32 ≠ c then s
  else
    let s1 := if fld (cbWord s (cb + 256) 0) 31 0 ≠ fld w0 31 0 then s
      else ((List.range 31).map fun i => i + 1).foldl (fun s i =>
        cbWrite s (cb + 8 * i) (cbWord s (cb + 256) i)) s
    cbWrite s1 cb (setFld (setFld w0 39 32 0) 31 0 (fld w0 31 0 + 1))

/-- The place entries that name a core are marked absent (R321, R323, R351). -/
def dropPlaces (s : State) (c : Nat) : State :=
  (s.mod.places.cells.filter fun p => bit p.2 15 && fld p.2 7 0 == c).foldl
    (fun s p => setPlace s p.1 0) s

/-- A core is halted and captured (R214, R322, R341, R351). -/
def captureCore (s : State) (c : Nat) : State :=
  let slots := uncleared s c
  let s1 := engineSquash s c (regionTags s c slots)
  let s2 := slots.foldl (fun s x => squashCrew s c x) s1
  let s3 := (s2.core c).crews.keys.foldl (fun s x => stopFibres (pullCrew s c x) c x) s2
  let s4 := s3.mapCore c fun co =>
    { co with
      halted := true, captured := true, tickStop := some (co.tickStop.getD s.now)
      caprec := setFld (setBit (setFld (setFld co.caprec 63 16
        (fld (tickOf s.now co) 47 0)) 15 12 1) 8 true) 7 0 c }
  let s5 := dropPlaces (checkLead s4) c
  (hostQueues s5).foldl (fun s cb => rollBack s c cb) s5

/-- HEARTBEAT_MISSED (R351): a period ends; the second one in a row without a beat halts and
captures the core. A core that the management core holds sends no beats and misses none. -/
def execHeartbeatMissed (c : Nat) (s : State) : Out :=
  let co := s.core c
  let us := usOf s.now
  if co.captured || decide (us < co.beatAt + fld co.hbctl 31 16) then .next s
  else
    let quiet := co.beatSeen || !bit co.hbctl 0 || co.halted || !s.mod.keepers
    let s1 := s.mapCore c fun co =>
      { co with beatAt := us, beatSeen := false, beats := if quiet then 0 else co.beats + 1 }
    if !quiet && decide (2 ≤ co.beats + 1) then .next (captureCore s1 c) else .next s1

/-! ### Watchdogs (R352) -/

/-- WATCHDOG (R352): COUNT has reached LIMIT. -/
def execWatchdog (c slot : Nat) (s : State) : Out :=
  match s.crew? c slot with
  | none => .next s
  | some k =>
    if k.wdLimit ≠ 0 ∧ k.wdCount = k.wdLimit ∧ k.wdSaid = false ∧ k.wdPast = false ∧
        bit (s.core c).hbctl 1 = true then
      .next (report (s.setCrew c slot { k with wdSaid := true }) c .watchdog slot
        (countingReason s c slot k) 0 0)
    else .next s

/-! ### Temperatures (R375, R376) -/

/-- The declared heat of a core's crews. -/
def coreHeat (s : State) (c : Nat) : Nat :=
  ((guests (s.core c)).map fun p => fld p.2.foot 13 0).sum

/-- Whether a place without a crew can take the crews of a core: its zone runs and its grant covers
their heat (R333, R376). -/
def coolPlace (s : State) (c n : Nat) : Bool :=
  (placeCore s n).any fun t =>
    let z := zoneOfCore t
    let x := zoneOfMod s.mod z
    let here := if zoneOfCore c = z then coreHeat s c else 0
    t != c && coreFree s t && zState x == 1 &&
      decide (zHeat x - here + coreHeat s c ≤ 70 * zGrant x)

/-- The place that a hot core moves to: of the lowest temperature, then of the lowest number. -/
def coolestPlace (s : State) (c : Nat) : Option Nat :=
  let temp := fun (n : Nat) => fld (s.core ((placeCore s n).getD 0)).thctl 63 56
  pickBy (fun a b => decide (temp a < temp b) || (temp a == temp b && decide (a < b)))
    ((List.range 256).filter (coolPlace s c))

/-- A core moves to the place that R376 names, if there is one. -/
def moveCool (s : State) (c : Nat) : State :=
  match coolestPlace s c with | some n => startMove s c n | none => s

/-- The thresholds in rising order: MIGT, THROT, SAVE, TRIP. -/
def threshold (w : W64) (i : Nat) : Nat := fld w (31 + 8 * i) (24 + 8 * i)

/-- A threshold is armed again once the temperature is 5 degrees below it. -/
def rearm (temp : Nat) (w : W64) (armed : BitVec 4) : BitVec 4 :=
  (List.range 4).foldl (fun a i =>
    if temp + 5 ≤ threshold w i then setBit a i true else a) armed

/-- TSTATE (R375). -/
def tstate (armed : BitVec 4) (slow : Bool) : Nat :=
  if !bit armed 2 then 3 else if slow then 2 else if !bit armed 0 then 1 else 0

/-- A threshold that is crossed is acted on once. -/
def crossed (s : State) (c temp i : Nat) : State :=
  let co := s.core c
  if !bit co.armed i || decide (temp < threshold co.thctl i) then s
  else
    let s1 := s.mapCore c fun co => { co with armed := setBit co.armed i false }
    match i with
    | 0 => moveCool (report s1 c .thermalMigrate 0 0 0 0) c
    | 1 => report (s1.mapCore c fun co => { co with slow := true }) c .thermalThrottle 0 0 0 0
    | 2 => startSave (report s1 c .emergencySave 0 0 0 0)
    | _ => cutRail s1

/-- THERMAL_SAMPLE (R375, R376). -/
def execThermalSample (c : Nat) (temp : BitVec 8) (s : State) : Out :=
  let t := temp.toNat
  let s1 := s.mapCore c fun co =>
    { co with thctl := setFld co.thctl 63 56 t, armed := rearm t co.thctl co.armed
              slow := co.slow && !decide (t + 5 < threshold co.thctl 1) }
  let s2 := (List.range 4).foldl (fun s i => crossed s c t i) s1
  .next (s2.mapCore c fun co => { co with thctl := setFld co.thctl 19 16 (tstate co.armed co.slow) })

/-! ### Coolant (R331, R335 to R337) -/

/-- The core whose Keeper is the Keeper of a die: the lead core for die 0 (R322), for another die
the lowest usable core that a place names (log entry 46). -/
def dieKeeper (s : State) (d : Nat) : Nat :=
  if d = 0 then leadCore s
  else (((List.range 64).map fun i => 64 * d + i).find? fun c =>
    coreUsable s c && !(s.core c).captured && coreNamed s c).getD (64 * d)

/-- A coolant report: the zone, and the unit code of its valve (R335, R416). -/
def zoneReport (s : State) (z : Nat) (cause : Cause) : State :=
  report s (dieKeeper s (z / 16)) cause 0 z (BitVec.ofNat 64 (0x9000 + z)) 0

/-- The controller watches a zone (R335, R337): a count starts when its condition becomes true and
ends with it, and a flow below 90 percent of the grant fails the verification that runs. -/
def watchZone (s : State) (z : Nat) : State :=
  let x := zoneOfMod s.mod z
  let since := fun (on : Bool) (t : Option Nat) => if on then some (t.getD (usOf s.now)) else none
  let y : Zone :=
    { x with lowAt := since (lowFlow s.mod x) x.lowAt, hotAt := since (highDt s.mod x) x.hotAt
             gasNow := x.gasNow || (zStep x == 6 && flowBelow x 90) }
  if y = x then s else mapZone s z fun _ => y

/-- Whether a microsecond of the controller's timer ends with this cycle: gas found in it has been
reported by then, and the other conditions follow in the order of R335. -/
def usEnds (s : State) : Bool := (s.now + 1) % Config.ccPerUs == 0

/-- COOLANT_LOW_FLOW (R335). -/
def execCoolantLowFlow (z : Nat) (s : State) : Out :=
  let x := zoneOfMod s.mod z
  if usEnds s && lowFlow s.mod x && !bit x.w3 0 && x.lowAt.any fun t => decide (t + 10000 ≤ usOf s.now) then
    .next (zoneReport (mapZone s z fun x => { x with w3 := setBit x.w3 0 true }) z .lowFlow)
  else .next s

/-- COOLANT_HIGH_DT (R335). -/
def execCoolantHighDt (z : Nat) (s : State) : Out :=
  let x := zoneOfMod s.mod z
  if usEnds s && highDt s.mod x && !bit x.w3 1 && x.hotAt.any fun t => decide (t + 1000 ≤ usOf s.now) then
    .next (zoneReport (mapZone s z fun x => { x with w3 := setBit x.w3 1 true }) z .highDt)
  else .next s

/-- A step of the evacuation begins. -/
def zoneStep (us st step : Nat) (x : Zone) : Zone :=
  { x with w0 := setFld (setFld x.w0 39 37 st) 36 34 step, stepAt := us, gasNow := false }

/-- The inlet valve goes to a position. -/
def zoneValve (pos : BitVec 8) (x : Zone) : Zone := { x with w1 := setFld x.w1 55 48 pos.toNat }

/-- COOLANT_GAS (R335, R337): the flag and EVREQ are set in one step; in steps 2 to 6 the sequence
starts again at step 2, and during step 1 nothing changes. -/
def execCoolantGas (z : Nat) (s : State) : Out :=
  let x := zoneOfMod s.mod z
  let us := usOf s.now
  let step := zStep x
  let go := fun (y : Zone) =>
    if zState x = 1 then evacStart us y
    else if 2 ≤ step ∧ step ≤ 6 then zoneValve 0 (zoneStep us 2 2 y)
    else y
  let s1 := mapZone s z fun y => go { y with w3 := setBit y.w3 2 true }
  .next (if zStep x = 1 then s else if bit x.w3 2 then s1 else zoneReport s1 z .gas)

/-- The crews of a core whose emergency save is over leave the zone, kept by the Keeper for their
restore (R337, R369). -/
def zoneLeave (s : State) (c : Nat) : State :=
  (recordList (s.core c)).foldl (fun s (slot, off, k) =>
    let e : Evicted :=
      { crew := { atRest k with gang := 0, still := false, move := none, region := none }
        late := .empty, addr := BitVec.ofNat 56 (esBase s c + off)
        place := (coreOfPlace? s c).getD k.place.toNat, wake := false }
    (leaveCore s c slot).mapCore c fun co => { co with evicted := co.evicted ++ [e] }) s

/-- Whether a core has a crew beside its Keeper's. -/
def hasCrew (s : State) (c : Nat) : Bool := (s.core c).crews.keys.any fun x => !isKeeper x

/-- Step 1 for one core of the zone: before the limit its Keeper moves the crews away; from the
limit on they are saved and leave. -/
def evacuateCore (late : Bool) (s : State) (c : Nat) : State :=
  let co := s.core c
  if !hasCrew s c then s
  else if !late then (if moveBusy co then s else moveCool s c)
  else if co.saveSeq.isSome then s
  else if co.halted then zoneLeave s c
  else
    let s1 := dropMove s c
    let s2 := if s1.mod.saving then s1
      else s1.mapMod fun m => { m with esctl := setFld m.esctl 24 0 (fld m.esctl 24 0 + 1) }
    s2.mapCore c fun co => { co with saveSeq := some (esSeq s2) }

/-- The four cores of a zone are powered down (R337, step 3). -/
def zoneOff (s : State) (z : Nat) : State :=
  (zoneCores z).foldl (fun s c => s.mapCore c fun co =>
    { co with halted := true, tlb := [], l1 := [], icache := [] }) s

/-- The end of an evacuation that failed (R337). -/
def zoneFail (s : State) (z : Nat) : State :=
  let s1 := mapZone s z fun x =>
    { x with w0 := setFld (setFld (setFld (setFld x.w0 55 48 0) 39 37 4) 36 34 0) 33 32 3
             w3 := setBit x.w3 7 false }
  let s2 := (zoneCores z).foldl dropPlaces s1
  let s3 := s2.mapMod fun m => { m with flowQ := m.flowQ.filter fun y => y != z }
  checkLead (zoneReport (serveFlow s3) z .coolFailed)

/-- Step 7: the cores come up in the stagger (R337, R420). -/
def zoneUp (s : State) (z : Nat) : State :=
  let up := staggerFrom (usOf s.now) (fld s.mod.pwrctl 23 16) (zoneCores z)
  (mapZone s z (zoneStep (usOf s.now) 2 7)).mapMod fun m => { m with stagger := m.stagger ++ up }

/-- The valve position for GRANT that the ramp of a zone's step 5 ends at. -/
def rampEnd (z : Nat) (x : Zone) : BitVec 8 := Config.valvePos z x.stepAt (zGrant x)

/-- VPOS during the ramp (R337, step 5): it rises, and not beyond the position for GRANT; the way it
takes is open. -/
def zoneRamp (z us : Nat) (x : Zone) : Zone :=
  let free := (Config.valvePos z us (zGrant x)).toNat
  zoneValve (BitVec.ofNat 8 (max (fld x.w1 55 48) (min (rampEnd z x).toNat free))) x

/-- EVACUATION_STEP (R337): the current step of a zone goes on, or ends and the next begins. -/
def execEvacuationStep (z : Nat) (s : State) : Out :=
  let x := zoneOfMod s.mod z
  let us := usOf s.now
  let over_ := fun (n : Nat) => decide (x.stepAt + n ≤ us)
  let next := fun (st step : Nat) => mapZone s z (zoneStep us st step)
  match zStep x with
  | 1 =>
    if zHeat x = 0 then .next (mapZone s z fun x => zoneValve 0 (zoneStep us 2 2 x))
    else .next ((zoneCores z).foldl (evacuateCore (over_ 5000)) s)
  | 2 => .next (if over_ 20000 then zoneOff (next 3 3) z else s)
  | 3 => .next (if over_ 1000 then next 3 4 else s)
  | 4 =>
    .next (if over_ 500000 then next 3 5 else s)
  | 5 =>
    .next (if over_ 50000 then mapZone s z fun x => zoneStep us 3 6 (zoneValve (rampEnd z x) x)
      else mapZone s z (zoneRamp z us))
  | 6 =>
    if !over_ 200000 then .next s
    else if !x.gasNow && !flowBelow x 90 then .next (zoneUp s z)
    else if zTries x + 1 < 3 then
      .next (mapZone s z fun x => zoneValve 0 (zoneStep us 2 2
        { x with w0 := setFld x.w0 33 32 (zTries x + 1) }))
    else .next (zoneFail s z)
  | _ => .next s

/-- FLOW_MEASURE (R331, R422): the readings of a zone. While the zone runs the controller sets the
valve. -/
def execFlowMeasure (z : Nat) (flow tin tout : BitVec 16) (s : State) : Out :=
  let us := usOf s.now
  let s1 := mapZone s z fun x =>
    let x1 : Zone := { x with w1 := setFld x.w1 15 0 flow.toNat
                              w2 := setFld (setFld x.w2 47 32 tout.toNat) 31 16 tin.toNat }
    if zState x = 1 then zoneValve (Config.valvePos z us (zGrant x)) x1 else x1
  let total := (s1.mod.zones.vals.map fun (x : Zone) => fld x.w1 15 0).sum / 16
  let show_ := fun (w : W64) => setFld (setFld (setFld w 63 48 total) 47 32 tout.toNat) 31 16 tin.toNat
  .next (s1.mapMod fun m => { m with modcool := show_ m.modcool })

end Sys2Proof.Machine
end

