-- ==== Sys2Proof/Machine/Boot.lean ====
section
/-! DEFINITION. Module reset and boot, the fuses, images and their checks, measurements and
attestation, and BIST (R321, R322, R411 to R417, R420). -/
namespace Sys2Proof.Machine
open Sys2Proof

/-! ### Units that failed (R416) -/

def unitKind (u : BitVec 16) : Nat := fld u 15 12
def unitIdx (u : BitVec 16) : Nat := fld u 11 0

/-- The cores that failed units make unusable. -/
def deadCores (failed : List (BitVec 16)) : List Nat :=
  dedup (failed.map fun u =>
    match unitKind u with
    | 0 => [unitIdx u]
    | 1 => (List.range 8).map fun j => 8 * unitIdx u + j
    | 9 => zoneCores (unitIdx u)
    | _ => []).flatten

/-- Unit codes in rising order. -/
def sortUnits (l : List (BitVec 16)) : List (BitVec 16) :=
  (l.foldl (fun t u => insertNat u.toNat t) []).map (BitVec.ofNat 16)

/-- Whether a unit failed that stops the boot (R411). -/
def essential (u : BitVec 16) : Bool := [2, 3, 4, 6, 8].contains (unitKind u)

/-- What BIST finds: cores that are not usable, sensors that are off, zones in FAILED, ports that
stay down (R324, R416). -/
def bistFound (s : State) (failed : List (BitVec 16)) : State :=
  let s1 := s.mapMod fun m =>
    { m with bistFailed := sortUnits failed, bistBusy := false, bistDone := true
             bad := deadCores failed
             sensOff := (failed.filter fun u => unitKind u == 7).map unitIdx
             cvcfg := failed.foldl (fun w u =>
               if unitKind u = 5 ∧ unitIdx u < 16 then setBit w (unitIdx u) false else w) m.cvcfg }
  (failed.filter fun u => unitKind u == 9).foldl (fun s u => mapZone s (unitIdx u) fun x =>
    { x with w0 := setFld (setFld (setFld x.w0 55 48 0) 39 37 4) 36 34 0 }) s1

/-- A change of BISTSTAT.DONE signals the host (R403). -/
def bistSignal (old s : State) : State := if old.mod.bistDone = s.mod.bistDone then s else msiSend s

/-! ### Step 1 (R411) -/

/-- BOOTSTAT takes a value; a change signals the host (R403). -/
def bootstatSet (s : State) (w : W64) : State :=
  if s.mod.bootstat = w then s else msiSend (s.mapMod fun m => { m with bootstat := w })

/-- The boot stops with a failure (R411, R412). -/
def bootFail (s : State) (code : Nat) : State :=
  bootstatSet (s.mapMod fun m => { m with boot := .failed })
    (setFld (setFld s.mod.bootstat 23 16 code) 15 8 code)

/-- The units that come up at module start: the LLC dies and the LPDDR-5X channels 100 microseconds
apart, then the clusters STAG apart (R420). -/
def startStagger (us stag : Nat) : List (Nat × Nat) :=
  staggerFrom us 100 ((List.range 16).map (· + 0x2000) ++ (List.range 32).map (· + 0x3000)) ++
    staggerFrom (us + 4800) stag ((List.range 32).map (· + 0x1000))

/-- What a module reset leaves: everything as after power-on, but for the fuses, the memories and
what has gone out to the host (R411, R413). -/
def resetModule (s : State) : State :=
  { State.reset with
    now := s.now, agenda := s.agenda, mem := s.mem, llc := s.llc
    mod := { Module.reset with
      keySlot1 := s.mod.keySlot1, policy := s.mod.policy, rollback := s.mod.rollback
      attCount := s.mod.attCount, msi := s.mod.msi, outbox := s.mod.outbox, coolAt := usOf s.now
      hostReads := s.mod.hostReads, atsDone := s.mod.atsDone
      stagger := startStagger (usOf s.now) 20 } }

/-- The lowest core of die 0 that passes BIST (R322). -/
def bootLead (s : State) : Option Nat := (List.range 64).find? fun c => !s.mod.bad.contains c

/-- MODULE_RESET and step 1 of the boot (R322, R411, R415): the failing units, the dies whose key
check failed, and whether the memory trained. -/
def execModuleReset (failed : List (BitVec 16)) (badKeys : List Nat) (trained : Bool) (s : State) :
    Out :=
  let s1 := bistSignal s (bistFound (resetModule s) failed)
  match bootLead s1 with
  | none => .next (bootFail s1 0x86)
  | some lead =>
    if failed.any essential then .next (bootFail s1 0x86)
    else if !badKeys.isEmpty then .next (bootFail s1 0x87)
    else
      let s2 := s1.mapMod fun m => { m with bootstat := setFld m.bootstat 55 48 lead }
      if !trained then .next (bootFail s2 0x84)
      else .next (bootstatSet (s2.mapMod fun m => { m with boot := .waitGo (usOf s.now) })
        (setFld s2.mod.bootstat 23 16 1))

/-! ### Images (R413) -/

/-- A field of an image's header, little-endian (R5). -/
def imageNum (img : List Byte) (i : Nat) : Nat :=
  let p := Config.imageField i
  ofBytes ((img.drop p.1).take p.2)

/-- Whether a header is good: MAGIC, and a length of at most 64 MiB that holds a signature. -/
def headerGood (img : List Byte) : Bool :=
  imageNum img 0 == 0x57465846 && decide (64 ≤ imageNum img 1) &&
    decide (imageNum img 1 ≤ 0x4000000)

/-- Whether a key verifies an image: its last 64 bytes are r and s, little-endian (R5), over the digest
of the rest (R413). -/
def imageSigned (img : List Byte) (key : Nat × Nat) : Bool :=
  let n := img.length - 64
  ecdsaVerify key (sha256 (img.take n)) (ofBytes ((img.drop n).take 32)) (ofBytes (img.drop (n + 32)))

/-- The key that verifies a host image: slot 1 first, then slot 0 unless the policy bit is 1. -/
def admittedKey (m : Module) (img : List Byte) : Option Nat :=
  if m.keySlot1.any (imageSigned img) then some 1
  else if !m.policy && imageSigned img Config.keySlot0 then some 0
  else none

/-- Bytes of device memory as they stand. -/
def deviceBytes (s : State) (pa n : Nat) : List Byte :=
  (List.range n).map fun i => homeGet s (pa + i)

/-- The host's image: its header is read first, then as many bytes as its length says. -/
def stagedImage (s : State) : List Byte :=
  let pa := fld s.mod.bootctl 39 16 * 65536
  let head := ((List.range 4).map fun i => (Config.imageField i).1 + (Config.imageField i).2).foldl
    max 0
  let h := deviceBytes s pa head
  if headerGood h then deviceBytes s pa (imageNum h 1) else h

/-- The check of a host image: the key that verified it, or the failure code. -/
def hostImage (s : State) (img : List Byte) : Except Nat Nat :=
  if !headerGood img then .error 0x80
  else match admittedKey s.mod img with
    | none => .error 0x81
    | some key => if imageNum img 2 < s.mod.rollback then .error 0x82 else .ok key

/-! ### Step 5: measurements and the Keepers (R90, R321, R411, R415) -/

/-- BISTLIST as bytes (R417). -/
def bistListBytes (s : State) : List Byte :=
  ((List.range 256).map fun i => toBytes 2 (s.mod.bistFailed.getD i 0xFFFF).toNat).flatten

/-- The four measurements. -/
def measure (s : State) (img : List Byte) : State :=
  let m := s.mod
  let fuses := Config.fuseBytes Config.keySlot0 m.keySlot1 m.policy m.rollback
  s.mapMod fun m => { m with meas :=
    ⟨[(0, sha256 Config.bootRom), (1, sha256 img), (2, sha256 fuses), (3, sha256 (bistListBytes s))]⟩ }

/-- The Keeper of die 0 fills the place table: place n has core n if it is usable (R321). -/
def fillPlaces (s : State) : State :=
  let t : Tab W64 := ⟨((List.range 256).filter (coreUsable s)).map fun n =>
    (n, BitVec.ofNat 64 (0x8000 + n))⟩
  s.mapMod fun m => { m with places := t, placesNow := t }

/-- TR of every core (R90). -/
def setTr (s : State) (on : Bool) : State :=
  (List.range Config.cores).foldl (fun s c => s.mapCore c fun co =>
    { co with trmode := setBit co.trmode 0 on }) s

/-- The Keeper's own crew at its start (log entry 52). -/
def keeperCrew (c : Nat) : Crew :=
  { newCrew Config.noTenant 0 c Config.keeperFoot ⟨Config.keeperSlot, 0, 0, 0, 0, 0⟩ with
    fibres := allFibres Config.keeperFoot (Config.keeperEntry c)
    ib := 0xFFFFFFFFFFFF, mb := 0xFFFFFFFFFFFF
    cont := (Config.keeperEntry c).setWidth 64, opening := 2 }

/-- The Keeper of a usable core starts; the clocks of a core whose cluster is still to come up
start then (R420). -/
def startKeeper (s : State) (c : Nat) : State :=
  let s1 := s.mapCore c fun co =>
    { co with crews := co.crews.put Config.keeperSlot (keeperCrew c) }
  let s2 := if s.mod.stagger.any fun p => p.2 == 0x1000 + clusterOf c then s1 else startCore s1 c
  unstop s2 c Config.keeperSlot

/-- Step 5 of the boot with an image: version, key and whether it is the recovery image. A lead core
that no place names is replaced at once (R322). -/
def bootRun (s : State) (img : List Byte) (key : Nat) (recov : Bool) : State :=
  let s1 := measure s img
  let s2 := s1.mapMod fun m =>
    { m with rollback := if recov then m.rollback else max m.rollback (min 64 (imageNum img 3))
             boot := .running, keepers := true, stageImg := some img }
  let s3 := checkLead (((List.range Config.cores).filter (coreUsable s2)).foldl startKeeper (fillPlaces s2))
  let w := setFld (setFld (setFld s3.mod.bootstat 47 32 (imageNum img 2)) 31 24 key) 23 16 0
  bootstatSet (setTr s3 false) (setBit (setBit w 1 recov) 0 true)

/-- The recovery image: checked by its signature alone, against slot 0 (R413, R414). -/
def bootRecovery (s : State) : State :=
  match Config.recoveryImage with
  | none => bootFail s 0x83
  | some img => if imageSigned img Config.keySlot0 then bootRun s img 0 true else bootFail s 0x81

/-- Steps 3 to 5 (R411). -/
def bootLoad (s : State) (src : Bool) : State :=
  if src then bootRecovery s
  else
    let img := stagedImage s
    match hostImage s img with
    | .ok key => bootRun s img key false
    | .error code => bootRecovery (bootstatSet s (setFld s.mod.bootstat 15 8 code))

/-- Whether the boot is in step 2. -/
def bootWaits (s : State) : Bool := match s.mod.boot with | .waitGo _ => true | _ => false

/-- BOOT_GO_TIMEOUT (R411, R414): 60 s in step 2 without GO. -/
def execBootGoTimeout (s : State) : Out :=
  match s.mod.boot with
  | .waitGo t => .next (if t + 60000000 ≤ usOf s.now then bootLoad s true else s)
  | _ => .next s

/-- STAGE and SRC of BOOTCTL (R412). -/
def bootFields (s : State) (stage : BitVec 24) (src : Bool) : State :=
  s.mapMod fun m => { m with bootctl := setBit (setFld m.bootctl 39 16 stage.toNat) 1 src }

/-- Command bits of BOOTCTL written with 1, which stand from then on: no rule clears them (R7, R412). -/
def bootBits (s : State) (bits : W64) : State :=
  s.mapMod fun m => { m with bootctl := m.bootctl ||| (bits &&& 0xD) }

/-- BOOTCTL_GO (R411): ignored outside step 2. -/
def execBootctlGo (stage : BitVec 24) (src : Bool) (s : State) : Out :=
  let s1 := bootBits (bootFields s stage src) 1
  .next (if bootWaits s then bootLoad s1 src else s1)

/-- A fuse is refused: LASTERR (R413). -/
def fuseRefused (s : State) : State := bootstatSet s (setFld s.mod.bootstat 15 8 0x85)

/-- The point of KEYBUF: two 32-byte numbers, little-endian as every value in memory (R5). -/
def keyPoint (m : Module) : Nat × Nat :=
  (ofBytes (padBytes 64 m.keybuf |>.take 32), ofBytes (padBytes 64 m.keybuf |>.drop 32))

/-- PROG in step 2: KEYBUF is burned into a blank slot 1 if it is a point of the curve. -/
def fuseKey (s : State) : State :=
  if !bootWaits s then s
  else if s.mod.keySlot1.isNone && onCurve (keyPoint s.mod) then
    s.mapMod fun m => { m with keySlot1 := some (keyPoint m) }
  else fuseRefused s

/-- LOCK in step 2: the policy bit is burned if slot 1 is programmed. -/
def fusePolicy (s : State) : State :=
  if !bootWaits s then s
  else if s.mod.keySlot1.isSome then s.mapMod fun m => { m with policy := true }
  else fuseRefused s

/-- BOOTCTL_PROG, BOOTCTL_LOCK (R413). -/
def execBootctlProg (s : State) : Out := .next (fuseKey (bootBits s 4))
def execBootctlLock (s : State) : Out := .next (fusePolicy (bootBits s 8))

/-! ### Attestation (R415) -/

/-- ATTCTL takes a value; a change of DONE signals the host (R403). -/
def attctlSet (s : State) (w : W64) : State :=
  let s1 := s.mapMod fun m => { m with attctl := w }
  if bit s.mod.attctl 1 = bit w 1 then s1 else msiSend s1

/-- GO of ATTCTL: it reads 1 from then on (R7), and is ignored while a signature is being made. -/
def attGo (s : State) : State :=
  if s.mod.attWork.isSome then s
  else attctlSet (s.mapMod fun m => { m with attWork := some (padBytes 32 m.attnonce) }) 1

/-- ATTCTL_GO (R415). -/
def execAttctlGo (s : State) : Out := .next (attGo s)

/-- What ATTSIG signs. -/
def attMessage (m : Module) (nonce : List Byte) : List Byte :=
  nonce ++ (((List.range 4).map fun i => padBytes 32 (m.meas.getD i [])).flatten ++
    padBytes 64 Config.devPub)

/-- ATTESTATION_DONE (R415). -/
def execAttestationDone (s : State) : Out :=
  match s.mod.attWork with
  | none => .next s
  | some nonce =>
    .next (attctlSet (s.mapMod fun m =>
      { m with attsig := Config.attSign m.attCount (sha256 (attMessage m nonce))
               attWork := none, attCount := m.attCount + 1 }) 3)

/-! ### BIST (R417) -/

/-- RUN: with no launch active and the module READY; TR is 1 on every core, and none issues. The bit
reads 1 from the write on (R7). -/
def bistRun (s0 : State) : State :=
  let s := s0.mapMod fun m => { m with bistctl := 1 }
  if s.mod.bistBusy then s
  else if s.mod.launches.cells.isEmpty && bit s.mod.bootstat 0 then
    let s1 := s.mapMod fun m =>
      { m with bistBusy := true, bistDone := false, bistRefused := false, keepers := false }
    let s2 := (List.range Config.cores).foldl (fun s c => s.mapCore c fun co =>
      { co with halted := true }) s1
    bistSignal s (setTr s2 true)
  else s.mapMod fun m => { m with bistRefused := true }

/-- BISTCTL_RUN (R417). -/
def execBistctlRun (s : State) : Out := .next (bistRun s)

/-- BIST_DONE (R321, R417, R420): the Keepers fill the place table again, the cores restart in the
stagger and TR is cleared. -/
def execBistDone (failed : List (BitVec 16)) (s : State) : Out :=
  if !s.mod.bistBusy then .next s
  else
    let s1 := (bistFound s failed).mapMod fun m => { m with keepers := true }
    let units := (List.range 32).map (· + 0x1000)
    let up := staggerFrom (usOf s.now) (fld s.mod.pwrctl 23 16) units
    let s2 := (fillPlaces s1).mapMod fun m => { m with stagger := m.stagger ++ up }
    .next (bistSignal s (checkLead (setTr s2 false)))

end Sys2Proof.Machine
end

