-- ==== Sys2Proof/Machine/Trans.lean ====
section
/-! DEFINITION. The four functions of R143 on `f32`. Where R143 lists no exact value the
result lies strictly between two `f32` values; it is computed in fixed point with 384 fraction
bits and a sticky last bit, and rounded by R80 and R81 (log entry 7: the error of the fixed
point, below 2 to the -370, is far under the distance of any exact value to a rounding
boundary that is known for `f32`). -/
namespace Sys2Proof.Trans

/-- Fraction bits of the fixed point. -/
def prec : Nat := 384

/-- One in fixed point. -/
def one : Int := 2 ^ prec

/-- The natural logarithm of 2, rounded down. -/
def ln2 : Int := 0xb17217f7d1cf79abc9e3b39803f2f6af40f343267298b62d8a0d175b8baafa2be7b876206debac98559552fb4afa1b10

/-- Pi, rounded down. -/
def pi : Int := 0x3243f6a8885a308d313198a2e03707344a4093822299f31d0082efa98ec4e6c89452821e638d01377be5466cf34e90c6c

/-- The product of two fixed-point numbers. -/
def fmul (a b : Int) : Int := a * b / one

/-- The sum of the series term, term*x/i, ... of e^x with n further terms. -/
def expSum : Nat → Nat → Int → Int → Int
  | 0, _, _, _ => 0
  | n + 1, i, x, term => term + expSum n (i + 1) x (fmul term x / i)

/-- The sum of z + z^3/3 + z^5/5 + ... with n terms. -/
def atanhSum : Nat → Nat → Int → Int → Int
  | 0, _, _, _ => 0
  | n + 1, i, z2, pw => pw / i + atanhSum n (i + 2) z2 (fmul pw z2)

/-- The alternating series of sine (i = 2) or cosine (i = 1) from its first term. -/
def altSum : Nat → Nat → Int → Int → Int
  | 0, _, _, _ => 0
  | n + 1, i, x2, term => term - altSum n (i + 2) x2 (fmul term x2 / (i * (i + 1)))

/-- A positive fixed-point number that is not exact, as a value with a sticky last bit. -/
def inexact (s : Bool) (x : Int) (k : Int) : FVal :=
  .fin s (2 * x.toNat + 1) (k - prec - 1)

/-- A finite value in fixed point: exact for every `f32` magnitude below 2^24. -/
def fixed (m : Nat) (e : Int) : Int := (m : Int) * 2 ^ (e + prec).toNat

/-- 2^a (R143). A magnitude of 512 or more rounds as 2^512 or 2^-512 does. -/
def exp2 : FVal → FVal
  | .nan _ => .nan false
  | .inf s => if s then .fin false 0 0 else .inf false
  | .fin s m e =>
    if m = 0 then .fin false 1 0
    else if 512 ≤ m * 2 ^ e.toNat ∧ 0 ≤ e ∨ e < 0 ∧ 512 ≤ m / 2 ^ (-e).toNat then
      .fin false 1 (if s then -512 else 512)
    else
      let x := if s then -(fixed m e) else fixed m e
      let n := x / one
      let f := x - n * one
      if f = 0 then .fin false 1 n
      else inexact false (expSum 90 1 (fmul f ln2) one) n

/-- log2 a (R143). -/
def log2 : FVal → FVal
  | .nan _ => .nan false
  | .inf s => if s then .nan false else .inf false
  | .fin s m e =>
    if m = 0 then .inf true
    else if s then .nan false
    else
      let k := Nat.log2 m
      let n : Int := k + e
      if m = 2 ^ k then FVal.ofInt n 0
      else
        let x : Int := (m : Int) * 2 ^ (prec - k)
        let z := (x - one) * one / (x + one)
        let l := 2 * atanhSum 130 1 (fmul z z) z
        let v := n * one + l * one / ln2
        inexact (decide (v < 0)) (if v < 0 then -v - 1 else v) 0

/-- The argument of R143 in half-turns modulo 2, in fixed point. -/
def turn (s : Bool) (m : Nat) (e : Int) : Int :=
  let x := if 0 ≤ e then (m : Int) * 2 ^ (min e 2).toNat * one else fixed m e
  let y := x % (2 * one)
  if s ∧ y ≠ 0 then 2 * one - y else y

/-- sin(pi * r) for r strictly between 0 and 1/2, in fixed point. -/
def sinFix (r : Int) : Int :=
  let x := fmul r pi
  altSum 60 2 (fmul x x) x

/-- cos(pi * r) for r strictly between 0 and 1/2, in fixed point. -/
def cosFix (r : Int) : Int :=
  let x := fmul r pi
  altSum 60 1 (fmul x x) one

/-- sin(pi * y) for y in [0, 2) half-turns (R143): exact at the multiples of 1/2. -/
def sinTurn (y : Int) : FVal :=
  let h := one / 2
  let neg := decide (one < y)
  let r := if one ≤ y then y - one else y
  if y = 0 ∨ y = one then .fin false 0 0
  else if r = h then .fin neg 1 0
  else if r < h then
    (if 2 * r ≤ h then inexact neg (sinFix r) 0 else inexact neg (cosFix (h - r)) 0)
  else
    (if h + h / 2 ≤ r then inexact neg (sinFix (one - r)) 0
     else inexact neg (cosFix (r - h)) 0)

/-- sin(pi * a) (R143). -/
def sin : FVal → FVal
  | .nan _ | .inf _ => .nan false
  | .fin s m e => if m = 0 then .fin s 0 0 else sinTurn (turn s m e)

/-- cos(pi * a) (R143): a quarter turn ahead of the sine. -/
def cos : FVal → FVal
  | .nan _ | .inf _ => .nan false
  | .fin s m e => sinTurn ((turn s m e + one / 2) % (2 * one))

end Sys2Proof.Trans
end

