-- ==== Sys2Proof/Machine/FloatExec.lean ====
section
/-! DEFINITION. The floating-point, packed, conversion, scale and codebook instructions,
0x080 to 0x0A2 (R136 to R152). -/
namespace Sys2Proof.Machine
open Sys2Proof

/-- An instruction of one, two or three single registers and one single result. -/
def flt1 (i : Instr) (g : Guard) (d : Dst) (a : Src) (extra : Nat) (f : W64 → W64) :
    State → Out :=
  compute i g d false extra fun _ rd => f (rd false a)
def flt2 (i : Instr) (g : Guard) (d : Dst) (a b : Src) (extra : Nat) (f : W64 → W64 → W64) :
    State → Out :=
  compute i g d false extra fun _ rd => f (rd false a) (rd false b)
def flt3 (i : Instr) (g : Guard) (d : Dst) (a b c : Src) (extra : Nat)
    (f : W64 → W64 → W64 → W64) : State → Out :=
  compute i g d false extra fun _ rd => f (rd false a) (rd false b) (rd false c)

/-- The sign bit of a type's pattern cleared or flipped (R140). -/
def absBits (t : FTy) (a : W64) : W64 := BitVec.ofNat 64 (a.toNat % 2 ^ t.width % t.signBit)
def negBits (t : FTy) (a : W64) : W64 :=
  let x := a.toNat % 2 ^ t.width
  BitVec.ofNat 64 (if x < t.signBit then x + t.signBit else x - t.signBit)

def execFadd (g : Guard) (rm : Rm) (t : FTy) (d : Dst) (a b : Src) : State → Out :=
  flt2 (.fadd g rm t d a b) g d a b 0 fun x y => t.res rm (FVal.add rm (t.value x) (t.value y))

def execFsub (g : Guard) (rm : Rm) (t : FTy) (d : Dst) (a b : Src) : State → Out :=
  flt2 (.fsub g rm t d a b) g d a b 0 fun x y =>
    t.res rm (FVal.add rm (t.value x) (t.value y).negate)

def execFmul (g : Guard) (rm : Rm) (t : FTy) (d : Dst) (a b : Src) : State → Out :=
  flt2 (.fmul g rm t d a b) g d a b 0 fun x y => t.res rm (FVal.mul (t.value x) (t.value y))

def execFma (g : Guard) (rm : Rm) (t : FTy) (d : Dst) (a b c : Src) : State → Out :=
  flt3 (.fma g rm t d a b c) g d a b c 0 fun x y z =>
    t.res rm (FVal.add rm (FVal.mul (t.value x) (t.value y)) (t.value z))

def execFmin (g : Guard) (t : FTy) (d : Dst) (a b : Src) : State → Out :=
  flt2 (.fmin g t d a b) g d a b 0 fun x y => t.minmax false x y

def execFmax (g : Guard) (t : FTy) (d : Dst) (a b : Src) : State → Out :=
  flt2 (.fmax g t d a b) g d a b 0 fun x y => t.minmax true x y

def execFabs (g : Guard) (t : FTy) (d : Dst) (a : Src) : State → Out :=
  flt1 (.fabs g t d a) g d a 0 (absBits t)

def execFneg (g : Guard) (t : FTy) (d : Dst) (a : Src) : State → Out :=
  flt1 (.fneg g t d a) g d a 0 (negBits t)

def execFcmp (g : Guard) (c : FCond) (t : FTy) (d : Dst) (a b : Src) : State → Out :=
  flt2 (.fcmp g c t d a b) g d a b 0 fun x y =>
    if c.holds (t.value x) (t.value y) then 1 else 0

def execFclass (g : Guard) (t : FTy) (d : Dst) (a : Src) : State → Out :=
  flt1 (.fclass g t d a) g d a 0 fun x => BitVec.ofNat 64 (2 ^ t.classBit x)

def execFrcp (g : Guard) (rm : Rm) (t : FTy) (d : Dst) (a : Src) : State → Out :=
  flt1 (.frcp g rm t d a) g d a 7 fun x => t.res rm (FVal.recip (t.value x))

def execFrsq (g : Guard) (rm : Rm) (t : FTy) (d : Dst) (a : Src) : State → Out :=
  flt1 (.frsq g rm t d a) g d a 7 fun x => t.res rm (FVal.rsqrt (t.value x))

def execFsqrt (g : Guard) (rm : Rm) (t : FTy) (d : Dst) (a : Src) : State → Out :=
  flt1 (.fsqrt g rm t d a) g d a 7 fun x => t.res rm (FVal.sqrt (t.value x))

def execFexp2 (g : Guard) (rm : Rm) (d : Dst) (a : Src) : State → Out :=
  flt1 (.fexp2 g rm d a) g d a 7 fun x => FTy.f32.res rm (Trans.exp2 (FTy.f32.value x))

def execFlog2 (g : Guard) (rm : Rm) (d : Dst) (a : Src) : State → Out :=
  flt1 (.flog2 g rm d a) g d a 7 fun x => FTy.f32.res rm (Trans.log2 (FTy.f32.value x))

def execFsin (g : Guard) (rm : Rm) (d : Dst) (a : Src) : State → Out :=
  flt1 (.fsin g rm d a) g d a 11 fun x => FTy.f32.res rm (Trans.sin (FTy.f32.value x))

def execFcos (g : Guard) (rm : Rm) (d : Dst) (a : Src) : State → Out :=
  flt1 (.fcos g rm d a) g d a 11 fun x => FTy.f32.res rm (Trans.cos (FTy.f32.value x))

def execFround (g : Guard) (rm : Rm) (t : FTy) (d : Dst) (a : Src) : State → Out :=
  flt1 (.fround g rm t d a) g d a 0 fun x => t.res rm (FVal.roundInt rm (t.value x))

def execFdiv (g : Guard) (rm : Rm) (t : FTy) (d : Dst) (a b : Src) : State → Out :=
  flt2 (.fdiv g rm t d a b) g d a b (if t = .f32 then 15 else 7) fun x y =>
    t.res rm (FVal.div (t.value x) (t.value y))

def execDp4 (g : Guard) (rm : Rm) (ta tb : NTy) (d : Dst) (a b c : Src) : State → Out :=
  flt3 (.dp4 g rm ta tb d a b c) g d a b c 1 (dp4Val rm ta tb)

def execHfma2 (g : Guard) (rm : Rm) (t : FTy) (d : Dst) (a b c : Src) : State → Out :=
  flt3 (.hfma2 g rm t d a b c) g d a b c 0 (hfma2Val rm t)

def execSclq (g : Guard) (near : Bool) (d : Dst) (a b : Src) : State → Out :=
  flt2 (.sclq g near d a b) g d a b 3 (sclqVal near)

def execCvt (g : Guard) (rm : Rm) (sat : Bool) (td ts : NTy) (d : Dst) (a : Src) :
    State → Out :=
  compute (.cvt g rm sat td ts d a) g d td.wide 0 fun _ rd => cvtVal rm sat td ts (rd ts.wide a)

/-- `cvt.ef`: the destination receives the value, and the companion register of every active
fibre the new residue (R83, R149). -/
def execCvtEf (g : Guard) (sat : Bool) (td : FTy) (d : Dst) (a : Src) (comp : BitVec 8) :
    State → Out :=
  issue (fun s r => regsOf (r.narrow s) (.cvtEf g sat td d a comp)) fun s r =>
    let l := (lanesUnder s r g).map fun x =>
      let p := cvtEfVal sat td (srcVal x.crew r x.lane false a)
        ((regGet x.crew comp.toNat x.lane).setWidth 64)
      (x, latchVal x false d p.1, p.2)
    let w := l.filter fun p => p.1.act
    let cc := renameCc (w.map (·.1)) comp.toNat 1
    let r' := { r with lat := fillLatches r (l.map fun p => (p.1, p.2.1)) }
    let s1 := match d with
      | .reg b => writeLanes s r.core b.toNat 1 (w.map fun p => (p.1, p.2.1.toNat))
      | _ => s
    let s2 := writeLanes s1 r.core comp.toNat 1 (w.map fun p => (p.1, p.2.2.toNat))
    let cc' := match d with
      | .reg b => if b.toNat / 8 = comp.toNat / 8 then 0 else renameCc (w.map (·.1)) b.toNat 1
      | _ => 0
    finishLate s2 r' (1 + cc + cc')

def execCbenc (g : Guard) (nib : BitVec 3) (d : Dst) (a : Src) (scale : BitVec 8) (c : Src) :
    State → Out :=
  compute (.cbenc g nib d a scale c) g d false 1 fun _ rd =>
    cbencVal nib.toNat (rd false a) (rd false (.reg scale)) (rd false c)

def execCbdec (g : Guard) (nib : BitVec 3) (d : Dst) (a : Src) (scale : BitVec 8) :
    State → Out :=
  compute (.cbdec g nib d a scale) g d false 0 fun _ rd =>
    cbdecVal nib.toNat (rd false a) (rd false (.reg scale))

end Sys2Proof.Machine
end

