-- ==== Sys2Proof/Machine/HostPort.lean ====
section
/-! DEFINITION. The host at the CXL port: its reads and writes of device memory and registers, its
snoops, and its invalidations of translations (R166, R403, R404, R406, R418). -/
namespace Sys2Proof.Machine
open Sys2Proof

/-! ### Registers that the host writes (R403) -/

/-- Bytes laid over a byte store of n bytes at an offset. -/
def overBytes (n off : Nat) (new old : List Byte) : List Byte :=
  (List.range n).map fun i =>
    if off ≤ i ∧ i < off + new.length then new.getD (i - off) 0 else old.getD i 0

/-- A write of BOOTCTL: STAGE and SRC, then PROG, LOCK and GO (R411 to R413). -/
def bootctlPut (s : State) (w : W64) : State :=
  let s1 := bootBits (bootFields s (BitVec.ofNat 24 (fld w 39 16)) (bit w 1)) w
  let s2 := if bit w 2 then fuseKey s1 else s1
  let s3 := if bit w 3 then fusePolicy s2 else s2
  if bit w 0 && bootWaits s3 then bootLoad s3 (bit w 1) else s3

/-- A write of the host at BAR0 + off (R403). -/
def hostRegWrite (s : State) (off : Nat) (bytes : List Byte) : State :=
  let n := bytes.length
  let raw : W64 := BitVec.ofNat 64 (ofBytes bytes)
  let at_ := off / 8 * 8
  let over_ := fun (old : W64) => overWord old off n raw
  if 0x4200 ≤ off ∧ off < 0x4220 then
    s.mapMod fun m => { m with attnonce := overBytes 32 (off - 0x4200) bytes m.attnonce }
  else if 0x4400 ≤ off ∧ off < 0x4440 then
    s.mapMod fun m => { m with keybuf := overBytes 64 (off - 0x4400) bytes m.keybuf }
  else if n ≠ 4 ∧ n ≠ 8 then s
  else if at_ = 0x1000 then doorWrite n raw s
  else if at_ = 0x4000 then bootctlPut s (over_ (s.mod.bootctl &&& 0xFFFFFF0002))
  else if at_ = 0x4220 then (if bit (over_ 0) 0 then attGo s else s)
  else if at_ = 0x5000 then (if bit (over_ 0) 0 then bistRun s else s)
  else if at_ = 0x6000 then pwrctlPut s .host (over_ s.mod.pwrctl)
  else s

/-! ### Memory (R166, R404) -/

/-- A request of the host to device memory ends S4 (R418). -/
def memWake (s : State) : State := if s.mod.pstate.toNat = 4 then wakeModule s else s

/-- HOST_CXL_MEM_WRITE (R166): device memory, the device registers at BAR0, or the host's own
memory, whose copies in the clusters give way first (R404). -/
def execHostCxlMemWrite (pa : Nat) (bytes : List Byte) (s : State) : Out :=
  if !linkUp s then .next s
  else match zoneOf pa with
    | .device | .host => .next (moduleStore (memWake s) pa bytes)
    | .regs => .next (hostRegWrite s (pa - 0x20000000000) bytes)
    | _ => .next s

/-- Bytes of the device registers. -/
def regBytes (s : State) (pa n : Nat) : List Byte :=
  (List.range n).map fun i => BitVec.ofNat 8 (devRead s ((pa + i) / 8 * 8) 8 / 2 ^ (8 * ((pa + i) % 8)))

/-- HOST_CXL_MEM_READ (R166): the last-level cache's value; of a register, its word; of the host's
own memory, what the clusters hold of it as well (R404). -/
def execHostCxlMemRead (pa len : Nat) (s : State) : Out :=
  if !linkUp s then .next s
  else
    let out := fun (s : State) (l : List Byte) =>
      s.mapMod fun m => { m with hostReads := m.hostReads ++ [l] }
    match zoneOf pa with
    | .device =>
      let s1 := memWake s
      .next (out s1 (homeBytes s1 pa len))
    | .host =>
      let s1 := (dedup ((List.range len).map fun i => (pa + i) / 256)).foldl
        (fun s line => homeCollect s (line * 256)) s
      .next (out s1 (homeBytes s1 pa len))
    | .regs => .next (out s (regBytes s pa len))
    | _ => .next s

/-- CXL_CACHE_SNOOP (R404): a line of host memory is recalled or invalidated in every cluster. -/
def execCxlCacheSnoop (line : Nat) (inval : Bool) (s : State) : Out :=
  if zoneOf (line * 256) ≠ .host then .next s
  else .next (s.clusters.keys.foldl (fun s k =>
    if inval then l2Drop s k line else l2Clean s k line) s)

/-! ### Invalidations (R175, R406) -/

/-- The held effects and engine units of an address space, each with its core. -/
def heldOf (s : State) (pasid : BitVec 20) : List (Nat × Nat) :=
  (s.cores.cells.map fun (c, co) =>
    let mine := fun (slot : Nat) => (co.crews.get? slot).any fun k =>
      tctxPasid (tctxOf s slot k) == pasid
    ((co.lodge.filter fun e => mine e.slot).map fun e => (c, e.id)) ++
      (co.units.filter fun u => mine u.slot).map fun u => (c, u.id)).flatten

/-- Whether an effect has yet to apply at its home. -/
def stillHeld (s : State) (x : Nat × Nat) : Bool :=
  let co := s.core x.1
  (co.lodge.any fun e => e.id == x.2) || (co.units.any fun u => u.id == x.2) ||
    (List.range 4).any fun d => (s.net.getD (x.1 * 4 + d) []).any fun m =>
      match m with | .access e => e.id == x.2 | _ => false

/-- HOST_ATS_INVALIDATION (R406): the translations go at once, as no walk is in progress between
two steps; the completion waits for the held effects of the space. -/
def execHostAtsInvalidation (pasid : BitVec 20) (va len : Nat) (s : State) : Out :=
  if !linkUp s then .next s
  else
    let s1 := tlbClear s s.cores.keys s.clusters.keys ⟨pasid, va, va + len⟩
    .next (s1.mapMod fun m => { m with ats := m.ats ++ [(pasid, va, len, heldOf s pasid)] })

/-- Invalidations whose held effects have all applied are answered (R406). -/
def settleAts (s : State) : State :=
  let l := s.mod.ats.map fun x => (x.1, x.2.1, x.2.2.1, x.2.2.2.filter (stillHeld s))
  let done := (l.filter fun x => x.2.2.2.isEmpty).length
  s.mapMod fun m =>
    { m with ats := l.filter fun x => !x.2.2.2.isEmpty, atsDone := m.atsDone + done }

end Sys2Proof.Machine
end

