-- ==== Sys2Proof/Machine/Integer.lean ====
section
/-! DEFINITION. The integer, logic, move, comparison and address instructions, 0x000 to 0x020
and 0x040 to 0x060, and the predicate instructions 0x064 to 0x068 (R117 to R124). -/
namespace Sys2Proof.Machine
open Sys2Proof

/-! ### Values (R117 to R123) -/

/-- An exact result, saturated where SAT is set, in the layout of its type (R117). -/
def arith (t : ITy) (sat : Bool) (x : Int) : W64 :=
  t.toReg (wrap t.width (if sat then t.clamp x else x))

/-- `idiv` and `irem` (R117). -/
def divVal (t : ITy) (a b : W64) : W64 :=
  arith t false (if t.value b = 0 then -1 else (t.value a).tdiv (t.value b))
def remVal (t : ITy) (a b : W64) : W64 :=
  arith t false (if t.value b = 0 then t.value a else (t.value a).tmod (t.value b))

/-- The pattern of an operand of a type (R118). -/
def pat (t : ITy) (w : W64) : Nat := w.toNat % 2 ^ t.width

/-- The shift amount b mod w (R118). -/
def shAmt (t : ITy) (b : W64) : Nat := pat t b % t.width

/-- `shl`, `shr`, `sar` and `rot` by n (R118). -/
def shlVal (t : ITy) (a : W64) (n : Nat) : W64 := t.toReg (pat t a * 2 ^ n % 2 ^ t.width)
def shrVal (t : ITy) (a : W64) (n : Nat) : W64 := t.toReg (pat t a / 2 ^ n)
def sarVal (t : ITy) (a : W64) (n : Nat) : W64 :=
  t.toReg (wrap t.width (sextNat t.width (pat t a) / (2 ^ n : Nat)))
def rotVal (t : ITy) (a : W64) (n : Nat) : W64 :=
  t.toReg ((pat t a * 2 ^ n + pat t a / 2 ^ (t.width - n)) % 2 ^ t.width)

/-- The field of `bfx` and `bfi`: offset, and length cut at the width (R119). -/
def fieldOf (t : ITy) (sp : W64) : Nat × Nat :=
  let o := fld sp 7 0
  (o, if t.width ≤ o then 0 else min (fld sp 15 8) (t.width - o))

/-- `bfx` (R119). -/
def bfxVal (t : ITy) (a sp : W64) : W64 :=
  let (o, l) := fieldOf t sp
  if l = 0 then 0
  else
    let f := pat t a / 2 ^ o % 2 ^ l
    if t.signed then t.toReg (wrap t.width (sextNat l f)) else t.toReg f

/-- `bfi` (R119). -/
def bfiVal (t : ITy) (a b sp : W64) : W64 :=
  let (o, l) := fieldOf t sp
  let x := pat t a
  if l = 0 then t.toReg x
  else t.toReg (x - x / 2 ^ o % 2 ^ l * 2 ^ o + pat t b % 2 ^ l * 2 ^ o)

/-- An address result (R122). -/
def addrVal (x : Int) : W64 := BitVec.ofNat 64 (wrap 56 x)

/-- The address part of a pair, and an index or offset of 32 or 64 bits (R122). -/
def addrPart (a : W64) : Int := (a.toNat % 2 ^ 56 : Nat)
def offsetPart (wide : Bool) (b : W64) : Int := sextNat (if wide then 64 else 32) b.toNat

/-- One or zero. -/
def boolVal (b : Bool) : W64 := if b then 1 else 0

/-- A 31-bit immediate at the width of the operation (R63, R123). -/
def immVal (wide : Bool) (imm : BitVec 31) : W64 :=
  BitVec.ofInt 64 (if wide then sextNat 31 imm.toNat else (wrap 32 (sextNat 31 imm.toNat) : Nat))

/-- The operand type of an immediate form (R123). -/
def immTy (wide : Bool) : ITy := if wide then .n64 else .n32

/-! ### The shapes -/

/-- An instruction of two sources and one result of its type. -/
def int2 (i : Instr) (g : Guard) (t : ITy) (d : Dst) (a b : Src) (extra : Nat)
    (f : W64 → W64 → W64) : State → Out :=
  compute i g d t.wide extra fun _ rd => f (rd t.wide a) (rd t.wide b)

/-- An instruction of one source and one result of its type. -/
def int1 (i : Instr) (g : Guard) (t : ITy) (d : Dst) (a : Src) (f : W64 → W64) : State → Out :=
  compute i g d t.wide 0 fun _ rd => f (rd t.wide a)

/-- An immediate form (R123). -/
def intImm (i : Instr) (g : Guard) (wide : Bool) (d : Dst) (a : Src) (extra : Nat)
    (f : W64 → W64) : State → Out :=
  compute i g d wide extra fun _ rd => f (rd wide a)

/-- Extra cycles of a 64-bit multiply and of a division (R114). -/
def mulCc (wide : Bool) : Nat := if wide then 3 else 0
def divCc (t : ITy) : Nat := if t.wide then 31 else 15

/-! ### Integer arithmetic (R117) -/

def execIadd (g : Guard) (t : ITy) (sat : Bool) (d : Dst) (a b : Src) : State → Out :=
  int2 (.iadd g t sat d a b) g t d a b 0 fun x y => arith t sat (t.value x + t.value y)

def execIsub (g : Guard) (t : ITy) (sat : Bool) (d : Dst) (a b : Src) : State → Out :=
  int2 (.isub g t sat d a b) g t d a b 0 fun x y => arith t sat (t.value x - t.value y)

def execImul (g : Guard) (t : ITy) (d : Dst) (a b : Src) : State → Out :=
  int2 (.imul g t d a b) g t d a b (mulCc t.wide) fun x y =>
    arith t false (t.value x * t.value y)

def execImulh (g : Guard) (t : ITy) (d : Dst) (a b : Src) : State → Out :=
  int2 (.imulh g t d a b) g t d a b (mulCc t.wide) fun x y =>
    arith t false (t.value x * t.value y / (2 ^ t.width : Nat))

def execImad (g : Guard) (t : ITy) (d : Dst) (a b c : Src) : State → Out :=
  compute (.imad g t d a b c) g d t.wide (mulCc t.wide) fun _ rd =>
    arith t false (t.value (rd t.wide a) * t.value (rd t.wide b) + t.value (rd t.wide c))

def execIdiv (g : Guard) (t : ITy) (d : Dst) (a b : Src) : State → Out :=
  int2 (.idiv g t d a b) g t d a b (divCc t) (divVal t)

def execIrem (g : Guard) (t : ITy) (d : Dst) (a b : Src) : State → Out :=
  int2 (.irem g t d a b) g t d a b (divCc t) (remVal t)

def execIneg (g : Guard) (t : ITy) (sat : Bool) (d : Dst) (a : Src) : State → Out :=
  int1 (.ineg g t sat d a) g t d a fun x => arith t sat (-(t.value x))

def execIabs (g : Guard) (t : ITy) (sat : Bool) (d : Dst) (a : Src) : State → Out :=
  int1 (.iabs g t sat d a) g t d a fun x => arith t sat (t.value x).natAbs

def execImin (g : Guard) (t : ITy) (d : Dst) (a b : Src) : State → Out :=
  int2 (.imin g t d a b) g t d a b 0 fun x y => arith t false (min (t.value x) (t.value y))

def execImax (g : Guard) (t : ITy) (d : Dst) (a b : Src) : State → Out :=
  int2 (.imax g t d a b) g t d a b 0 fun x y => arith t false (max (t.value x) (t.value y))

def execIcmp (g : Guard) (c : Cond) (t : ITy) (d : Dst) (a b : Src) : State → Out :=
  compute (.icmp g c t d a b) g d false 0 fun _ rd =>
    boolVal (cmpFlag c t (rd t.wide a) (rd t.wide b))

/-! ### Logic, shifts and fields (R118, R119) -/

def execAnd (g : Guard) (t : ITy) (d : Dst) (a b : Src) : State → Out :=
  int2 (.and g t d a b) g t d a b 0 fun x y => t.toReg (pat t (x &&& y))

def execOr (g : Guard) (t : ITy) (d : Dst) (a b : Src) : State → Out :=
  int2 (.or g t d a b) g t d a b 0 fun x y => t.toReg (pat t (x ||| y))

def execXor (g : Guard) (t : ITy) (d : Dst) (a b : Src) : State → Out :=
  int2 (.xor g t d a b) g t d a b 0 fun x y => t.toReg (pat t (x ^^^ y))

def execAndn (g : Guard) (t : ITy) (d : Dst) (a b : Src) : State → Out :=
  int2 (.andn g t d a b) g t d a b 0 fun x y => t.toReg (pat t (x &&& ~~~y))

def execNot (g : Guard) (t : ITy) (d : Dst) (a : Src) : State → Out :=
  int1 (.not g t d a) g t d a fun x => t.toReg (pat t (~~~x))

def execShl (g : Guard) (t : ITy) (d : Dst) (a b : Src) : State → Out :=
  int2 (.shl g t d a b) g t d a b 0 fun x y => shlVal t x (shAmt t y)

def execShr (g : Guard) (t : ITy) (d : Dst) (a b : Src) : State → Out :=
  int2 (.shr g t d a b) g t d a b 0 fun x y => shrVal t x (shAmt t y)

def execSar (g : Guard) (t : ITy) (d : Dst) (a b : Src) : State → Out :=
  int2 (.sar g t d a b) g t d a b 0 fun x y => sarVal t x (shAmt t y)

def execRot (g : Guard) (t : ITy) (d : Dst) (a b : Src) : State → Out :=
  int2 (.rot g t d a b) g t d a b 0 fun x y => rotVal t x (shAmt t y)

def execBfx (g : Guard) (t : ITy) (d : Dst) (a sp : Src) : State → Out :=
  compute (.bfx g t d a sp) g d t.wide 0 fun _ rd => bfxVal t (rd t.wide a) (rd false sp)

def execBfi (g : Guard) (t : ITy) (d : Dst) (a b sp : Src) : State → Out :=
  compute (.bfi g t d a b sp) g d t.wide 0 fun _ rd =>
    bfiVal t (rd t.wide a) (rd t.wide b) (rd false sp)

def execPopc (g : Guard) (t : ITy) (d : Dst) (a : Src) : State → Out :=
  int1 (.popc g t d a) g t d a fun x => BitVec.ofNat 64 (popNat t.width (pat t x))

def execClz (g : Guard) (t : ITy) (d : Dst) (a : Src) : State → Out :=
  int1 (.clz g t d a) g t d a fun x => BitVec.ofNat 64 (clzNat t.width (pat t x))

def execCtz (g : Guard) (t : ITy) (d : Dst) (a : Src) : State → Out :=
  int1 (.ctz g t d a) g t d a fun x => BitVec.ofNat 64 (ctzNat t.width (pat t x))

def execBrev (g : Guard) (t : ITy) (d : Dst) (a : Src) : State → Out :=
  int1 (.brev g t d a) g t d a fun x => t.toReg (revNat t.width (pat t x))

/-! ### Moves and selection (R120) -/

def execMov (g : Guard) (t : ITy) (d : Dst) (a : Src) : State → Out :=
  int1 (.mov g t d a) g t d a fun x => t.toReg (pat t x)

def execSel (g : Guard) (t : ITy) (p : BitVec 4) (d : Dst) (a b : Src) : State → Out :=
  compute (.sel g t p d a b) g d t.wide 0 fun x rd =>
    t.toReg (pat t (if x.fib.pred.getLsbD p.toNat then rd t.wide a else rd t.wide b))

def execMovi (g : Guard) (d : Dst) (imm : BitVec 31) : State → Out :=
  compute (.movi g d imm) g d false 0 fun _ _ => immVal false imm

def execMoviPair (g : Guard) (d : Dst) (imm : BitVec 31) : State → Out :=
  compute (.moviPair g d imm) g d true 0 fun _ _ => immVal true imm

def execMovw (g : Guard) (d : Dst) (imm : BitVec 32) : State → Out :=
  compute (.movw g d imm) g d false 0 fun _ _ => imm.setWidth 64

/-! ### Addresses (R121, R122) -/

def execLea (g : Guard) (wide : Bool) (sh : BitVec 4) (d : Dst) (a i : Src) : State → Out :=
  compute (.lea g wide sh d a i) g d true 0 fun _ rd =>
    addrVal (addrPart (rd true a) + offsetPart wide (rd wide i) * (2 ^ sh.toNat : Nat))

def execAadd (g : Guard) (wide : Bool) (d : Dst) (a b : Src) : State → Out :=
  compute (.aadd g wide d a b) g d true 0 fun _ rd =>
    addrVal (addrPart (rd true a) + offsetPart wide (rd wide b))

def execAsub (g : Guard) (wide : Bool) (d : Dst) (a b : Src) : State → Out :=
  compute (.asub g wide d a b) g d true 0 fun _ rd =>
    addrVal (addrPart (rd true a) - offsetPart wide (rd wide b))

def execAcmp (g : Guard) (c : Cond) (d : Dst) (a b : Src) : State → Out :=
  compute (.acmp g c d a b) g d false 0 fun _ rd =>
    boolVal (c.holds (addrPart (rd true a)) (addrPart (rd true b)))

/-! ### Immediate forms (R123) -/

def execIaddImm32 (g : Guard) (d : Dst) (a : Src) (imm : BitVec 31) : State → Out :=
  intImm (.iaddImm32 g d a imm) g false d a 0 fun x =>
    arith .n32 false (ITy.n32.value x + ITy.n32.value (immVal false imm))

def execIsubImm32 (g : Guard) (d : Dst) (a : Src) (imm : BitVec 31) : State → Out :=
  intImm (.isubImm32 g d a imm) g false d a 0 fun x =>
    arith .n32 false (ITy.n32.value x - ITy.n32.value (immVal false imm))

def execImulImm32 (g : Guard) (d : Dst) (a : Src) (imm : BitVec 31) : State → Out :=
  intImm (.imulImm32 g d a imm) g false d a 0 fun x =>
    arith .n32 false (ITy.n32.value x * ITy.n32.value (immVal false imm))

def execAndImm32 (g : Guard) (d : Dst) (a : Src) (imm : BitVec 31) : State → Out :=
  intImm (.andImm32 g d a imm) g false d a 0 fun x => x &&& immVal false imm

def execOrImm32 (g : Guard) (d : Dst) (a : Src) (imm : BitVec 31) : State → Out :=
  intImm (.orImm32 g d a imm) g false d a 0 fun x => x ||| immVal false imm

def execXorImm32 (g : Guard) (d : Dst) (a : Src) (imm : BitVec 31) : State → Out :=
  intImm (.xorImm32 g d a imm) g false d a 0 fun x => x ^^^ immVal false imm

def execShlImm32 (g : Guard) (d : Dst) (a : Src) (n : BitVec 5) : State → Out :=
  intImm (.shlImm32 g d a n) g false d a 0 fun x => shlVal .n32 x n.toNat

def execShrImm32 (g : Guard) (d : Dst) (a : Src) (n : BitVec 5) : State → Out :=
  intImm (.shrImm32 g d a n) g false d a 0 fun x => shrVal .n32 x n.toNat

def execSarImm32 (g : Guard) (d : Dst) (a : Src) (n : BitVec 5) : State → Out :=
  intImm (.sarImm32 g d a n) g false d a 0 fun x => sarVal .n32 x n.toNat

def execAaddImm32 (g : Guard) (d : Dst) (a : Src) (imm : BitVec 31) : State → Out :=
  intImm (.aaddImm32 g d a imm) g false d a 0 fun x =>
    arith .n32 false (ITy.n32.value x + ITy.n32.value (immVal false imm))

def execAsubImm32 (g : Guard) (d : Dst) (a : Src) (imm : BitVec 31) : State → Out :=
  intImm (.asubImm32 g d a imm) g false d a 0 fun x =>
    arith .n32 false (ITy.n32.value x - ITy.n32.value (immVal false imm))

def execIaddImm64 (g : Guard) (d : Dst) (a : Src) (imm : BitVec 31) : State → Out :=
  intImm (.iaddImm64 g d a imm) g true d a 0 fun x =>
    arith .n64 false (ITy.n64.value x + ITy.n64.value (immVal true imm))

def execIsubImm64 (g : Guard) (d : Dst) (a : Src) (imm : BitVec 31) : State → Out :=
  intImm (.isubImm64 g d a imm) g true d a 0 fun x =>
    arith .n64 false (ITy.n64.value x - ITy.n64.value (immVal true imm))

def execImulImm64 (g : Guard) (d : Dst) (a : Src) (imm : BitVec 31) : State → Out :=
  intImm (.imulImm64 g d a imm) g true d a (mulCc true) fun x =>
    arith .n64 false (ITy.n64.value x * ITy.n64.value (immVal true imm))

def execAndImm64 (g : Guard) (d : Dst) (a : Src) (imm : BitVec 31) : State → Out :=
  intImm (.andImm64 g d a imm) g true d a 0 fun x => x &&& immVal true imm

def execOrImm64 (g : Guard) (d : Dst) (a : Src) (imm : BitVec 31) : State → Out :=
  intImm (.orImm64 g d a imm) g true d a 0 fun x => x ||| immVal true imm

def execXorImm64 (g : Guard) (d : Dst) (a : Src) (imm : BitVec 31) : State → Out :=
  intImm (.xorImm64 g d a imm) g true d a 0 fun x => x ^^^ immVal true imm

def execShlImm64 (g : Guard) (d : Dst) (a : Src) (n : BitVec 6) : State → Out :=
  intImm (.shlImm64 g d a n) g true d a 0 fun x => shlVal .n64 x n.toNat

def execShrImm64 (g : Guard) (d : Dst) (a : Src) (n : BitVec 6) : State → Out :=
  intImm (.shrImm64 g d a n) g true d a 0 fun x => shrVal .n64 x n.toNat

def execSarImm64 (g : Guard) (d : Dst) (a : Src) (n : BitVec 6) : State → Out :=
  intImm (.sarImm64 g d a n) g true d a 0 fun x => sarVal .n64 x n.toNat

def execAaddImm64 (g : Guard) (d : Dst) (a : Src) (imm : BitVec 31) : State → Out :=
  intImm (.aaddImm64 g d a imm) g true d a 0 fun x =>
    addrVal (addrPart x + offsetPart true (immVal true imm))

def execAsubImm64 (g : Guard) (d : Dst) (a : Src) (imm : BitVec 31) : State → Out :=
  intImm (.asubImm64 g d a imm) g true d a 0 fun x =>
    addrVal (addrPart x - offsetPart true (immVal true imm))

/-! ### Predicates (R121, R124) -/

def execPset (g : Guard) (c : Cond) (t : ITy) (pd : BitVec 4) (a b : Src) : State → Out :=
  onPreds (.pset g c t pd a b) g fun x rd =>
    predPut x.fib.pred pd (cmpFlag c t (rd t.wide a) (rd t.wide b))

/-- A predicate, inverted where its bit in EXT says so (R124). -/
def predGet (x : LaneCtx) (p : BitVec 4) (inv : Bool) : Bool :=
  x.fib.pred.getLsbD p.toNat != inv

def execPand (g : Guard) (pd pa pb : BitVec 4) (na nb : Bool) : State → Out :=
  onPreds (.pand g pd pa pb na nb) g fun x _ =>
    predPut x.fib.pred pd (predGet x pa na && predGet x pb nb)

def execPor (g : Guard) (pd pa pb : BitVec 4) (na nb : Bool) : State → Out :=
  onPreds (.por g pd pa pb na nb) g fun x _ =>
    predPut x.fib.pred pd (predGet x pa na || predGet x pb nb)

def execPxor (g : Guard) (pd pa pb : BitVec 4) (na nb : Bool) : State → Out :=
  onPreds (.pxor g pd pa pb na nb) g fun x _ =>
    predPut x.fib.pred pd (predGet x pa na != predGet x pb nb)

def execPnot (g : Guard) (pd pa : BitVec 4) : State → Out :=
  onPreds (.pnot g pd pa) g fun x _ => predPut x.fib.pred pd (predGet x pa true)

end Sys2Proof.Machine
end

