-- ==== Sys2Proof/Machine/Dispatch.lean ====
section
/-! DEFINITION. The dispatch of every instruction and event to its meaning. -/
namespace Sys2Proof.Machine
open Sys2Proof

def exec (i : Instr) (s : State) : Host.Outcome State Fault Refusal :=
  match i with
  | .iadd x1 x2 x3 x4 x5 x6 => Sys2Proof.Machine.execIadd x1 x2 x3 x4 x5 x6 s
  | .isub x1 x2 x3 x4 x5 x6 => Sys2Proof.Machine.execIsub x1 x2 x3 x4 x5 x6 s
  | .imul x1 x2 x3 x4 x5 => Sys2Proof.Machine.execImul x1 x2 x3 x4 x5 s
  | .imulh x1 x2 x3 x4 x5 => Sys2Proof.Machine.execImulh x1 x2 x3 x4 x5 s
  | .imad x1 x2 x3 x4 x5 x6 => Sys2Proof.Machine.execImad x1 x2 x3 x4 x5 x6 s
  | .idiv x1 x2 x3 x4 x5 => Sys2Proof.Machine.execIdiv x1 x2 x3 x4 x5 s
  | .irem x1 x2 x3 x4 x5 => Sys2Proof.Machine.execIrem x1 x2 x3 x4 x5 s
  | .ineg x1 x2 x3 x4 x5 => Sys2Proof.Machine.execIneg x1 x2 x3 x4 x5 s
  | .iabs x1 x2 x3 x4 x5 => Sys2Proof.Machine.execIabs x1 x2 x3 x4 x5 s
  | .imin x1 x2 x3 x4 x5 => Sys2Proof.Machine.execImin x1 x2 x3 x4 x5 s
  | .imax x1 x2 x3 x4 x5 => Sys2Proof.Machine.execImax x1 x2 x3 x4 x5 s
  | .icmp x1 x2 x3 x4 x5 x6 => Sys2Proof.Machine.execIcmp x1 x2 x3 x4 x5 x6 s
  | .and x1 x2 x3 x4 x5 => Sys2Proof.Machine.execAnd x1 x2 x3 x4 x5 s
  | .or x1 x2 x3 x4 x5 => Sys2Proof.Machine.execOr x1 x2 x3 x4 x5 s
  | .xor x1 x2 x3 x4 x5 => Sys2Proof.Machine.execXor x1 x2 x3 x4 x5 s
  | .andn x1 x2 x3 x4 x5 => Sys2Proof.Machine.execAndn x1 x2 x3 x4 x5 s
  | .not x1 x2 x3 x4 => Sys2Proof.Machine.execNot x1 x2 x3 x4 s
  | .shl x1 x2 x3 x4 x5 => Sys2Proof.Machine.execShl x1 x2 x3 x4 x5 s
  | .shr x1 x2 x3 x4 x5 => Sys2Proof.Machine.execShr x1 x2 x3 x4 x5 s
  | .sar x1 x2 x3 x4 x5 => Sys2Proof.Machine.execSar x1 x2 x3 x4 x5 s
  | .rot x1 x2 x3 x4 x5 => Sys2Proof.Machine.execRot x1 x2 x3 x4 x5 s
  | .bfx x1 x2 x3 x4 x5 => Sys2Proof.Machine.execBfx x1 x2 x3 x4 x5 s
  | .bfi x1 x2 x3 x4 x5 x6 => Sys2Proof.Machine.execBfi x1 x2 x3 x4 x5 x6 s
  | .popc x1 x2 x3 x4 => Sys2Proof.Machine.execPopc x1 x2 x3 x4 s
  | .clz x1 x2 x3 x4 => Sys2Proof.Machine.execClz x1 x2 x3 x4 s
  | .ctz x1 x2 x3 x4 => Sys2Proof.Machine.execCtz x1 x2 x3 x4 s
  | .brev x1 x2 x3 x4 => Sys2Proof.Machine.execBrev x1 x2 x3 x4 s
  | .mov x1 x2 x3 x4 => Sys2Proof.Machine.execMov x1 x2 x3 x4 s
  | .sel x1 x2 x3 x4 x5 x6 => Sys2Proof.Machine.execSel x1 x2 x3 x4 x5 x6 s
  | .lea x1 x2 x3 x4 x5 x6 => Sys2Proof.Machine.execLea x1 x2 x3 x4 x5 x6 s
  | .aadd x1 x2 x3 x4 x5 => Sys2Proof.Machine.execAadd x1 x2 x3 x4 x5 s
  | .asub x1 x2 x3 x4 x5 => Sys2Proof.Machine.execAsub x1 x2 x3 x4 x5 s
  | .acmp x1 x2 x3 x4 x5 => Sys2Proof.Machine.execAcmp x1 x2 x3 x4 x5 s
  | .iaddImm32 x1 x2 x3 x4 => Sys2Proof.Machine.execIaddImm32 x1 x2 x3 x4 s
  | .isubImm32 x1 x2 x3 x4 => Sys2Proof.Machine.execIsubImm32 x1 x2 x3 x4 s
  | .imulImm32 x1 x2 x3 x4 => Sys2Proof.Machine.execImulImm32 x1 x2 x3 x4 s
  | .andImm32 x1 x2 x3 x4 => Sys2Proof.Machine.execAndImm32 x1 x2 x3 x4 s
  | .orImm32 x1 x2 x3 x4 => Sys2Proof.Machine.execOrImm32 x1 x2 x3 x4 s
  | .xorImm32 x1 x2 x3 x4 => Sys2Proof.Machine.execXorImm32 x1 x2 x3 x4 s
  | .shlImm32 x1 x2 x3 x4 => Sys2Proof.Machine.execShlImm32 x1 x2 x3 x4 s
  | .shrImm32 x1 x2 x3 x4 => Sys2Proof.Machine.execShrImm32 x1 x2 x3 x4 s
  | .sarImm32 x1 x2 x3 x4 => Sys2Proof.Machine.execSarImm32 x1 x2 x3 x4 s
  | .aaddImm32 x1 x2 x3 x4 => Sys2Proof.Machine.execAaddImm32 x1 x2 x3 x4 s
  | .asubImm32 x1 x2 x3 x4 => Sys2Proof.Machine.execAsubImm32 x1 x2 x3 x4 s
  | .movi x1 x2 x3 => Sys2Proof.Machine.execMovi x1 x2 x3 s
  | .iaddImm64 x1 x2 x3 x4 => Sys2Proof.Machine.execIaddImm64 x1 x2 x3 x4 s
  | .isubImm64 x1 x2 x3 x4 => Sys2Proof.Machine.execIsubImm64 x1 x2 x3 x4 s
  | .imulImm64 x1 x2 x3 x4 => Sys2Proof.Machine.execImulImm64 x1 x2 x3 x4 s
  | .andImm64 x1 x2 x3 x4 => Sys2Proof.Machine.execAndImm64 x1 x2 x3 x4 s
  | .orImm64 x1 x2 x3 x4 => Sys2Proof.Machine.execOrImm64 x1 x2 x3 x4 s
  | .xorImm64 x1 x2 x3 x4 => Sys2Proof.Machine.execXorImm64 x1 x2 x3 x4 s
  | .shlImm64 x1 x2 x3 x4 => Sys2Proof.Machine.execShlImm64 x1 x2 x3 x4 s
  | .shrImm64 x1 x2 x3 x4 => Sys2Proof.Machine.execShrImm64 x1 x2 x3 x4 s
  | .sarImm64 x1 x2 x3 x4 => Sys2Proof.Machine.execSarImm64 x1 x2 x3 x4 s
  | .aaddImm64 x1 x2 x3 x4 => Sys2Proof.Machine.execAaddImm64 x1 x2 x3 x4 s
  | .asubImm64 x1 x2 x3 x4 => Sys2Proof.Machine.execAsubImm64 x1 x2 x3 x4 s
  | .moviPair x1 x2 x3 => Sys2Proof.Machine.execMoviPair x1 x2 x3 s
  | .movw x1 x2 x3 => Sys2Proof.Machine.execMovw x1 x2 x3 s
  | .pset x1 x2 x3 x4 x5 x6 => Sys2Proof.Machine.execPset x1 x2 x3 x4 x5 x6 s
  | .pand x1 x2 x3 x4 x5 x6 => Sys2Proof.Machine.execPand x1 x2 x3 x4 x5 x6 s
  | .por x1 x2 x3 x4 x5 x6 => Sys2Proof.Machine.execPor x1 x2 x3 x4 x5 x6 s
  | .pxor x1 x2 x3 x4 x5 x6 => Sys2Proof.Machine.execPxor x1 x2 x3 x4 x5 x6 s
  | .pnot x1 x2 x3 => Sys2Proof.Machine.execPnot x1 x2 x3 s
  | .br x1 x2 => Sys2Proof.Machine.execBr x1 x2 s
  | .brx x1 x2 => Sys2Proof.Machine.execBrx x1 x2 s
  | .call x1 x2 x3 => Sys2Proof.Machine.execCall x1 x2 x3 s
  | .ret x1 x2 => Sys2Proof.Machine.execRet x1 x2 s
  | .fork x1 x2 x3 => Sys2Proof.Machine.execFork x1 x2 x3 s
  | .quit x1 => Sys2Proof.Machine.execQuit x1 s
  | .yield x1 => Sys2Proof.Machine.execYield x1 s
  | .cont x1 x2 => Sys2Proof.Machine.execCont x1 x2 s
  | .vote x1 x2 x3 x4 x5 x6 x7 => Sys2Proof.Machine.execVote x1 x2 x3 x4 x5 x6 x7 s
  | .shfl x1 x2 x3 x4 x5 x6 x7 => Sys2Proof.Machine.execShfl x1 x2 x3 x4 x5 x6 x7 s
  | .red x1 x2 x3 x4 x5 x6 => Sys2Proof.Machine.execRed x1 x2 x3 x4 x5 x6 s
  | .bar x1 x2 => Sys2Proof.Machine.execBar x1 x2 s
  | .arrive x1 x2 => Sys2Proof.Machine.execArrive x1 x2 s
  | .await x1 x2 => Sys2Proof.Machine.execAwait x1 x2 s
  | .nop x1 => Sys2Proof.Machine.execNop x1 s
  | .fadd x1 x2 x3 x4 x5 x6 => Sys2Proof.Machine.execFadd x1 x2 x3 x4 x5 x6 s
  | .fsub x1 x2 x3 x4 x5 x6 => Sys2Proof.Machine.execFsub x1 x2 x3 x4 x5 x6 s
  | .fmul x1 x2 x3 x4 x5 x6 => Sys2Proof.Machine.execFmul x1 x2 x3 x4 x5 x6 s
  | .fma x1 x2 x3 x4 x5 x6 x7 => Sys2Proof.Machine.execFma x1 x2 x3 x4 x5 x6 x7 s
  | .fmin x1 x2 x3 x4 x5 => Sys2Proof.Machine.execFmin x1 x2 x3 x4 x5 s
  | .fmax x1 x2 x3 x4 x5 => Sys2Proof.Machine.execFmax x1 x2 x3 x4 x5 s
  | .fabs x1 x2 x3 x4 => Sys2Proof.Machine.execFabs x1 x2 x3 x4 s
  | .fneg x1 x2 x3 x4 => Sys2Proof.Machine.execFneg x1 x2 x3 x4 s
  | .fcmp x1 x2 x3 x4 x5 x6 => Sys2Proof.Machine.execFcmp x1 x2 x3 x4 x5 x6 s
  | .fclass x1 x2 x3 x4 => Sys2Proof.Machine.execFclass x1 x2 x3 x4 s
  | .frcp x1 x2 x3 x4 x5 => Sys2Proof.Machine.execFrcp x1 x2 x3 x4 x5 s
  | .frsq x1 x2 x3 x4 x5 => Sys2Proof.Machine.execFrsq x1 x2 x3 x4 x5 s
  | .fsqrt x1 x2 x3 x4 x5 => Sys2Proof.Machine.execFsqrt x1 x2 x3 x4 x5 s
  | .fexp2 x1 x2 x3 x4 => Sys2Proof.Machine.execFexp2 x1 x2 x3 x4 s
  | .flog2 x1 x2 x3 x4 => Sys2Proof.Machine.execFlog2 x1 x2 x3 x4 s
  | .fsin x1 x2 x3 x4 => Sys2Proof.Machine.execFsin x1 x2 x3 x4 s
  | .fcos x1 x2 x3 x4 => Sys2Proof.Machine.execFcos x1 x2 x3 x4 s
  | .fround x1 x2 x3 x4 x5 => Sys2Proof.Machine.execFround x1 x2 x3 x4 x5 s
  | .fdiv x1 x2 x3 x4 x5 x6 => Sys2Proof.Machine.execFdiv x1 x2 x3 x4 x5 x6 s
  | .dp4 x1 x2 x3 x4 x5 x6 x7 x8 => Sys2Proof.Machine.execDp4 x1 x2 x3 x4 x5 x6 x7 x8 s
  | .hfma2 x1 x2 x3 x4 x5 x6 x7 => Sys2Proof.Machine.execHfma2 x1 x2 x3 x4 x5 x6 x7 s
  | .sclq x1 x2 x3 x4 x5 => Sys2Proof.Machine.execSclq x1 x2 x3 x4 x5 s
  | .cvt x1 x2 x3 x4 x5 x6 x7 => Sys2Proof.Machine.execCvt x1 x2 x3 x4 x5 x6 x7 s
  | .cvtEf x1 x2 x3 x4 x5 x6 => Sys2Proof.Machine.execCvtEf x1 x2 x3 x4 x5 x6 s
  | .cbenc x1 x2 x3 x4 x5 x6 => Sys2Proof.Machine.execCbenc x1 x2 x3 x4 x5 x6 s
  | .cbdec x1 x2 x3 x4 x5 => Sys2Proof.Machine.execCbdec x1 x2 x3 x4 x5 s
  | .ldG x1 x2 x3 x4 x5 x6 => Sys2Proof.Machine.execLdG x1 x2 x3 x4 x5 x6 s
  | .ldS x1 x2 x3 x4 x5 => Sys2Proof.Machine.execLdS x1 x2 x3 x4 x5 s
  | .ldW x1 x2 x3 x4 x5 => Sys2Proof.Machine.execLdW x1 x2 x3 x4 x5 s
  | .ldP x1 x2 x3 x4 x5 x6 => Sys2Proof.Machine.execLdP x1 x2 x3 x4 x5 x6 s
  | .ldGIo x1 x2 x3 x4 => Sys2Proof.Machine.execLdGIo x1 x2 x3 x4 s
  | .stG x1 x2 x3 x4 x5 => Sys2Proof.Machine.execStG x1 x2 x3 x4 x5 s
  | .stS x1 x2 x3 x4 => Sys2Proof.Machine.execStS x1 x2 x3 x4 s
  | .stW x1 x2 x3 x4 => Sys2Proof.Machine.execStW x1 x2 x3 x4 s
  | .stP x1 x2 x3 x4 x5 => Sys2Proof.Machine.execStP x1 x2 x3 x4 x5 s
  | .ldAcq x1 x2 x3 x4 x5 => Sys2Proof.Machine.execLdAcq x1 x2 x3 x4 x5 s
  | .stRel x1 x2 x3 x4 x5 => Sys2Proof.Machine.execStRel x1 x2 x3 x4 x5 s
  | .atomAdd x1 x2 x3 x4 x5 x6 => Sys2Proof.Machine.execAtomAdd x1 x2 x3 x4 x5 x6 s
  | .atomMin x1 x2 x3 x4 x5 x6 x7 => Sys2Proof.Machine.execAtomMin x1 x2 x3 x4 x5 x6 x7 s
  | .atomMax x1 x2 x3 x4 x5 x6 x7 => Sys2Proof.Machine.execAtomMax x1 x2 x3 x4 x5 x6 x7 s
  | .atomAnd x1 x2 x3 x4 x5 x6 => Sys2Proof.Machine.execAtomAnd x1 x2 x3 x4 x5 x6 s
  | .atomOr x1 x2 x3 x4 x5 x6 => Sys2Proof.Machine.execAtomOr x1 x2 x3 x4 x5 x6 s
  | .atomXor x1 x2 x3 x4 x5 x6 => Sys2Proof.Machine.execAtomXor x1 x2 x3 x4 x5 x6 s
  | .atomXchg x1 x2 x3 x4 x5 x6 => Sys2Proof.Machine.execAtomXchg x1 x2 x3 x4 x5 x6 s
  | .atomCas x1 x2 x3 x4 x5 x6 => Sys2Proof.Machine.execAtomCas x1 x2 x3 x4 x5 x6 s
  | .atomFireAndForget x1 x2 x3 x4 x5 x6 => Sys2Proof.Machine.execAtomFireAndForget x1 x2 x3 x4 x5 x6 s
  | .ared x1 x2 x3 x4 x5 => Sys2Proof.Machine.execAred x1 x2 x3 x4 x5 s
  | .phase x1 x2 => Sys2Proof.Machine.execPhase x1 x2 s
  | .fence x1 => Sys2Proof.Machine.execFence x1 s
  | .prfD x1 x2 x3 => Sys2Proof.Machine.execPrfD x1 x2 x3 s
  | .prfI x1 x2 => Sys2Proof.Machine.execPrfI x1 x2 s
  | .invD x1 x2 x3 => Sys2Proof.Machine.execInvD x1 x2 x3 s
  | .invI x1 x2 x3 => Sys2Proof.Machine.execInvI x1 x2 x3 s
  | .invIall x1 x2 => Sys2Proof.Machine.execInvIall x1 x2 s
  | .invTlb x1 x2 x3 => Sys2Proof.Machine.execInvTlb x1 x2 x3 s
  | .wbk x1 x2 x3 => Sys2Proof.Machine.execWbk x1 x2 x3 s
  | .orsv x1 x2 x3 x4 x5 => Sys2Proof.Machine.execOrsv x1 x2 x3 x4 x5 s
  | .orel x1 x2 x3 => Sys2Proof.Machine.execOrel x1 x2 x3 s
  | .omap x1 x2 x3 x4 x5 => Sys2Proof.Machine.execOmap x1 x2 x3 x4 x5 s
  | .mma x1 x2 x3 x4 x5 => Sys2Proof.Machine.execMma x1 x2 x3 x4 x5 s
  | .mmaJoint x1 x2 x3 x4 x5 => Sys2Proof.Machine.execMmaJoint x1 x2 x3 x4 x5 s
  | .mmaz x1 x2 x3 x4 x5 => Sys2Proof.Machine.execMmaz x1 x2 x3 x4 x5 s
  | .aclr x1 x2 x3 => Sys2Proof.Machine.execAclr x1 x2 x3 s
  | .ard x1 x2 x3 x4 x5 => Sys2Proof.Machine.execArd x1 x2 x3 x4 x5 s
  | .awr x1 x2 x3 x4 x5 => Sys2Proof.Machine.execAwr x1 x2 x3 x4 x5 s
  | .ascl x1 x2 x3 x4 => Sys2Proof.Machine.execAscl x1 x2 x3 x4 s
  | .gang x1 x2 x3 x4 => Sys2Proof.Machine.execGang x1 x2 x3 x4 s
  | .gangLeave x1 x2 x3 => Sys2Proof.Machine.execGangLeave x1 x2 x3 s
  | .cpy x1 x2 x3 x4 x5 x6 => Sys2Proof.Machine.execCpy x1 x2 x3 x4 x5 x6 s
  | .cpyT x1 x2 x3 x4 x5 x6 => Sys2Proof.Machine.execCpyT x1 x2 x3 x4 x5 x6 s
  | .cwait x1 x2 x3 x4 x5 => Sys2Proof.Machine.execCwait x1 x2 x3 x4 x5 s
  | .node x1 x2 x3 x4 x5 x6 => Sys2Proof.Machine.execNode x1 x2 x3 x4 x5 x6 s
  | .nlink x1 x2 x3 x4 => Sys2Proof.Machine.execNlink x1 x2 x3 x4 s
  | .narm x1 x2 x3 => Sys2Proof.Machine.execNarm x1 x2 x3 s
  | .sbind x1 x2 x3 x4 x5 x6 x7 => Sys2Proof.Machine.execSbind x1 x2 x3 x4 x5 x6 x7 s
  | .srun x1 x2 x3 => Sys2Proof.Machine.execSrun x1 x2 x3 s
  | .sstop x1 x2 x3 => Sys2Proof.Machine.execSstop x1 x2 x3 s
  | .rfill x1 x2 x3 x4 x5 x6 => Sys2Proof.Machine.execRfill x1 x2 x3 x4 x5 x6 s
  | .rdrain x1 x2 x3 x4 x5 => Sys2Proof.Machine.execRdrain x1 x2 x3 x4 x5 s
  | .spawn x1 x2 x3 x4 => Sys2Proof.Machine.execSpawn x1 x2 x3 x4 s
  | .launch x1 x2 => Sys2Proof.Machine.execLaunch x1 x2 s
  | .qbind x1 x2 x3 x4 => Sys2Proof.Machine.execQbind x1 x2 x3 x4 s
  | .qpop x1 x2 => Sys2Proof.Machine.execQpop x1 x2 s
  | .qpush x1 x2 => Sys2Proof.Machine.execQpush x1 x2 s
  | .sigPut x1 x2 x3 => Sys2Proof.Machine.execSigPut x1 x2 x3 s
  | .sigTake x1 x2 x3 => Sys2Proof.Machine.execSigTake x1 x2 x3 s
  | .sigFill x1 x2 x3 x4 x5 => Sys2Proof.Machine.execSigFill x1 x2 x3 x4 x5 s
  | .sigRoom x1 x2 x3 x4 x5 => Sys2Proof.Machine.execSigRoom x1 x2 x3 x4 x5 s
  | .gate x1 x2 => Sys2Proof.Machine.execGate x1 x2 s
  | .rel x1 x2 => Sys2Proof.Machine.execRel x1 x2 s
  | .tbrd x1 x2 x3 x4 => Sys2Proof.Machine.execTbrd x1 x2 x3 x4 s
  | .tbwr x1 x2 x3 x4 => Sys2Proof.Machine.execTbwr x1 x2 x3 x4 s
  | .tbwrSwap x1 x2 x3 => Sys2Proof.Machine.execTbwrSwap x1 x2 x3 s
  | .ccreq x1 x2 x3 => Sys2Proof.Machine.execCcreq x1 x2 x3 s
  | .ccrel x1 x2 => Sys2Proof.Machine.execCcrel x1 x2 s
  | .bread x1 x2 x3 => Sys2Proof.Machine.execBread x1 x2 x3 s
  | .bgive x1 x2 x3 x4 => Sys2Proof.Machine.execBgive x1 x2 x3 x4 s
  | .btopAdd x1 x2 x3 x4 => Sys2Proof.Machine.execBtopAdd x1 x2 x3 x4 s
  | .btopSet x1 x2 x3 x4 => Sys2Proof.Machine.execBtopSet x1 x2 x3 x4 s
  | .tick x1 x2 => Sys2Proof.Machine.execTick x1 x2 s
  | .tkt x1 x2 x3 => Sys2Proof.Machine.execTkt x1 x2 x3 s
  | .wdogSet x1 x2 => Sys2Proof.Machine.execWdogSet x1 x2 s
  | .wdogPet x1 => Sys2Proof.Machine.execWdogPet x1 s
  | .wdogBeat x1 => Sys2Proof.Machine.execWdogBeat x1 s
  | .pcr x1 x2 x3 => Sys2Proof.Machine.execPcr x1 x2 x3 s
  | .crsv x1 x2 x3 => Sys2Proof.Machine.execCrsv x1 x2 x3 s
  | .trap x1 x2 => Sys2Proof.Machine.execTrap x1 x2 s
  | .brk x1 x2 => Sys2Proof.Machine.execBrk x1 x2 s
  | .eretRetry x1 x2 x3 => Sys2Proof.Machine.execEretRetry x1 x2 x3 s
  | .eretNext x1 x2 x3 => Sys2Proof.Machine.execEretNext x1 x2 x3 s
  | .eretCont x1 x2 x3 => Sys2Proof.Machine.execEretCont x1 x2 x3 s
  | .eretQuit x1 x2 x3 => Sys2Proof.Machine.execEretQuit x1 x2 x3 s
  | .halt x1 x2 => Sys2Proof.Machine.execHalt x1 x2 s
  | .haltLaunch x1 x2 => Sys2Proof.Machine.execHaltLaunch x1 x2 s
  | .sysrd x1 x2 x3 x4 => Sys2Proof.Machine.execSysrd x1 x2 x3 x4 s
  | .syswr x1 x2 x3 x4 => Sys2Proof.Machine.execSyswr x1 x2 x3 x4 s
  | .migMove x1 x2 => Sys2Proof.Machine.execMigMove x1 x2 s
  | .migSave x1 x2 x3 => Sys2Proof.Machine.execMigSave x1 x2 x3 s
  | .migLoad x1 x2 x3 => Sys2Proof.Machine.execMigLoad x1 x2 x3 s
  | .migLsave x1 x2 x3 => Sys2Proof.Machine.execMigLsave x1 x2 x3 s
  | .migLload x1 x2 x3 => Sys2Proof.Machine.execMigLload x1 x2 x3 s
  | .moduleReset x1 x2 x3 => Sys2Proof.Machine.execModuleReset x1 x2 x3 s
  | .bootGoTimeout => Sys2Proof.Machine.execBootGoTimeout s
  | .bootctlGo x1 x2 => Sys2Proof.Machine.execBootctlGo x1 x2 s
  | .bootctlProg => Sys2Proof.Machine.execBootctlProg s
  | .bootctlLock => Sys2Proof.Machine.execBootctlLock s
  | .attctlGo => Sys2Proof.Machine.execAttctlGo s
  | .attestationDone => Sys2Proof.Machine.execAttestationDone s
  | .bistctlRun => Sys2Proof.Machine.execBistctlRun s
  | .bistDone x1 => Sys2Proof.Machine.execBistDone x1 s
  | .qdoorWrite x1 x2 => Sys2Proof.Machine.execQdoorWrite x1 x2 s
  | .controlBlockReread x1 => Sys2Proof.Machine.execControlBlockReread x1 s
  | .walkerSlotAssign => Sys2Proof.Machine.execWalkerSlotAssign s
  | .packetRead x1 => Sys2Proof.Machine.execPacketRead x1 s
  | .packetBarRelease x1 => Sys2Proof.Machine.execPacketBarRelease x1 s
  | .launchPost x1 => Sys2Proof.Machine.execLaunchPost x1 s
  | .waitPacketPoll x1 => Sys2Proof.Machine.execWaitPacketPoll x1 s
  | .pendingFaultServed x1 => Sys2Proof.Machine.execPendingFaultServed x1 s
  | .launchCheck x1 x2 => Sys2Proof.Machine.execLaunchCheck x1 x2 s
  | .activeLaunchEntry => Sys2Proof.Machine.execActiveLaunchEntry s
  | .crewPlace x1 => Sys2Proof.Machine.execCrewPlace x1 s
  | .launchComplete x1 => Sys2Proof.Machine.execLaunchComplete x1 s
  | .dependantEviction x1 => Sys2Proof.Machine.execDependantEviction x1 s
  | .binAgeReady x1 x2 => Sys2Proof.Machine.execBinAgeReady x1 x2 s
  | .gatherTimeout x1 x2 => Sys2Proof.Machine.execGatherTimeout x1 x2 s
  | .batchIssue x1 => Sys2Proof.Machine.execBatchIssue x1 s
  | .instructionFillDone x1 => Sys2Proof.Machine.execInstructionFillDone x1 s
  | .clauseEnd => Sys2Proof.Machine.execClauseEnd s
  | .regionOpenAtIssue x1 x2 => Sys2Proof.Machine.execRegionOpenAtIssue x1 x2 s
  | .quietRegionOpen x1 x2 => Sys2Proof.Machine.execQuietRegionOpen x1 x2 s
  | .resultWriteback x1 x2 x3 => Sys2Proof.Machine.execResultWriteback x1 x2 x3 s
  | .rendezvousComplete x1 x2 x3 => Sys2Proof.Machine.execRendezvousComplete x1 x2 x3 s
  | .regionClear x1 x2 => Sys2Proof.Machine.execRegionClear x1 x2 s
  | .sensorReport x1 => Sys2Proof.Machine.execSensorReport x1 s
  | .restartReissue x1 x2 => Sys2Proof.Machine.execRestartReissue x1 x2 s
  | .lodgeGrant x1 => Sys2Proof.Machine.execLodgeGrant x1 s
  | .lodgeStallBreak x1 => Sys2Proof.Machine.execLodgeStallBreak x1 s
  | .stagingArrival x1 x2 => Sys2Proof.Machine.execStagingArrival x1 x2 s
  | .stagingSpaceFree x1 x2 => Sys2Proof.Machine.execStagingSpaceFree x1 x2 s
  | .stagingAck x1 x2 => Sys2Proof.Machine.execStagingAck x1 x2 s
  | .clearMessage x1 x2 => Sys2Proof.Machine.execClearMessage x1 x2 s
  | .squashMessage x1 x2 => Sys2Proof.Machine.execSquashMessage x1 x2 s
  | .passSensorReport x1 => Sys2Proof.Machine.execPassSensorReport x1 s
  | .translationWalk x1 => Sys2Proof.Machine.execTranslationWalk x1 s
  | .homeAccessArrival x1 x2 => Sys2Proof.Machine.execHomeAccessArrival x1 x2 s
  | .loadDataReturn x1 x2 x3 x4 => Sys2Proof.Machine.execLoadDataReturn x1 x2 x3 x4 s
  | .barrierArrivalMessage x1 x2 x3 x4 => Sys2Proof.Machine.execBarrierArrivalMessage x1 x2 x3 x4 s
  | .barrierRelease x1 x2 => Sys2Proof.Machine.execBarrierRelease x1 x2 s
  | .barrierDeparture x1 x2 x3 x4 => Sys2Proof.Machine.execBarrierDeparture x1 x2 x3 x4 s
  | .dequeReserve x1 => Sys2Proof.Machine.execDequeReserve x1 s
  | .dequeOwnerTake x1 => Sys2Proof.Machine.execDequeOwnerTake x1 s
  | .droverProbe x1 => Sys2Proof.Machine.execDroverProbe x1 s
  | .registerCompaction x1 => Sys2Proof.Machine.execRegisterCompaction x1 s
  | .operandBufferCompaction x1 => Sys2Proof.Machine.execOperandBufferCompaction x1 s
  | .operandFill x1 => Sys2Proof.Machine.execOperandFill x1 s
  | .matrixQueueEntry x1 => Sys2Proof.Machine.execMatrixQueueEntry x1 s
  | .currentGrant x1 => Sys2Proof.Machine.execCurrentGrant x1 s
  | .matrixEntryExecute x1 => Sys2Proof.Machine.execMatrixEntryExecute x1 s
  | .matrixEntryComplete x1 => Sys2Proof.Machine.execMatrixEntryComplete x1 s
  | .gangForm x1 => Sys2Proof.Machine.execGangForm x1 s
  | .gangTimeout x1 x2 => Sys2Proof.Machine.execGangTimeout x1 x2 s
  | .jointLatchRelease x1 => Sys2Proof.Machine.execJointLatchRelease x1 s
  | .linkedRegionClear x1 x2 => Sys2Proof.Machine.execLinkedRegionClear x1 x2 s
  | .contextAllocate x1 => Sys2Proof.Machine.execContextAllocate x1 s
  | .engineChunk x1 => Sys2Proof.Machine.execEngineChunk x1 s
  | .engineUnitRelease x1 => Sys2Proof.Machine.execEngineUnitRelease x1 s
  | .copyRelease x1 x2 => Sys2Proof.Machine.execCopyRelease x1 x2 s
  | .contextFault x1 x2 x3 => Sys2Proof.Machine.execContextFault x1 x2 x3 s
  | .contextResume x1 x2 x3 x4 => Sys2Proof.Machine.execContextResume x1 x2 x3 x4 s
  | .streamStep x1 x2 => Sys2Proof.Machine.execStreamStep x1 x2 s
  | .ringStreamStep x1 x2 => Sys2Proof.Machine.execRingStreamStep x1 x2 s
  | .nodeStart x1 x2 => Sys2Proof.Machine.execNodeStart x1 x2 s
  | .nodeComplete x1 x2 => Sys2Proof.Machine.execNodeComplete x1 x2 s
  | .budgetYieldEnter x1 x2 => Sys2Proof.Machine.execBudgetYieldEnter x1 x2 s
  | .budgetYieldLeave x1 x2 => Sys2Proof.Machine.execBudgetYieldLeave x1 x2 s
  | .heartbeatMissed x1 => Sys2Proof.Machine.execHeartbeatMissed x1 s
  | .watchdog x1 x2 => Sys2Proof.Machine.execWatchdog x1 x2 s
  | .trapDelivery x1 => Sys2Proof.Machine.execTrapDelivery x1 s
  | .trappopWrite x1 => Sys2Proof.Machine.execTrappopWrite x1 s
  | .wakeableRestore x1 x2 => Sys2Proof.Machine.execWakeableRestore x1 x2 s
  | .thermalSample x1 x2 => Sys2Proof.Machine.execThermalSample x1 x2 s
  | .emergencySave x1 => Sys2Proof.Machine.execEmergencySave x1 s
  | .moveForce x1 x2 => Sys2Proof.Machine.execMoveForce x1 x2 s
  | .moveTransfer x1 => Sys2Proof.Machine.execMoveTransfer x1 s
  | .coolantLowFlow x1 => Sys2Proof.Machine.execCoolantLowFlow x1 s
  | .coolantHighDt x1 => Sys2Proof.Machine.execCoolantHighDt x1 s
  | .coolantGas x1 => Sys2Proof.Machine.execCoolantGas x1 s
  | .evacuationStep x1 => Sys2Proof.Machine.execEvacuationStep x1 s
  | .flowMeasure x1 x2 x3 x4 => Sys2Proof.Machine.execFlowMeasure x1 x2 x3 x4 s
  | .hostCxlMemWrite x1 x2 => Sys2Proof.Machine.execHostCxlMemWrite x1 x2 s
  | .hostCxlMemRead x1 x2 => Sys2Proof.Machine.execHostCxlMemRead x1 x2 s
  | .hostAtsInvalidation x1 x2 x3 => Sys2Proof.Machine.execHostAtsInvalidation x1 x2 x3 s
  | .prqWrite x1 x2 => Sys2Proof.Machine.execPrqWrite x1 x2 s
  | .pageRequestResult x1 x2 => Sys2Proof.Machine.execPageRequestResult x1 x2 s
  | .cxlLinkChange x1 x2 x3 => Sys2Proof.Machine.execCxlLinkChange x1 x2 x3 s
  | .cxlLinkDownTimeout => Sys2Proof.Machine.execCxlLinkDownTimeout s
  | .caravanPortTrain x1 x2 => Sys2Proof.Machine.execCaravanPortTrain x1 x2 s
  | .cvcfgWrite x1 => Sys2Proof.Machine.execCvcfgWrite x1 s
  | .msgtxWrite x1 => Sys2Proof.Machine.execMsgtxWrite x1 s
  | .messageArrival x1 => Sys2Proof.Machine.execMessageArrival x1 s
  | .messageSendDone x1 => Sys2Proof.Machine.execMessageSendDone x1 s
  | .pwrctlWrite x1 x2 => Sys2Proof.Machine.execPwrctlWrite x1 x2 s
  | .powerStateChange x1 x2 => Sys2Proof.Machine.execPowerStateChange x1 x2 s
  | .nearThresholdEntry x1 => Sys2Proof.Machine.execNearThresholdEntry x1 s
  | .quiescePoint x1 => Sys2Proof.Machine.execQuiescePoint x1 s
  | .quiesceTimeout x1 => Sys2Proof.Machine.execQuiesceTimeout x1 s
  | .powerStaggerStep => Sys2Proof.Machine.execPowerStaggerStep s
  | .manifoldLeak => Sys2Proof.Machine.execManifoldLeak s
  | .fectlWrite x1 x2 => Sys2Proof.Machine.execFectlWrite x1 x2 s
  | .trmodeWrite x1 x2 => Sys2Proof.Machine.execTrmodeWrite x1 x2 s
  | .l2quotaWrite x1 x2 => Sys2Proof.Machine.execL2quotaWrite x1 x2 s
  | .qwinWrite x1 x2 => Sys2Proof.Machine.execQwinWrite x1 x2 s
  | .qstormWrite x1 x2 => Sys2Proof.Machine.execQstormWrite x1 x2 s
  | .curcapWrite x1 x2 => Sys2Proof.Machine.execCurcapWrite x1 x2 s
  | .coolctlWrite x1 x2 => Sys2Proof.Machine.execCoolctlWrite x1 x2 s
  | .hbctlWrite x1 x2 => Sys2Proof.Machine.execHbctlWrite x1 x2 s
  | .thctlWrite x1 x2 => Sys2Proof.Machine.execThctlWrite x1 x2 s
  | .esctlWrite x1 x2 => Sys2Proof.Machine.execEsctlWrite x1 x2 s
  | .dbgctlWrite x1 x2 x3 => Sys2Proof.Machine.execDbgctlWrite x1 x2 x3 s
  | .dbgkillWrite x1 x2 x3 => Sys2Proof.Machine.execDbgkillWrite x1 x2 x3 s
  | .tblstatClear x1 x2 => Sys2Proof.Machine.execTblstatClear x1 x2 s
  | .systemRegisterWrite x1 x2 x3 x4 => Sys2Proof.Machine.execSystemRegisterWrite x1 x2 x3 x4 s
  | .leakValveClose => Sys2Proof.Machine.execLeakValveClose s
  | .modcoolHot x1 => Sys2Proof.Machine.execModcoolHot x1 s
  | .cxlCacheSnoop x1 x2 => Sys2Proof.Machine.execCxlCacheSnoop x1 x2 s
  | .nodeTableEntry x1 => Sys2Proof.Machine.execNodeTableEntry x1 s

end Sys2Proof.Machine
end

