-- ==== Sys2Proof/Machine/Errors.lean ====
section
/-! DEFINITION. Array errors where no access meets them first: in a lodge, in an instruction cache, in
a staging, in the dirty sectors of the caches; and in the operands of an instruction (R112, R153, R158,
R178; log entry 74). -/
namespace Sys2Proof.Machine
open Sys2Proof

/-! ### Operands (R112) -/

/-- The registers that an operand reads, or, for the destination of a fibre that is not to write, none
(R64). -/
def readsCell (k : Crew) (lane : Nat) (o : Opnd) : Site → Bool
  | .reg copy v l =>
    l == lane && copy == bit k.cur (v / 8) &&
      match o with
      | .reg b n _ => b ≤ v && decide (v < b + n)
      | .dst b n _ => !bit k.dirty (v / 8) && b / 8 ≤ v / 8 && decide (v / 8 ≤ (b + n - 1) / 8)
      | .spare | .lat .. => false
  | _ => false

/-- The fibres of a batch whose operands at a position hold an error: what an active fibre reads, and
the granules that its result is the first to rename (R102, R112). Errors that the code corrects are
corrected. -/
def operandErrors (s : State) (r : Run) (i : Instr) : State × List (Nat × Nat × Cause × W64) :=
  let ops := opnds (r.narrow s) i
  r.fibres.foldl (fun (p : State × List (Nat × Nat × Cause × W64)) (lane, slot) =>
    match p.1.crew? r.core slot with
    | none => p
    | some k =>
      if k.upsets.isEmpty || !((k.fibres.get? lane).any fun f => (i.guard?.all fun g => g.holds f.pred)) then p
      else
        match readSites p.1 r.core (some (r.core, slot)) fun x => ops.any fun o => readsCell k lane o x with
        | (s, none) => (s, p.2)
        | (s, some x) =>
          (s, p.2 ++ [(lane, slot, .machineCheck, BitVec.ofNat 64 (cellSector r.core k x))])) (s, [])

/-- MACHINE_CHECK at a position, taken by each fibre whose operand an uncorrectable error touches; the
others issue it (R112). -/
def checkOperands (s : State) (r : Run) (i : Instr) : State × List (Nat × Nat × Cause × W64) :=
  if interlocked s r (regsOf (r.narrow s) i) then (s, [])
  else
    let (s1, l) := operandErrors s r i
    if l.isEmpty then (s1, [])
    else
      let (s2, r2) := trapFibres s1 r l
      (requeue s2 r2, l)

/-! ### The other memories (R161, R178) -/

/-- The errors in one core's lodge and instruction cache that are due. -/
def coreUpsets (s : State) (c : Nat) : List Upset :=
  struck s none fun x => match x with
    | .icache y line => y == c && (s.core c).icache.any fun l => l.line == line
    | .lodge y id => y == c && (s.core c).lodge.any fun e => e.id == id
    | _ => false

/-- An error in a lodge entry: one that the code corrects is corrected and counted; another squashes the
uncleared regions of its crew, which takes MACHINE_CHECK at its head (R178). -/
def lodgeError (s : State) (c : Nat) (e : LEntry) : State :=
  match readSites s c none (· == .lodge c e.id) with
  | (s, none) => s
  | (s, some x) => headCheck (restartOnly (s.heal (· == x)) c [e.slot] false) c e.slot e.sector

/-- ARRAY_ERROR of a core: the parity of its instruction cache has the line fetched again (R153), and its
lodge as `lodgeError` says. -/
def coreArrayErrors (c : Nat) (s : State) : State :=
  (coreUpsets s c).foldl (fun s u => match u.site with
    | .icache _ line =>
      countFixed ((s.heal (· == u.site)).mapCore c fun co =>
        { co with icache := co.icache.filter fun l => l.line != line }) c 11 1
    | .lodge _ id =>
      match (s.core c).lodge.find? fun e => e.id == id with
      | some e => lodgeError s c e
      | none => s
    | _ => s) s

/-- The unit and the physical sector of an uncorrectable error that is reported to the Keeper of the home
die: in an acknowledged staging entry, and in a dirty sector of an L2 or of a last-level cache (R178,
R416). Staging has no unit code of its own: the stacked die of the sector is named (log entry 74). -/
def errorUnit (s : State) (x : Site) : Option (Nat × Nat) :=
  let stacked := fun (n : Nat) => 0x2000 + 4 * homeOf (64 * n) + n / 256 % 8 / 2
  match x with
  | .staging c id =>
    (s.dies.vals.findSome? fun d => d.staging.find? fun e => e.core == c && e.e.id == id).map fun e =>
      (stacked e.e.sector, e.e.sector)
  | .l2 k n =>
    if (l2Find (s.cluster k) (n / 4)).any fun l => bit l.dirty (n % 4) then some (0x1000 + k, n) else none
  | .llc n => if (s.llc.get? (n / 4)).any fun l => bit l.dirty (n % 4) then some (stacked n, n) else none
  | _ => none

/-- The resident crews of the package. -/
def residents (s : State) : List (Nat × Nat × BitVec 32) :=
  (s.cores.cells.map fun (c, co) => (guests co).map fun (_, k) => (c, k.tenant, k.number)).flatten

/-- The first error whose report is due. -/
def untold (s : State) : Option (Upset × Nat × Nat) :=
  (struck s none fun _ => true).findSome? fun u =>
    if u.fixed || u.told.isSome then none else (errorUnit s u.site).map fun p => (u, p)

/-- ARRAY_ERROR to the Keeper of the home die; each resident crew's next access to the sector takes
MACHINE_CHECK (R178, R366). -/
def tellArrayError (s : State) : State :=
  match untold s with
  | none => s
  | some (u, unit, sector) =>
    report { s with upsets := s.upsets.map fun x =>
        if x = u then { x with told := some sector, crews := residents s } else x }
      (dieKeeper s (homeOf (64 * sector))) .arrayError 0 0 (BitVec.ofNat 64 unit) (BitVec.ofNat 64 sector)

end Sys2Proof.Machine
end

