-- ==== Sys2Proof/Machine/Schedule.lean ====
section
/-! DEFINITION. The order in which the machine's own events take effect within a cycle, what passes
with a cycle, and the batch whose turn it is (log entries 4 and 14). -/
namespace Sys2Proof.Machine
open Sys2Proof

/-! ### Units that run -/

/-- Whether the clock of a core runs: it is not captured (R351), and the rail is on (R376). -/
def clocked (s : State) (c : Nat) : Bool := !(s.core c).captured && !s.mod.railCut

/-- Whether every crew of a core that moves has stopped and cleared, so that its engine stops too
(R377, step 3). -/
def moveStops (s : State) (c : Nat) : Bool :=
  (s.core c).moving.isSome &&
    (s.core c).crews.cells.all fun p => isKeeper p.1 || (p.2.still && quietToLeave s c p.1 p.2)

/-- Whether the engine of a core may start work: the core runs, its cluster has its clock and no
hold of a quiesce point, and no move has stopped it (R377, R378, R418, R421). -/
def engineRuns (s : State) (c : Nat) : Bool :=
  clocked s c && !(s.core c).halted && (s.cluster (clusterOf c)).pstate == 0 &&
    !quiesceHold s (clusterOf c) && !moveStops s c

/-! ### The events of a cycle -/

/-- An event as the machine tries it. -/
abbrev Ev := State → Out

/-- Messages between a core and a die, and room in the staging. -/
def netEvents (s : State) : List Ev :=
  (s.net.keys.map fun i =>
    let c := i / 4
    let d := i % 4
    [execSquashMessage c d, execClearMessage c d, execStagingArrival c d,
      execHomeAccessArrival c d]).flatten ++
  (s.cores.cells.map fun (c, co) =>
    ((co.lodge.filter fun e => e.home.isSome && !e.acked).map fun e => execStagingAck c e.id) ++
    ((co.units.filter fun u => u.home.isSome && !u.acked).map fun u => execStagingAck c u.id) ++
      (List.range 4).map fun d => execStagingSpaceFree c d).flatten

/-- Whether a flight awaits nothing of another module: the data of a far load comes with the answer
of that module, from outside (R199). -/
def nearFlight (s : State) (f : Flight) : Bool :=
  awaitsData f && f.lanes.vals.all fun l => l.req.all fun q =>
    q.pas.all fun pa => zoneOf (canonPa s pa) != .domain

/-- Clears, traps, budgets, restarts and results of a core's crews. -/
def crewEvents (s : State) (c : Nat) (co : Core) : List Ev :=
  let slots := co.crews.keys
  (slots.map fun x => [execRegionClear c x, execLinkedRegionClear c x]).flatten ++
  [execTrapDelivery c] ++
  (slots.map fun x => [execBudgetYieldEnter c x, execBudgetYieldLeave c x,
    execRestartReissue c x]).flatten ++
  (co.crews.cells.map fun (x, k) =>
    ((List.range k.rdvs.length).map fun i => execRendezvousComplete c x i) ++
    ((k.flights.filter (nearFlight s)).map fun f => execLoadDataReturn c x f.id []) ++
    (k.flights.filter (·.ready)).map fun f => execResultWriteback c x f.id).flatten ++
  [execLodgeGrant c, execLodgeStallBreak c, fun s => .next (coreArrayErrors c s)]

/-- The matrix unit and the gangs of a core. -/
def matrixEvents (c : Nat) (co : Core) : List Ev :=
  [execMatrixEntryComplete c, execMatrixQueueEntry c, execOperandFill c, execMatrixEntryExecute c,
    execGangForm c, execJointLatchRelease c] ++
  (co.gangQ.map fun a => execGangTimeout c a.slot) ++
  co.latchQ.map fun a => execGangTimeout c a.slot

/-- The chunks and steps of a core's engine, the one next in turn first: the contexts by pool number,
then the streams by crew slot and index (R260; log entry 73). -/
def turnEvents (s : State) (c : Nat) (co : Core) : List Ev :=
  let steps := fun (l : List Nat) => (l.map fun p => [execStreamStep c p, execRingStreamStep c p]).flatten
  let after := co.streams.keys.filter fun p => decide (co.ctxTurn < 256 + p)
  let chunk := (nextCtx s c).any fun q => decide (co.ctxTurn < q.1)
  (if chunk then [execEngineChunk c] else []) ++ steps after ++ [execEngineChunk c] ++
    steps (co.streams.keys.filter fun p => decide (256 + p ≤ co.ctxTurn))

/-- The engine of a core: what is staged is released whether or not the engine starts new work. -/
def engineEvents (s : State) (c : Nat) (co : Core) : List Ev :=
  [execEngineUnitRelease c] ++
  (co.ctxs.keys.map fun p => [execCopyRelease c p, execContextFault c false p]).flatten ++
  (co.streams.keys.map fun p => execContextFault c true p) ++
  (co.streams.keys.map fun p => fun s => .next (settleStream s c p)) ++
  [fun s => .next (trimGhosts s c)] ++
  (co.nodes.keys.map fun n => execNodeComplete c n) ++
  (if !engineRuns s c then []
   else [execContextAllocate c, execNodeTableEntry c] ++ (co.nodes.keys.map fun n => execNodeStart c n)
     ++ turnEvents s c co)

/-- The front end, the deque and the placements of a core. -/
def frontEvents (c : Nat) (co : Core) : List Ev :=
  ((List.range co.waits.length).map fun i => [execRegionOpenAtIssue c i, execQuietRegionOpen c i]).flatten
  ++ (co.bins.keys.map fun i => [execBinAgeReady c i, execGatherTimeout c i]).flatten ++
  [execInstructionFillDone c, execBatchIssue c, execDequeReserve c, execDequeOwnerTake c,
    execRegisterCompaction c, execOperandBufferCompaction c]

/-- Evictions, restores, moves and saves of a core. -/
def moveEvents (c : Nat) (co : Core) : List Ev :=
  ((List.range co.migs.length).map fun i => fun (s : State) => Host.Outcome.next (serveMig s c i)) ++
  [fun s => .next (stopMarked s c)] ++
  (co.crews.keys.map fun x => execMoveForce c x) ++
  [execMoveTransfer c, execEmergencySave c, execDependantEviction c] ++
  (List.range co.evicted.length).map fun i => execWakeableRestore c i

/-- What a core brings to the coolant controller in a cycle (R333): the requests of its Keeper, and the
launch crew that it may take. -/
def heatEvents (s : State) (c : Nat) (co : Core) : List Ev :=
  (if co.asks.isEmpty then [] else [fun s => .next (serveAsks s c)]) ++
  if s.mod.launches.vals.all fun l => decide (launchCrews l ≤ l.taken) then []
  else [fun s => .next (claimPlace s c)]

/-- What the management core watches on a core. -/
def watchEvents (s : State) (c : Nat) (co : Core) : List Ev :=
  [execHeartbeatMissed c] ++ (co.crews.keys.map fun x => execWatchdog c x) ++
  (if co.prqBusy && linkUp s && decide (co.prqAt + 100000 ≤ usOf s.now) then
    [execPageRequestResult c .noResponse] else [])

/-- The events of one core. -/
def coreEvents (s : State) (c : Nat) (co : Core) : List Ev :=
  if !clocked s c then heatEvents s c co
  else crewEvents s c co ++ heatEvents s c co ++ matrixEvents c co ++ engineEvents s c co ++ frontEvents c co ++
    moveEvents c co ++ watchEvents s c co

/-- The barriers of a launch (R51, R52). -/
def barrierEvents (a : Nat) (l : Launch) : List Ev :=
  (l.bdep.keys.map fun k => execBarrierDeparture a (k / 4096) (k / 1024 % 4) (k % 1024)) ++
  (l.bup.keys.map fun k => execBarrierArrivalMessage a (k / 4096) (k / 1024 % 4) (k % 1024)) ++
  l.groups.keys.map fun g => execBarrierRelease a g

/-- The queue unit and the launches. -/
def launchEvents (s : State) : List Ev :=
  let m := s.mod
  (m.walkers.keys.map fun i => [execControlBlockReread i, execPacketRead i, execPacketBarRelease i,
    execLaunchPost i, execWaitPacketPoll i]).flatten ++ [execWalkerSlotAssign, fun s => .next (postBarred s)] ++
  (m.claimed.map fun p => execLaunchCheck p.1 p.2) ++
  (m.tickets.map fun p => execLaunchCheck (leadCore s) p.1) ++ [execActiveLaunchEntry] ++
  (if m.launches.vals.all fun l => decide (launchCrews l ≤ l.taken) then []
   else (((List.range 256).filterMap fun n => placeCore s n).filter fun c =>
     (s.core c).claim.isSome).map fun c => execCrewPlace c) ++
  (m.launches.cells.map fun (a, l) => execLaunchComplete a :: barrierEvents a l).flatten

/-- The clusters. -/
def clusterEvents (s : State) : List Ev :=
  (s.clusters.keys.map fun k =>
    [execTranslationWalk k, execCurrentGrant k, execNearThresholdEntry k, execQuiescePoint k,
      execQuiesceTimeout k, execPowerStateChange k (BitVec.ofNat 3 (clusterTarget s k))]).flatten

/-- The coolant zones that may want attention: all of them once a zone that nothing has written has had
too little flow for 10 ms. -/
def zonesAwake (s : State) : List Nat :=
  if s.mod.coolAt + 10000 ≤ usOf s.now then List.range 64 else s.mod.zones.keys

/-- The coolant zones: gas is reported as it is found, then HIGH_DT and LOW_FLOW (R335). -/
def zoneEvents (s : State) : List Ev :=
  (s.mod.zones.keys.map fun z => [fun s => Host.Outcome.next (watchZone s z), execEvacuationStep z]).flatten ++
    (zonesAwake s).map execCoolantHighDt ++ (zonesAwake s).map execCoolantLowFlow

/-- The module's own units. -/
def moduleEvents (s : State) : List Ev :=
  [fun s => .next (tellArrayError s), fun s => .next (settleAts s), execAttestationDone, execBootGoTimeout, execCxlLinkDownTimeout,
    execPowerStaggerStep, execLeakValveClose,
    execPowerStateChange 32 (BitVec.ofNat 3 (moduleTarget s))] ++ zoneEvents s

/-- All events that the machine may find due, in the order in which it looks for them; a victim's own
take comes before the Drovers' probes of its cycle (R54). -/
def events (s : State) : List Ev :=
  netEvents s ++ (s.cores.cells.map fun p => coreEvents s p.1 p.2).flatten ++
    ((s.cores.keys.filter (clocked s)).map fun c => execDroverProbe c) ++ clusterEvents s ++
    launchEvents s ++ moduleEvents s

/-- The first event of a list that changes the state, and what it leaves. -/
def firstChange (s : State) : List Ev → Option State
  | [] => none
  | e :: r =>
    match e s with
    | .next t => if t = s then firstChange s r else some t
    | _ => firstChange s r

/-! ### What passes with a cycle -/

/-- Whether a crew issues in this cycle. -/
def crewIssues (s : State) (c slot : Nat) : Bool :=
  s.runs.any fun r => r.core == c && r.hold.isNone && r.fibres.any fun f => f.2 == slot

/-- The watchdog of a crew over a cycle of its core (R352): COUNT holds once it has been reported, and
with WD = 0 it rises past LIMIT. -/
def wdTick (s : State) (c slot : Nat) (k : Crew) : Crew :=
  let ws := crewWaits s c slot k
  let k := { k with wdPast := k.wdLimit != 0 && k.wdCount == k.wdLimit }
  if k.wdSaid then k
  else if ws.isEmpty then { k with wdCount := 0, wdFrac := 0 }
  else if ws.all (·.2.2) || crewIssues s c slot then k
  else if k.wdFrac + 1 < 1024 * clockDiv s c then { k with wdFrac := k.wdFrac + 1 }
  else { k with wdFrac := 0, wdCount := if k.wdCount = BitVec.allOnes 24 then k.wdCount
                                        else k.wdCount + 1 }

/-- The cycles with a blocked or a parked fibre that a crew counts (R38, R353, events 7 and 16). -/
def waitCounts (s : State) (c slot : Nat) (k : Crew) : List (Nat × Nat × Nat) :=
  let l := (liveFibres k).filterMap fun p => laneWait s c slot k p.1
  (if l.any fun w => w != .pageFault && w != .halt then [(slot, 7, 1)] else []) ++
    if l.contains .pageFault then [(slot, 16, 1)] else []

/-- Whether a fibre that a gathering bin lacks is parked or blocked. -/
def lackWaits (s : State) (c : Nat) (p : Nat × Nat) : Bool :=
  (s.crew? c p.2).any fun k => (k.fibres.get? p.1).any isTrapped || (laneWait s c p.2 k p.1).isSome

/-- A bin over a cycle of its core: the gather timer holds while every missing fibre is parked or
blocked (R39), and a bin that has filled stays ready (R37). -/
def binTick (s : State) (c : Nat) (co : Core) (b : Bin) : Bin :=
  if b.gather then
    (if !b.ready && (binMissing co b).any fun p => !lackWaits s c p then { b with gtime := b.gtime + 1 }
     else b)
  else if binFull co b then { b with ready := true }
  else b

/-- What takes effect on a core with the next cycle: a new FECTL (R40) and slot table (R320), and with
its clock stopped `%tick` holds (R350). -/
def coreTurn (s : State) (c : Nat) (co : Core) : Core :=
  let runs := s.now % clockDiv s c == 0 && (s.cluster (clusterOf c)).pstate == 0
  slotTurn { co with fectlNow := co.fectl
                     tickOff := if runs || co.tickStop.isSome then co.tickOff else co.tickOff + 1 }

/-- A core over a cycle: its timers run with its clock. -/
def coreTick (s : State) (c : Nat) (co : Core) : Core :=
  if !clocked s c then coreTurn s c co
  else
    let beat := s.now % clockDiv s c == 0
    coreTurn s c
      { co with
        crews := if beat then co.crews.mapKV fun x k => wdTick s c x k else co.crews
        bins := if beat then co.bins.mapKV fun _ b => binTick s c co b else co.bins
        tally := co.tally ++
          (if beat then co.crews.cells.flatMap fun p => waitCounts s c p.1 p.2 else []) }

/-- A cycle passes: the external changes of budgets take effect (R346), and the place table as it
stands resolves places from now on (R323). -/
def tickAll (s : State) : State :=
  let s1 := nearTick (applyChanges (dropClaims s))
  { s1 with cores := s1.cores.mapKV fun c co => coreTick s1 c co, now := s.now + 1
            mod := { s1.mod with placesNow := s1.mod.places } }

/-- The machine between two positions: the first event that is due, or else the next cycle. -/
def idle (s : State) : State :=
  match firstChange s (events s) with
  | some t => t
  | none => tickAll s

/-! ### The batch whose turn it is -/

/-- Whether a batch may issue its position now (R22, R66, R376, R421). -/
def runDue (s : State) (r : Run) : Bool :=
  r.hold.isNone && decide (r.due ≤ s.now) && clocked s r.core && !(s.core r.core).halted &&
    s.now % clockDiv s r.core == 0

/-- The batch that issues next, moved to the head of the others. -/
def turn (s : State) : Option (Run × State) :=
  match s.runs.find? (runDue s) with
  | some r => some (r, { s with runs := r :: s.runs.erase r })
  | none => none

/-- Whether a batch stands where it stood: its position did not complete. -/
def sameSpot (r : Run) (s : State) : Bool :=
  s.runs.getLast?.any fun q => q.core == r.core && q.clause == r.clause && q.pos == r.pos &&
    q.fibres.any fun f => r.fibres.contains f

/-- What follows a position: it is counted once it has completed (R353). -/
def afterPos (s0 : State) (r : Run) (i : Instr) (s : State) : State :=
  let waits := r.fibres.any fun p => (s.fibre? r.core p.2 p.1).any fun f =>
    match f.st with | .blocked (.deque _) => true | _ => false
  if waits || sameSpot r s then s else countPosition s0 r i s

/-- A word that does not decode, which the checks of R68 let no batch reach. -/
def badWord (s : State) (r : Run) : State :=
  batchFault { s with runs := s.runs.tail } r.core
    { tenant := Config.noTenant, pc := r.clause, rpos := r.pos, fibres := r.fibres, partials := false }
    .illegalInstruction 0 r.pos 0 r.hdr

/-! ### Events from outside -/

/-- Whether an entry of the agenda is an event: instructions are issued by batches alone. -/
def isEvent (i : Instr) : Bool := (encode i).isNone

/-- The event of the agenda that is due, and the state without it. -/
def agendaNext (s : State) : Option (Instr × State) :=
  match s.agenda.find? fun p => decide (p.1 ≤ s.now) with
  | some p => some (p.2, { s with agenda := s.agenda.erase p })
  | none => none

/-! ### An instruction placed for the next step -/

/-- A crew of 256 registers with one running fibre, whose region is open. -/
def probeCrew : Crew :=
  { newCrew 0 0 0 0x0000F80000000000 ⟨0, 0, 0, 0, 0, 0⟩ with
    fibres := ⟨[(0, { newFibre 0x1000 with st := .running })]⟩
    ib := 0xFFFFFFFFFFFF, mb := 0xFFFFFFFFFFFF }

/-- The batch of that fibre at the first position of a clause of one word. -/
def probeRun (now : Nat) (w : W64) : Run :=
  { runFor 0 0x1000 (setFld 0 63 60 (((decode w).map Instr.home).getD 0)) [w] 0 now [(0, 0)] with
    due := now }

/-- The state in which the next step issues a word: a crew in slot 0 of core 0 with a batch inside
a clause that holds the word, and the core running (log entry 13). -/
def placeWord (s : State) (w : W64) : State :=
  let k := openCrew s.now 0 [0] 0x1000 (((decode w).map Instr.commitPoint).getD false) [] probeCrew
  let k1 := { k with fibres := probeCrew.fibres }
  let s1 := s.mapCore 0 fun co =>
    { co with halted := false, captured := false, slow := false, crews := co.crews.put 0 k1 }
  let s2 := if (s1.cluster 0).near then s1.mapCluster 0 fun x => { x with near := false } else s1
  { s2 with mod := { s2.mod with railCut := false }
            runs := probeRun s.now w :: s.runs
            agenda := s.agenda.filter fun p => decide (s.now < p.1) }

end Sys2Proof.Machine
end

