-- ==== Sys2Proof/Machine/Step.lean ====
section
/-! DEFINITION. One step of the machine: an event that comes from outside, or the position of the
batch whose turn it is, or the machine's own next event, or the next cycle. -/
namespace Sys2Proof.Machine
open Sys2Proof

/-- An outcome whose next state is followed by something more. -/
def onNext (f : State → State) (o : Out) : Out :=
  match o with
  | .next s => .next (f s)
  | .fault r => .fault r
  | .refused r => .refused r

/-- A batch at the head issues its position, once the fibres have trapped whose operands hold an array
error (R112); or, past its last word, it ends its clause (R114). -/
def stepRun (r : Run) (s : State) : Out :=
  if r.words.length ≤ r.pos then execClauseEnd s
  else match wordAt r.words r.pos with
    | some i => match checkOperands s r i with
      | (s1, []) => onNext (afterPos s1 r i) (exec i s1)
      | (s1, _) => .next s1
    | none => .next (badWord s r)

/-- One step, before the events it has noted enter the counters. -/
def stepBase (s : State) : Out :=
  match agendaNext s with
  | some (i, s1) => if isEvent i then exec i s1 else .next s1
  | none =>
    match turn s with
    | some (r, s1) => stepRun r s1
    | none => .next (idle s)

/-- One step of the machine. -/
def step (s : State) : Host.Outcome State Fault Refusal := onNext settleTally (stepBase s)

/-- The state with an instruction word placed where the next step issues it; the state itself for a
word of another length. -/
def State.withFetchWord (s : State) (nbits w : Nat) : State :=
  if nbits ≤ 64 ∧ w < 2 ^ 64 then placeWord s (BitVec.ofNat 64 w) else s

end Sys2Proof.Machine
end

