-- ==== Sys2Proof/Safety.lean ====
section
/-! DEFINITION. What the statements about the machine speak of: a batch that can issue, what a
step may leave unchanged, and the effect of an instruction that computes one result for each
fibre or one predicate for each fibre. -/
namespace Sys2Proof.Machine
open Sys2Proof

/-! ### A batch that can issue -/

/-- The batch whose turn it is, which the interlock of R67 does not hold. -/
def Issues (s : State) (r : Run) (i : Instr) : Prop :=
  s.runs.head? = some r ∧ interlocked s r (regsOf (r.narrow s) i) = false

/-- A batch as R36 forms it: it holds a fibre, at most one for each lane, and no lane beyond
the 64. -/
def Run.Placed (r : Run) : Prop :=
  r.fibres ≠ [] ∧ (r.fibres.map (·.1)).Nodup ∧ ∀ p ∈ r.fibres, p.1 < 64

/-- The registers a destination names are aligned and inside the register file (R64, R65). -/
def DstFits (d : Dst) (wide : Bool) : Prop :=
  match d with
  | .reg b | .sup b => wide = true → b.toNat % 2 = 0
  | .none => True

/-- The batch after its position: the next position, due one cycle of its core's clock and the extra
cycles later, or 4 cc later where it was the last (R22, R114). -/
def Run.passed (r : Run) (s : State) (extra : Nat) : Run :=
  { r with pos := r.pos + 1
           due := s.now + (extra + (if r.pos + 1 = r.words.length then 4 else 1)) * clockDiv s r.core
           hold := none, fails := [], tmp := [], taken := false }

/-! ### What stays as it was -/

/-- A crew without its register copies, their maps, and the errors of its own arrays, which a write mends
(R96 to R102, R112). -/
def Crew.sansRegs (k : Crew) : Crew :=
  { k with reg0 := .empty, reg1 := .empty, cur := 0, dirty := 0, upsets := [] }

/-- A crew without its register copies, and without the close point and the window of its open
region, which every issue moves (R208). -/
def Crew.calm (k : Crew) : Crew :=
  { k.sansRegs with region := k.region.map fun g => { g with close := 0, win := 0 } }

/-- Everything outside the crews of one core and outside the list of batches is unchanged:
memory, the caches, every other core, the clusters, the dies, the module, and of the core
every other field. -/
def SameBut (c : Nat) (s t : State) : Prop :=
  { t with cores := s.cores, runs := s.runs } = s ∧
  (∀ d, d ≠ c → t.core d = s.core d) ∧
  { t.core c with crews := (s.core c).crews } = s.core c

/-- Every byte of memory reads as before. -/
def SameBytes (s t : State) : Prop := ∀ a, homeGet t a = homeGet s a

/-- What two states hold under one crew slot, related. -/
def AtCrew (s t : State) (c slot : Nat) (R : Crew → Crew → Prop) : Prop :=
  match s.crew? c slot, t.crew? c slot with
  | none, none => True
  | some k, some k' => R k k'
  | _, _ => False

/-- Two crews that differ at most in the close point and the window of the open region, and not
at all where the crew is outside the batch. -/
def Calmed (inside : Prop) (k k' : Crew) : Prop :=
  k'.calm = k.calm ∧ k'.reg0 = k.reg0 ∧ k'.reg1 = k.reg1 ∧ k'.cur = k.cur ∧ k'.dirty = k.dirty ∧
    (¬ inside → k' = k)

/-- An issue that changes nothing of a crew but the close point and the window of its open region, nor
anything outside the crews of the core and the list of batches, where `r'` takes the batch's place. -/
def Passes (i : Instr) (s : State) (r r' : Run) : Prop :=
  ∃ t : State, exec i s = .next t ∧ t.runs = s.runs.tail ++ [r'] ∧ SameBut r.core s t ∧
    SameBytes s t ∧ ∀ slot, AtCrew s t r.core slot (Calmed (slot ∈ r.slots))

/-! ### One result for each fibre -/

/-- Whether a lane of a crew is an active fibre of the batch (R36, R61, R62). -/
def activeIn (r : Run) (g : Guard) (slot : Nat) (k : Crew) (lane : Nat) : Bool :=
  r.fibres.contains (lane, slot) && (k.fibres.get? lane).any fun f => g.holds f.pred

/-- The predicate word of a lane. -/
def predOf (k : Crew) (lane : Nat) : BitVec 16 :=
  match k.fibres.get? lane with
  | some f => f.pred
  | none => 0

/-- The registers of a pair or the one register as a value (R99). -/
def pairAt (k : Crew) (wide : Bool) (v lane : Nat) : W64 :=
  if wide then regGet k (v + 1) lane ++ regGet k v lane else (regGet k v lane).setWidth 64

/-- The register v of a lane after an instruction that gives the active fibres of the batch a
result: the result, its upper half in the register that follows, where `d` is written and names
v; what it held otherwise (R62, R64, R99). -/
def regAfter (r : Run) (g : Guard) (d : Dst) (wide : Bool)
    (f : BitVec 16 → (Bool → Src → W64) → W64) (slot : Nat) (k : Crew) (v lane : Nat) : W32 :=
  match d with
  | .reg b =>
    if activeIn r g slot k lane then
      let w := f (predOf k lane) (srcVal k r lane)
      if v = b.toNat then w.setWidth 32
      else if wide ∧ v = b.toNat + 1 then (w >>> 32).setWidth 32
      else regGet k v lane
    else regGet k v lane
  | _ => regGet k v lane

/-- What the latch of a fibre receives: the result where the fibre is active, and otherwise what
the register that DST names holds (R64). -/
def latchAfter (r : Run) (g : Guard) (d : Dst) (wide : Bool)
    (f : BitVec 16 → (Bool → Src → W64) → W64) (slot : Nat) (k : Crew) (lane : Nat) : W64 :=
  if activeIn r g slot k lane then f (predOf k lane) (srcVal k r lane)
  else match d with
    | .reg b | .sup b => pairAt k wide b.toNat lane
    | .none =>
      if wide = false ∧ footRegs k.foot = 256 then (regGet k 255 lane).setWidth 64 else 0

/-- The instruction completes wherever its batch issues and computes one result for each active
fibre: the destination registers of the active fibres receive it, the latch of every fibre of the
batch receives its value, the batch passes its position after `extra` cycles and those of the
granule copies, and nothing else changes (R62, R64, R102, R113, R114). `f` gives the result from
the fibre's predicate word and a reader of its sources, all read before anything is written. -/
def Computes (i : Instr) (g : Guard) (d : Dst) (wide : Bool) (extra : Nat)
    (f : BitVec 16 → (Bool → Src → W64) → W64) : Prop :=
  ∀ (s : State) (r : Run), Issues s r i → r.Placed → DstFits d wide →
    ∃ (t : State) (lat : Tab W64) (copies : Nat),
      exec i s = .next t ∧
      t.runs = s.runs.tail ++ [{ r.passed s (extra + copies) with lat := lat }] ∧
      SameBut r.core s t ∧ SameBytes s t ∧
      (∀ slot, AtCrew s t r.core slot fun k k' =>
        k'.calm = k.calm ∧ (slot ∉ r.slots → k' = k) ∧
        ∀ v lane, v < 256 → lane < 64 → regGet k' v lane = regAfter r g d wide f slot k v lane) ∧
      (∀ lane slot k x, (lane, slot) ∈ r.fibres → s.crew? r.core slot = some k →
        k.fibres.get? lane = some x →
        lat.get? (latKey lane (r.pos % 4)) = some (latchAfter r g d wide f slot k lane)) ∧
      (∀ j, (∀ p ∈ r.fibres, j ≠ latKey p.1 (r.pos % 4)) → lat.get? j = r.lat.get? j) ∧
      (copies = 0 ∨ copies = 2 ∨ copies = 4)

/-! ### One predicate for each fibre -/

/-- The instruction completes wherever its batch issues and gives each active fibre a predicate
word; nothing else changes (R62, R106, R124). -/
def SetsPreds (i : Instr) (g : Guard) (f : BitVec 16 → (Bool → Src → W64) → BitVec 16) : Prop :=
  ∀ (s : State) (r : Run), Issues s r i → r.Placed →
    ∃ t : State,
      exec i s = .next t ∧
      t.runs = s.runs.tail ++ [r.passed s 0] ∧
      SameBut r.core s t ∧ SameBytes s t ∧
      ∀ slot, AtCrew s t r.core slot fun k k' =>
        { k'.calm with fibres := k.fibres } = k.calm ∧ (slot ∉ r.slots → k' = k) ∧
        (∀ v lane, v < 256 → lane < 64 → regGet k' v lane = regGet k v lane) ∧
        ∀ lane, k'.fibres.get? lane = (k.fibres.get? lane).map fun x =>
          if activeIn r g slot k lane then { x with pred := f x.pred (srcVal k r lane) } else x

/-! ### Memory accesses of a batch -/

/-- The batch's accesses as they are found at issue: the state after S is charged and each active
fibre's access is checked in order of the lane, the batch then, and what each access answers (R114,
R173 to R185). -/
def accessed (s : State) (r : Run) (g : Guard) (sp : Space) (m : MAddr) (k : AccKind) :
    State × Run × List (LaneCtx × AccRes) :=
  let u := touchRun s r
  let l := activeLanes u r g
  let v := checkAll (takeSectors u r l sp m k.n) { r with taken := true } l sp m k
  (v.1, { r with taken := true }, v.2)

/-- Every access of a list passes its checks. -/
def AllPass (l : List (LaneCtx × AccRes)) : Prop :=
  ∀ p ∈ l, ∃ pas tags, p.2 = .ok pas tags

/-- The registers, the accumulators, the scratchpads and the fibres of the crews of a core, as they
were. -/
def KeepsRegs (s t : State) (c : Nat) : Prop :=
  ∀ slot, AtCrew s t c slot fun k k' =>
    k'.fibres = k.fibres ∧ k'.reg0 = k.reg0 ∧ k'.reg1 = k.reg1 ∧ k'.cur = k.cur ∧
    k'.dirty = k.dirty ∧ k'.acc0 = k.acc0 ∧ k'.acc1 = k.acc1 ∧ k'.scratch = k.scratch

/-- The same, and the bytes of memory as they were. -/
def KeepsCrews (s t : State) (c : Nat) : Prop := SameBytes s t ∧ KeepsRegs s t c

/-- The homes in the form that every access leaves them in: LPDDR-5X in its canonical form, each line at
most once in the last-level caches, and none there that is not of device memory (R165, R199). -/
def HomesPlain (s : State) : Prop :=
  Memory.wf s.mem = true ∧ (∀ p ∈ s.llc.cells, s.llc.get? p.1 = some p.2) ∧
    ∀ a, zoneOf a ≠ .device → s.llc.get? (a / 256) = none

/-- An instruction or an event answers a next state from every state. -/
def Answers (i : Instr) : Prop := ∀ s, ∃ t, exec i s = .next t

/-- The same, and neither LPDDR-5X nor a last-level cache changes. -/
def AnswersStill (i : Instr) : Prop := ∀ s, ∃ t, exec i s = .next t ∧ t.mem = s.mem ∧ t.llc = s.llc

/-- An entry of the place table names a core no longer, from the next cycle on (R323). -/
def NamesNot (s : State) (n c : Nat) : Prop :=
  ¬ (bit (s.mod.places.getD n 0) 15 = true ∧ fld (s.mod.places.getD n 0) 7 0 = c)

/-- No entry of the place table but one names a core. -/
def OnlyPlace (s : State) (idx c : Nat) : Prop :=
  ∀ p ∈ s.mod.places.cells, p.1 ≠ idx → ¬ (bit p.2 15 = true ∧ fld p.2 7 0 = c)

/-- The translations that an `inv` or a `wbk` finds for the lines of its active fibres, in order, and the
state after them (R174, R201, R202). -/
def lineXlates (s : State) (r : Run) (g : Guard) (m : MAddr) : State × List (LaneCtx × AccRes) :=
  (oncePerLine r m (activeLanes (touchRun s r) r g)).foldl (fun p x =>
    ((lineXlate p.1 r m x).1, p.2 ++ [(x, (lineXlate p.1 r m x).2)])) (touchRun s r, [])

/-- A new scoreboarded result of a crew, on the counter of the batch's position, with its
lanes (R66). -/
def InFlight (s t : State) (r : Run) (slot : Nat) (lanes : Tab FLane → Prop) : Prop :=
  AtCrew s t r.core slot fun k k' => ∃ fl : Flight, k'.flights = k.flights ++ [fl] ∧
    fl.sbi = r.pos % 8 ∧ lanes fl.lanes ∧
    k'.sb.getD (r.pos % 8) 0 = k.sb.getD (r.pos % 8) 0 + 1

/-! ### Crew-wide instructions, held effects and results written at issue -/

/-- The instruction issues, the batch passes its position after `cc` extra cycles, no byte of memory
changes, and the next state is as `Q` says. -/
def Completes (i : Instr) (s : State) (r : Run) (cc : Nat) (Q : State → Prop) : Prop :=
  ∃ t : State, exec i s = .next t ∧ t.runs = s.runs.tail ++ [r.passed s cc] ∧ SameBytes s t ∧ Q t

/-- A batch brings one whole crew to a crew-wide instruction that issues: `x` is what the
instruction sees of the crew, without a trap of R46, and `a` is its leader (R46, R62, R244). -/
def Whole (s : State) (r : Run) (i : Instr) (g : Guard) (mask : Src) (x : CrewCtx) (a : LaneCtx) :
    Prop :=
  Issues s r i ∧ r.Placed ∧ crewsOf (touchRun s r) r g mask = [x] ∧ x.cause = none ∧
    x.named.head? = some a

/-- The crew-wide result stands in every named active fibre (R274). -/
def NamedGet (t : State) (r : Run) (x : CrewCtx) (d : Dst) (w : W32) : Prop :=
  ∀ b, d = .reg b → ∀ y ∈ x.named, ∃ k, t.crew? r.core x.slot = some k ∧
    regGet k b.toNat y.lane = w

/-- No batch of the core waits for lodge entries, and `n` of them are free and kept for no other
batch (R160). -/
def LodgeFree (s : State) (r : Run) (n : Nat) : Prop :=
  lodgeTaken s r.core s.runs.tail + n ≤ 1024 ∧
    ∀ y ∈ s.runs.tail, y.core = r.core → y.hold ≠ some .lodge

/-- The lodge of the core has taken in one uncleared entry for each effect of a list, with the slot,
the home and the region of its crew (R159). -/
def Lodged (s t : State) (r : Run) (kind : LKind) (l : List (Nat × Option Nat × Effect)) : Prop :=
  ∃ es : List LEntry, (t.core r.core).lodge = (s.core r.core).lodge ++ es ∧
    (es.map fun e => (e.slot, e.home, e.eff)) = l ∧
    ∀ e ∈ es, e.kind = kind ∧ e.cleared = false ∧
      ∀ k, s.crew? r.core e.slot = some k → e.rseq = k.rseq

/-- Where the lodge has room, the instruction completes; its effects are held, and no register, no
fibre and no byte of memory changes. -/
def Held (i : Instr) (s : State) (r : Run) (kind : LKind) (l : List (Nat × Option Nat × Effect)) :
    Prop :=
  LodgeFree s r l.length →
    Completes i s r 0 fun t => KeepsCrews s t r.core ∧ Lodged s t r kind l

/-- Where the granules it writes need no copy, the instruction completes with a result in each
active fibre, and nothing else changes (R62, R102). -/
def WritesNow (i : Instr) (s : State) (r : Run) (g : Guard) (d : Dst) (wide : Bool)
    (val : Nat → Crew → Nat → W64) : Prop :=
  Issues s r i → r.Placed → DstFits d wide →
    copyHold (touchRun s r) r (activeLanes (touchRun s r) r g) d (if wide then 2 else 1) = none →
    Completes i s r 0 fun t => SameBut r.core s t ∧
      ∀ slot, AtCrew s t r.core slot fun k k' => k'.calm = k.calm ∧
        ∀ v lane, v < 256 → lane < 64 →
          regGet k' v lane = regAfter r g d wide (fun _ _ => val slot k lane) slot k v lane

/-- An active fibre has taken a trap of a cause at the batch's position, where it resumes (R115,
R364). -/
def TrappedHere (t : State) (r : Run) (lane slot : Nat) (cause : Cause) : Prop :=
  ∃ k f x, t.crew? r.core slot = some k ∧ k.fibres.get? lane = some f ∧ f.st = .trapped x ∧
    x.cause = cause ∧ x.clause = r.clause ∧ x.pos = r.pos ∧ f.pc = r.clause

/-! ### Events -/

/-- An event completes, with a next state as `Q` says. -/
def Happens (i : Instr) (s : State) (Q : State → Prop) : Prop := ∃ t : State, exec i s = .next t ∧ Q t

/-- The live fibres of a crew that no trap held have taken a trap of a cause. -/
def TrapsLive (s t : State) (c slot : Nat) (cause : Cause) : Prop :=
  ∀ k lane f, s.crew? c slot = some k → k.fibres.get? lane = some f → f.st ≠ .quitting →
    isTrapped f = false → ∃ k' f' x, t.crew? c slot = some k' ∧
      k'.fibres.get? lane = some f' ∧ f'.st = .trapped x ∧ x.cause = cause

/-- The kinds of the output units that a core has staged. -/
def unitKinds (s : State) (c : Nat) : List UKind := (s.core c).units.map (·.kind)

/-- The batches of a core that wait with a hold, where there is just one. -/
def OnlyHold (s : State) (c : Nat) (h : Hold) (r : Run) : Prop :=
  (s.runs.filter fun x => x.core == c && x.hold == some h) = [r]

/-- Everything but one core is unchanged, and its fields are related. -/
def OneCore (s t : State) (c : Nat) (R : Core → Core → Prop) : Prop :=
  { t with cores := s.cores } = s ∧ (∀ d, d ≠ c → t.core d = s.core d) ∧ R (s.core c) (t.core c)

/-- Everything but one cluster is unchanged, and its fields are related. -/
def OneCluster (s t : State) (k : Nat) (R : Cluster → Cluster → Prop) : Prop :=
  { t with clusters := s.clusters } = s ∧ (∀ d, d ≠ k → t.cluster d = s.cluster d) ∧
    R (s.cluster k) (t.cluster k)

/-- Everything but the registers of the module is unchanged, and those are related. -/
def OneMod (s t : State) (R : Module → Module → Prop) : Prop :=
  { t with mod := s.mod } = s ∧ R s.mod t.mod

/-- A field of a word taken from another word, the bits outside it unchanged. -/
def FieldFrom (old new w : W64) (hi lo : Nat) : Prop :=
  fld new hi lo = fld w hi lo ∧ ∀ i, i < lo ∨ hi < i → bit new i = bit old i

/-- What the loading of the recovery image leaves (R411, R413, R414): a boot that failed for want of the
image or of its signature; or the Keepers running from their places, with TR clear. -/
def RecoveryRun (s t : State) : Prop :=
  match Config.recoveryImage with
  | none => t.mod.boot = .failed ∧ fld t.mod.bootstat 15 8 = 0x83
  | some img =>
    if imageSigned img Config.keySlot0 = true then
      t.mod.boot = .running ∧ t.mod.keepers = true ∧ bit t.mod.bootstat 0 = true ∧
      bit t.mod.bootstat 1 = true ∧ t.mod.rollback = s.mod.rollback ∧
      ∀ c, c < 256 → bit (t.core c).trmode 0 = false ∧ (coreUsable s c = true →
        placeCore t c = some c ∧ (t.crew? c Config.keeperSlot).isSome = true)
    else t.mod.boot = .failed ∧ fld t.mod.bootstat 15 8 = 0x81

end Sys2Proof.Machine
end

