-- ==== Sys2Proof/Certificates/Slice0/Obligations.lean ====
section
/-! DEFINITION. The statements for the provers, one for each numbered group of rules of the manual.
Each says that its instructions complete, and with what effect. -/
open Sys2Proof Sys2Proof.Machine

/-! ### Integer instructions (R113 to R124) -/

/-- R117: the results of integer arithmetic, exact, then wrapped or saturated. -/
def Obligations.IntegerArithmetic : Prop :=
  (∀ g t sat d a b, Computes (.iadd g t sat d a b) g d t.wide 0 fun _ rd =>
    arith t sat (t.value (rd t.wide a) + t.value (rd t.wide b))) ∧
  (∀ g t sat d a b, Computes (.isub g t sat d a b) g d t.wide 0 fun _ rd =>
    arith t sat (t.value (rd t.wide a) - t.value (rd t.wide b))) ∧
  (∀ g t d a b, Computes (.imul g t d a b) g d t.wide (if t.wide then 3 else 0) fun _ rd =>
    arith t false (t.value (rd t.wide a) * t.value (rd t.wide b))) ∧
  (∀ g t d a b, Computes (.imulh g t d a b) g d t.wide (if t.wide then 3 else 0) fun _ rd =>
    arith t false (t.value (rd t.wide a) * t.value (rd t.wide b) / (2 ^ t.width : Nat))) ∧
  (∀ g t d a b c, Computes (.imad g t d a b c) g d t.wide (if t.wide then 3 else 0) fun _ rd =>
    arith t false
      (t.value (rd t.wide a) * t.value (rd t.wide b) + t.value (rd t.wide c))) ∧
  (∀ g t d a b, Computes (.idiv g t d a b) g d t.wide (if t.wide then 31 else 15) fun _ rd =>
    arith t false (if t.value (rd t.wide b) = 0 then -1
      else (t.value (rd t.wide a)).tdiv (t.value (rd t.wide b)))) ∧
  (∀ g t d a b, Computes (.irem g t d a b) g d t.wide (if t.wide then 31 else 15) fun _ rd =>
    arith t false (if t.value (rd t.wide b) = 0 then t.value (rd t.wide a)
      else (t.value (rd t.wide a)).tmod (t.value (rd t.wide b)))) ∧
  (∀ g t sat d a, Computes (.ineg g t sat d a) g d t.wide 0 fun _ rd =>
    arith t sat (-(t.value (rd t.wide a)))) ∧
  (∀ g t sat d a, Computes (.iabs g t sat d a) g d t.wide 0 fun _ rd =>
    arith t sat (t.value (rd t.wide a)).natAbs) ∧
  (∀ g t d a b, Computes (.imin g t d a b) g d t.wide 0 fun _ rd =>
    arith t false (min (t.value (rd t.wide a)) (t.value (rd t.wide b)))) ∧
  (∀ g t d a b, Computes (.imax g t d a b) g d t.wide 0 fun _ rd =>
    arith t false (max (t.value (rd t.wide a)) (t.value (rd t.wide b)))) ∧
  (∀ g c t d a b, Computes (.icmp g c t d a b) g d false 0 fun _ rd =>
    if c.holds (t.value (rd t.wide a)) (t.value (rd t.wide b)) then 1 else 0)

/-- R118, R119: the results of the logic, shift, field and counting instructions. -/
def Obligations.IntegerLogic : Prop :=
  (∀ g t d a b, Computes (.and g t d a b) g d t.wide 0 fun _ rd =>
    t.toReg ((rd t.wide a &&& rd t.wide b).toNat % 2 ^ t.width)) ∧
  (∀ g t d a b, Computes (.or g t d a b) g d t.wide 0 fun _ rd =>
    t.toReg ((rd t.wide a ||| rd t.wide b).toNat % 2 ^ t.width)) ∧
  (∀ g t d a b, Computes (.xor g t d a b) g d t.wide 0 fun _ rd =>
    t.toReg ((rd t.wide a ^^^ rd t.wide b).toNat % 2 ^ t.width)) ∧
  (∀ g t d a b, Computes (.andn g t d a b) g d t.wide 0 fun _ rd =>
    t.toReg ((rd t.wide a &&& ~~~(rd t.wide b)).toNat % 2 ^ t.width)) ∧
  (∀ g t d a, Computes (.not g t d a) g d t.wide 0 fun _ rd =>
    t.toReg ((~~~(rd t.wide a)).toNat % 2 ^ t.width)) ∧
  (∀ g t d a b, Computes (.shl g t d a b) g d t.wide 0 fun _ rd =>
    shlVal t (rd t.wide a) (pat t (rd t.wide b) % t.width)) ∧
  (∀ g t d a b, Computes (.shr g t d a b) g d t.wide 0 fun _ rd =>
    shrVal t (rd t.wide a) (pat t (rd t.wide b) % t.width)) ∧
  (∀ g t d a b, Computes (.sar g t d a b) g d t.wide 0 fun _ rd =>
    sarVal t (rd t.wide a) (pat t (rd t.wide b) % t.width)) ∧
  (∀ g t d a b, Computes (.rot g t d a b) g d t.wide 0 fun _ rd =>
    rotVal t (rd t.wide a) (pat t (rd t.wide b) % t.width)) ∧
  (∀ g t d a sp, Computes (.bfx g t d a sp) g d t.wide 0 fun _ rd =>
    bfxVal t (rd t.wide a) (rd false sp)) ∧
  (∀ g t d a b sp, Computes (.bfi g t d a b sp) g d t.wide 0 fun _ rd =>
    bfiVal t (rd t.wide a) (rd t.wide b) (rd false sp)) ∧
  (∀ g t d a, Computes (.popc g t d a) g d t.wide 0 fun _ rd =>
    BitVec.ofNat 64 (popNat t.width (pat t (rd t.wide a)))) ∧
  (∀ g t d a, Computes (.clz g t d a) g d t.wide 0 fun _ rd =>
    BitVec.ofNat 64 (clzNat t.width (pat t (rd t.wide a)))) ∧
  (∀ g t d a, Computes (.ctz g t d a) g d t.wide 0 fun _ rd =>
    BitVec.ofNat 64 (ctzNat t.width (pat t (rd t.wide a)))) ∧
  (∀ g t d a, Computes (.brev g t d a) g d t.wide 0 fun _ rd =>
    t.toReg (revNat t.width (pat t (rd t.wide a))))

/-- R120, R121, R122, R123: moves, selection, addresses and address comparison. -/
def Obligations.MovesAndAddresses : Prop :=
  (∀ g t d a, Computes (.mov g t d a) g d t.wide 0 fun _ rd =>
    t.toReg ((rd t.wide a).toNat % 2 ^ t.width)) ∧
  (∀ g t p d a b, Computes (.sel g t p d a b) g d t.wide 0 fun w rd =>
    t.toReg ((if w.getLsbD p.toNat then rd t.wide a else rd t.wide b).toNat % 2 ^ t.width)) ∧
  (∀ g d imm, Computes (.movi g d imm) g d false 0 fun _ _ =>
    ((imm.signExtend 32).setWidth 64)) ∧
  (∀ g d imm, Computes (.moviPair g d imm) g d true 0 fun _ _ => imm.signExtend 64) ∧
  (∀ g d imm, Computes (.movw g d imm) g d false 0 fun _ _ => imm.setWidth 64) ∧
  (∀ g w sh d a i, Computes (.lea g w sh d a i) g d true 0 fun _ rd =>
    addrVal (addrPart (rd true a) + offsetPart w (rd w i) * (2 ^ sh.toNat : Nat))) ∧
  (∀ g w d a b, Computes (.aadd g w d a b) g d true 0 fun _ rd =>
    addrVal (addrPart (rd true a) + offsetPart w (rd w b))) ∧
  (∀ g w d a b, Computes (.asub g w d a b) g d true 0 fun _ rd =>
    addrVal (addrPart (rd true a) - offsetPart w (rd w b))) ∧
  (∀ g c d a b, Computes (.acmp g c d a b) g d false 0 fun _ rd =>
    if c.holds (addrPart (rd true a)) (addrPart (rd true b)) then 1 else 0)

/-- R123: the immediate forms of one register. R123: the immediate forms of a pair; the address
forms add to the 56-bit address. -/
def Obligations.Immediates : Prop :=
  ((∀ g d a imm, Computes (.iaddImm32 g d a imm) g d false 0 fun _ rd =>
     (((rd false a).setWidth 32 + imm.signExtend 32).setWidth 64)) ∧
   (∀ g d a imm, Computes (.isubImm32 g d a imm) g d false 0 fun _ rd =>
     (((rd false a).setWidth 32 - imm.signExtend 32).setWidth 64)) ∧
   (∀ g d a imm, Computes (.imulImm32 g d a imm) g d false 0 fun _ rd =>
     (((rd false a).setWidth 32 * imm.signExtend 32).setWidth 64)) ∧
   (∀ g d a imm, Computes (.andImm32 g d a imm) g d false 0 fun _ rd =>
     (((rd false a).setWidth 32 &&& imm.signExtend 32).setWidth 64)) ∧
   (∀ g d a imm, Computes (.orImm32 g d a imm) g d false 0 fun _ rd =>
     (((rd false a).setWidth 32 ||| imm.signExtend 32).setWidth 64)) ∧
   (∀ g d a imm, Computes (.xorImm32 g d a imm) g d false 0 fun _ rd =>
     (((rd false a).setWidth 32 ^^^ imm.signExtend 32).setWidth 64)) ∧
   (∀ g d a n, Computes (.shlImm32 g d a n) g d false 0 fun _ rd =>
     (((rd false a).setWidth 32 <<< n.toNat).setWidth 64)) ∧
   (∀ g d a n, Computes (.shrImm32 g d a n) g d false 0 fun _ rd =>
     (((rd false a).setWidth 32 >>> n.toNat).setWidth 64)) ∧
   (∀ g d a n, Computes (.sarImm32 g d a n) g d false 0 fun _ rd =>
     ((((rd false a).setWidth 32).sshiftRight n.toNat).setWidth 64)) ∧
   (∀ g d a imm, Computes (.aaddImm32 g d a imm) g d false 0 fun _ rd =>
     (((rd false a).setWidth 32 + imm.signExtend 32).setWidth 64)) ∧
   (∀ g d a imm, Computes (.asubImm32 g d a imm) g d false 0 fun _ rd =>
     (((rd false a).setWidth 32 - imm.signExtend 32).setWidth 64))) ∧
  ((∀ g d a imm, Computes (.iaddImm64 g d a imm) g d true 0 fun _ rd =>
     rd true a + imm.signExtend 64) ∧
   (∀ g d a imm, Computes (.isubImm64 g d a imm) g d true 0 fun _ rd =>
     rd true a - imm.signExtend 64) ∧
   (∀ g d a imm, Computes (.imulImm64 g d a imm) g d true 3 fun _ rd =>
     rd true a * imm.signExtend 64) ∧
   (∀ g d a imm, Computes (.andImm64 g d a imm) g d true 0 fun _ rd =>
     rd true a &&& imm.signExtend 64) ∧
   (∀ g d a imm, Computes (.orImm64 g d a imm) g d true 0 fun _ rd =>
     rd true a ||| imm.signExtend 64) ∧
   (∀ g d a imm, Computes (.xorImm64 g d a imm) g d true 0 fun _ rd =>
     rd true a ^^^ imm.signExtend 64) ∧
   (∀ g d a n, Computes (.shlImm64 g d a n) g d true 0 fun _ rd => rd true a <<< n.toNat) ∧
   (∀ g d a n, Computes (.shrImm64 g d a n) g d true 0 fun _ rd => rd true a >>> n.toNat) ∧
   (∀ g d a n, Computes (.sarImm64 g d a n) g d true 0 fun _ rd =>
     (rd true a).sshiftRight n.toNat) ∧
   (∀ g d a imm, Computes (.aaddImm64 g d a imm) g d true 0 fun _ rd =>
     (((rd true a).setWidth 56 + imm.signExtend 56).setWidth 64)) ∧
   (∀ g d a imm, Computes (.asubImm64 g d a imm) g d true 0 fun _ rd =>
     (((rd true a).setWidth 56 - imm.signExtend 56).setWidth 64)))

/-- R74, R117: an exact result that fits its type is kept; one that does not fit is the same
number modulo two to the width, or with SAT the nearest end of the range. R118, R119: what each
bit of a shift, a rotation, a field or a reversal is, and what the counts count. -/
def Obligations.IntegerResults : Prop :=
  ((∀ (t : ITy) (sat : Bool) (x : Int), t.lowest ≤ x → x ≤ t.highest →
     t.value (arith t sat x) = x) ∧
   (∀ (t : ITy) (x : Int), (2 ^ t.width : Int) ∣ t.value (arith t false x) - x) ∧
   (∀ (t : ITy) (x : Int), t.value (arith t true x) = min (max x t.lowest) t.highest) ∧
   (∀ (t : ITy) (sat : Bool) (x : Int), t.wide = false → (arith t sat x).toNat < 2 ^ 32)) ∧
  (∀ (t : ITy) (a b : W64) (n i : Nat), n < t.width → i < t.width →
     ((shlVal t a n).getLsbD i = (decide (n ≤ i) && a.getLsbD (i - n))) ∧
     ((shrVal t a n).getLsbD i = (decide (i + n < t.width) && a.getLsbD (i + n))) ∧
     ((sarVal t a n).getLsbD i = a.getLsbD (min (i + n) (t.width - 1))) ∧
     ((rotVal t a n).getLsbD i = a.getLsbD ((i + t.width - n) % t.width)) ∧
     ((t.toReg (revNat t.width (pat t a))).getLsbD i = a.getLsbD (t.width - 1 - i)) ∧
     (∀ sp : W64, (bfxVal t a sp).getLsbD i =
       (let o := fld sp 7 0
        let l := min (fld sp 15 8) (t.width - o)
        if i < l then a.getLsbD (o + i)
        else t.signed && decide (l ≠ 0) && a.getLsbD (o + l - 1))) ∧
     (∀ sp : W64, (bfiVal t a b sp).getLsbD i =
       (let o := fld sp 7 0
        if o ≤ i ∧ i < o + fld sp 15 8 then b.getLsbD (i - o) else a.getLsbD i)) ∧
     (popNat t.width (pat t a) = ((List.range t.width).filter fun j => a.getLsbD j).length) ∧
     (clzNat t.width (pat t a) ≤ t.width ∧
       (clzNat t.width (pat t a) < t.width →
         a.getLsbD (t.width - 1 - clzNat t.width (pat t a)) = true) ∧
       (t.width ≤ i + clzNat t.width (pat t a) → a.getLsbD i = false)) ∧
     (ctzNat t.width (pat t a) ≤ t.width ∧
       (ctzNat t.width (pat t a) < t.width → a.getLsbD (ctzNat t.width (pat t a)) = true) ∧
       (i < ctzNat t.width (pat t a) → a.getLsbD i = false)))

/-! ### Predicates (R106, R121, R124) -/

/-- R121, R124: the predicate that each predicate instruction writes, and no other. -/
def Obligations.Predicates : Prop :=
  (∀ g c t pd a b, SetsPreds (.pset g c t pd a b) g fun p rd =>
    predPut p pd (c.holds (t.value (rd t.wide a)) (t.value (rd t.wide b)))) ∧
  (∀ g pd pa pb na nb, SetsPreds (.pand g pd pa pb na nb) g fun p _ =>
    predPut p pd ((p.getLsbD pa.toNat != na) && (p.getLsbD pb.toNat != nb))) ∧
  (∀ g pd pa pb na nb, SetsPreds (.por g pd pa pb na nb) g fun p _ =>
    predPut p pd ((p.getLsbD pa.toNat != na) || (p.getLsbD pb.toNat != nb))) ∧
  (∀ g pd pa pb na nb, SetsPreds (.pxor g pd pa pb na nb) g fun p _ =>
    predPut p pd ((p.getLsbD pa.toNat != na) != (p.getLsbD pb.toNat != nb))) ∧
  (∀ g pd pa, SetsPreds (.pnot g pd pa) g fun p _ => predPut p pd (!p.getLsbD pa.toNat)) ∧
  (∀ (p : BitVec 16) (i j : BitVec 4) (b : Bool),
    (predPut p i b).getLsbD j.toNat = if j = i then b else p.getLsbD j.toNat)

/-! ### Floating point (R75 to R85, R136 to R152) -/

/-- R139, R140, R141, R144: each operand is its exact value and the result is rounded once. R142,
R143, R114: roots, reciprocals and the transcendental functions, with their cycles. -/
def Obligations.FloatResults : Prop :=
  ((∀ g rm t d a b, Computes (.fadd g rm t d a b) g d false 0 fun _ rd =>
     t.res rm (FVal.add rm (t.value (rd false a)) (t.value (rd false b)))) ∧
   (∀ g rm t d a b, Computes (.fsub g rm t d a b) g d false 0 fun _ rd =>
     t.res rm (FVal.add rm (t.value (rd false a)) (t.value (rd false b)).negate)) ∧
   (∀ g rm t d a b, Computes (.fmul g rm t d a b) g d false 0 fun _ rd =>
     t.res rm (FVal.mul (t.value (rd false a)) (t.value (rd false b)))) ∧
   (∀ g rm t d a b c, Computes (.fma g rm t d a b c) g d false 0 fun _ rd =>
     t.res rm (FVal.add rm (FVal.mul (t.value (rd false a)) (t.value (rd false b)))
       (t.value (rd false c)))) ∧
   (∀ g rm t d a b, Computes (.fdiv g rm t d a b) g d false (if t = .f32 then 15 else 7) fun _ rd =>
     t.res rm (FVal.div (t.value (rd false a)) (t.value (rd false b)))) ∧
   (∀ g t d a b, Computes (.fmin g t d a b) g d false 0 fun _ rd =>
     t.minmax false (rd false a) (rd false b)) ∧
   (∀ g t d a b, Computes (.fmax g t d a b) g d false 0 fun _ rd =>
     t.minmax true (rd false a) (rd false b)) ∧
   (∀ g t d a, Computes (.fabs g t d a) g d false 0 fun _ rd =>
     BitVec.ofNat 64 ((rd false a).toNat % 2 ^ (t.width - 1))) ∧
   (∀ g t d a, Computes (.fneg g t d a) g d false 0 fun _ rd =>
     BitVec.ofNat 64 (((rd false a).toNat + 2 ^ (t.width - 1)) % 2 ^ t.width)) ∧
   (∀ g c t d a b, Computes (.fcmp g c t d a b) g d false 0 fun _ rd =>
     if c.holds (t.value (rd false a)) (t.value (rd false b)) then 1 else 0) ∧
   (∀ g t d a, Computes (.fclass g t d a) g d false 0 fun _ rd =>
     BitVec.ofNat 64 (2 ^ t.classBit (rd false a))) ∧
   (∀ g rm t d a, Computes (.fround g rm t d a) g d false 0 fun _ rd =>
     t.res rm (FVal.roundInt rm (t.value (rd false a))))) ∧
  ((∀ g rm t d a, Computes (.frcp g rm t d a) g d false 7 fun _ rd =>
     t.res rm (FVal.recip (t.value (rd false a)))) ∧
   (∀ g rm t d a, Computes (.frsq g rm t d a) g d false 7 fun _ rd =>
     t.res rm (FVal.rsqrt (t.value (rd false a)))) ∧
   (∀ g rm t d a, Computes (.fsqrt g rm t d a) g d false 7 fun _ rd =>
     t.res rm (FVal.sqrt (t.value (rd false a)))) ∧
   (∀ g rm d a, Computes (.fexp2 g rm d a) g d false 7 fun _ rd =>
     FTy.f32.res rm (Trans.exp2 (FTy.f32.value (rd false a)))) ∧
   (∀ g rm d a, Computes (.flog2 g rm d a) g d false 7 fun _ rd =>
     FTy.f32.res rm (Trans.log2 (FTy.f32.value (rd false a)))) ∧
   (∀ g rm d a, Computes (.fsin g rm d a) g d false 11 fun _ rd =>
     FTy.f32.res rm (Trans.sin (FTy.f32.value (rd false a)))) ∧
   (∀ g rm d a, Computes (.fcos g rm d a) g d false 11 fun _ rd =>
     FTy.f32.res rm (Trans.cos (FTy.f32.value (rd false a)))))

/-- R145 to R152: the packed forms, the conversions, the scales and the codebook. R83, R149:
`cvt.ef` completes wherever its batch issues; each active fibre's destination receives the rounded
value and its companion register the new residue, and no other register changes. -/
def Obligations.ConversionResults : Prop :=
  ((∀ g rm ta tb d a b c, Computes (.dp4 g rm ta tb d a b c) g d false 1 fun _ rd =>
     dp4Val rm ta tb (rd false a) (rd false b) (rd false c)) ∧
   (∀ g rm t d a b c, Computes (.hfma2 g rm t d a b c) g d false 0 fun _ rd =>
     hfma2Val rm t (rd false a) (rd false b) (rd false c)) ∧
   (∀ g near d a b, Computes (.sclq g near d a b) g d false 3 fun _ rd =>
     sclqVal near (rd false a) (rd false b)) ∧
   (∀ g rm sat td ts d a, Computes (.cvt g rm sat td ts d a) g d (NTy.wide td) 0 fun _ rd =>
     cvtVal rm sat td ts (rd (NTy.wide ts) a)) ∧
   (∀ g nib d a sc c, Computes (.cbenc g nib d a sc c) g d false 1 fun _ rd =>
     setFld (BitVec.ofNat 64 ((rd false c).toNat % 2 ^ 32)) (4 * nib.toNat + 3) (4 * nib.toNat)
       (cbCode (FTy.f32.value (rd false a)) (FTy.bf16.value (rd false (.reg sc))))) ∧
   (∀ g nib d a sc, Computes (.cbdec g nib d a sc) g d false 0 fun _ rd =>
     FTy.f32.res .rn (FVal.mul
       (FVal.ofInt (cbLevel (fld (rd false a) (4 * nib.toNat + 3) (4 * nib.toNat))) (-10))
       (FTy.bf16.value (rd false (.reg sc)))))) ∧
  (∀ g sat td d a (comp : BitVec 8) (s : State) (r : Run), Issues s r (.cvtEf g sat td d a comp) →
     r.Placed →
     ∃ (t : State) (lat : Tab W64) (copies : Nat),
       exec (.cvtEf g sat td d a comp) s = .next t ∧ copies ≤ 8 ∧
       t.runs = s.runs.tail ++ [{ r.passed s (1 + copies) with lat := lat }] ∧
       SameBut r.core s t ∧ SameBytes s t ∧
       ∀ slot, AtCrew s t r.core slot fun k k' =>
         k'.calm = k.calm ∧ (slot ∉ r.slots → k' = k) ∧
         ∀ v lane, v < 256 → lane < 64 → regGet k' v lane =
           if v = comp.toNat ∧ activeIn r g slot k lane then
             (cvtEfVal sat td (srcVal k r lane false a) (srcVal k r lane false (.reg comp))).2.setWidth 32
           else regAfter r g d false (fun _ rd =>
             (cvtEfVal sat td (rd false a) (rd false (.reg comp))).1) slot k v lane)

/-- R80, R81: a value the format holds is kept; rounding down and up bracket the exact value; and
round to nearest gives one of the two. -/
def Obligations.RoundingBrackets : Prop :=
  (∀ (t : FTy) (rm : Rm) (w : W64), (t.value w).isNan = false →
    t.res rm (t.value w) = BitVec.ofNat 64 (w.toNat % 2 ^ t.width)) ∧
  (∀ (t : FTy) (neg : Bool) (m : Nat) (e : Int),
    let x := FVal.fin neg m e
    let low := t.decode (t.round .rd false x)
    let high := t.decode (t.round .ru false x)
    (low.isNan = false → FVal.cmp low x ≤ 0) ∧ (high.isNan = false → 0 ≤ FVal.cmp high x) ∧
    (t.round .rn false x = t.round .rd false x ∨ t.round .rn false x = t.round .ru false x) ∧
    (t.round .rz false x = if neg then t.round .ru false x else t.round .rd false x))

/-! ### Control (R42, R46, R106, R125 to R135) -/

/-- R63, R125: `br` and `call`. Every fibre whose condition holds continues at header + 8 × DISP,
and with `call` its link pair receives the address of the clause that follows; the others continue
at that clause. R125: `brx` and `ret`. Where every active fibre's address is a multiple of 8 below
2^56, the active fibres continue there and nothing else changes; a fibre whose address is not
takes TARGET_ALIGNMENT, which names its clause and position. R129: `fork` with one taking fibre.
With a lane slot of its crew free, the lowest receives a new fibre at the target with the forking
fibre's predicates, its destination the forking lane, and the forking fibre's destination the new
lane; with none free the destination reads 0xFFFFFFFF. -/
def Obligations.Transfers : Prop :=
  (∀ (i : Instr) (c : CCond) (disp : BitVec 33) (link : Option (BitVec 8)),
     (match link with | none => i = .br c disp | some l => i = .call c disp l) →
     ∀ (s : State) (r : Run), Issues s r i → r.Placed →
       (∀ l, link = some l → l.toNat % 2 = 0) →
       ∃ (t : State) (conts : Tab (BitVec 56)) (copies : Nat),
         exec i s = .next t ∧
         t.runs = s.runs.tail ++ [{ r.passed s copies with conts := conts }] ∧
         SameBut r.core s t ∧ SameBytes s t ∧ (copies = 0 ∨ copies = 2 ∨ copies = 4) ∧
         (∀ slot, AtCrew s t r.core slot fun k k' =>
           k'.calm = k.calm ∧ (slot ∉ r.slots → k' = k) ∧
           ∀ v lane, v < 256 → lane < 64 → regGet k' v lane =
             match link with
             | none => regGet k v lane
             | some l => regAfter r ⟨c.cond, c.neg, c.idx⟩ (.reg l) true
                 (fun _ _ => (r.clause + BitVec.ofNat 56 (8 * (fld r.hdr 59 56 + 2))).setWidth 64)
                 slot k v lane) ∧
         (∀ lane slot k x, (lane, slot) ∈ r.fibres → s.crew? r.core slot = some k →
           k.fibres.get? lane = some x → conts.get? lane =
             if !c.cond || (x.pred.getLsbD c.idx.toNat != c.neg)
             then some (r.clause + (disp.signExtend 56 <<< 3)) else r.conts.get? lane) ∧
         (∀ lane, (∀ p ∈ r.fibres, p.1 ≠ lane) → conts.get? lane = r.conts.get? lane)) ∧
  (∀ (i : Instr) (g : Guard) (a : Src), (i = .brx g a ∨ i = .ret g a) →
     ∀ (s : State) (r : Run), Issues s r i → r.Placed →
       ((∀ lane slot k, activeIn r g slot k lane = true → s.crew? r.core slot = some k →
           fld (srcVal k r lane true a) 2 0 = 0 ∧ fld (srcVal k r lane true a) 63 56 = 0) →
         ∃ conts : Tab (BitVec 56), Passes i s r { r.passed s 0 with conts := conts } ∧
           (∀ lane slot k, activeIn r g slot k lane = true → s.crew? r.core slot = some k →
             conts.get? lane = some ((srcVal k r lane true a).setWidth 56)) ∧
           (∀ lane, (∀ slot k, s.crew? r.core slot = some k → activeIn r g slot k lane = false) →
             conts.get? lane = r.conts.get? lane)) ∧
       (∀ lane slot k x, activeIn r g slot k lane = true → s.crew? r.core slot = some k →
         k.fibres.get? lane = some x →
         (fld (srcVal k r lane true a) 2 0 ≠ 0 ∨ fld (srcVal k r lane true a) 63 56 ≠ 0) →
         ∃ (t : State) (tr : Trap), exec i s = .next t ∧
           t.fibre? r.core slot lane = some { x with pc := r.clause, st := .trapped tr } ∧
           tr.cause = .targetAlignment ∧ tr.clause = r.clause ∧ tr.at_ = r.pos ∧
           tr.res = r.clause ∧ tr.pos = r.pos ∧ tr.next = nextClause r.clause r.hdr)) ∧
  (∀ (c : CCond) (disp : BitVec 33) (d : Option (BitVec 8)) (s : State) (r : Run) (lane slot : Nat)
     (k : Crew) (x : Fibre),
     Issues s r (.fork c disp d) → r.Placed → (lane, slot) ∈ r.fibres →
     s.crew? r.core slot = some k → k.fibres.get? lane = some x → c.takes x.pred = true →
     (∀ p ∈ r.fibres, p ≠ (lane, slot) → ∀ y, s.fibre? r.core p.2 p.1 = some y →
       c.takes y.pred = false) →
     ∃ (t : State) (k' : Crew) (copies : Nat),
       exec (.fork c disp d) s = .next t ∧ t.crew? r.core slot = some k' ∧
       (∀ y, y ≠ slot → AtCrew s t r.core y (Calmed (y ∈ r.slots))) ∧ SameBut r.core s t ∧
       SameBytes s t ∧ (copies = 0 ∨ copies = 2 ∨ copies = 4) ∧
       match freeLane k with
       | some l =>
         (∀ j, j < footLanes k.foot → k.fibres.get? j = none → l ≤ j) ∧
         t.runs = s.runs.tail ++ [{ r.passed s (1 + copies) with forks := r.forks ++ [(l, slot)] }] ∧
         (∀ m, k'.fibres.get? m = if m = l
           then some { pc := r.clause + (disp.signExtend 56 <<< 3), rpos := 0, rlat := .empty
                       pred := x.pred, arr := 0, stale := 0, paid := false, st := .running }
           else k.fibres.get? m) ∧
         (∀ v m, v < 256 → m < 64 → regGet k' v m =
           if d.any (fun b => b.toNat == v) ∧ m = lane then BitVec.ofNat 32 l
           else if d.any (fun b => b.toNat == v) ∧ m = l then BitVec.ofNat 32 lane
           else regGet k v m)
       | none =>
         t.runs = s.runs.tail ++ [r.passed s (1 + copies)] ∧
         (∀ m, k'.fibres.get? m = k.fibres.get? m) ∧
         (∀ v m, v < 256 → m < 64 → regGet k' v m =
           if d.any (fun b => b.toNat == v) ∧ m = lane then 0xFFFFFFFF else regGet k v m))

/-- R42, R106, R114, R126, R127, R128: `nop` only passes; `yield` marks the active fibres for the
bins; `cont` writes %cont of each crew with a taking fibre, and of no other. R127: `quit` of a
batch of one crew, where no rendezvous is open and the lodge has room: the active fibres end, the
others go on, and no register changes. The crew's departures from its groups are held effects of
the crew when no live fibre is left. -/
def Obligations.ClauseEnds : Prop :=
  ((∀ g s r, Issues s r (.nop g) → r.Placed → Passes (.nop g) s r (r.passed s 0)) ∧
   (∀ g s r, Issues s r (.yield g) → r.Placed → ∃ ys : List (Nat × Nat),
     Passes (.yield g) s r { r.passed s 0 with yields := ys } ∧
     ∀ lane slot, (lane, slot) ∈ ys ↔
       ∃ k, s.crew? r.core slot = some k ∧ activeIn r g slot k lane = true) ∧
   (∀ c disp s r, Issues s r (.cont c disp) → r.Placed →
     ∃ t : State, exec (.cont c disp) s = .next t ∧
       t.runs = s.runs.tail ++ [r.passed s 0] ∧ SameBut r.core s t ∧ SameBytes s t ∧
       ∀ slot, AtCrew s t r.core slot fun k k' =>
         { k'.calm with cont := k.cont } = k.calm ∧
         (∀ v m, v < 256 → m < 64 → regGet k' v m = regGet k v m) ∧
         ((∃ lane, activeIn r ⟨c.cond, c.neg, c.idx⟩ slot k lane = true) →
           k'.cont = ((r.clause + (disp.signExtend 56 <<< 3)) &&& ~~~7).setWidth 64) ∧
         ((∀ lane, activeIn r ⟨c.cond, c.neg, c.idx⟩ slot k lane = false) → k'.cont = k.cont))) ∧
  (∀ (g : Guard) (s : State) (r : Run) (slot : Nat) (k : Crew),
     Issues s r (.quit g) → r.Placed → (∀ p ∈ r.fibres, p.2 = slot) →
     s.crew? r.core slot = some k → k.rdvs = [] →
     LodgeFree s r k.groups.length →
     ∃ (t : State) (k' : Crew) (qs : List (Nat × Nat)),
       exec (.quit g) s = .next t ∧ t.crew? r.core slot = some k' ∧
       t.runs = s.runs.tail ++ [{ r.passed s 0 with quits := qs }] ∧
       (∀ lane, (lane, slot) ∈ qs ↔ activeIn r g slot k lane = true) ∧ SameBytes s t ∧
       (∀ m, k'.fibres.get? m = (k.fibres.get? m).map fun x =>
         if activeIn r g slot k m then { x with st := .quitting } else x) ∧
       (∀ v m, v < 256 → m < 64 → regGet k' v m = regGet k v m) ∧
       ((∃ m, activeIn r g slot k m = true) →
         (∀ p ∈ k'.fibres.cells, p.2.st = .quitting) →
         ∀ grp ∈ k.groups, ∃ e ∈ (t.core r.core).lodge, e.slot = slot ∧ e.kind = .departure ∧
           e.eff = .depart grp))

/-- R46, R130: the arrival of a crew's batch at a `vote`, `shfl` or `red`, where the crew has no
other rendezvous open, every fibre reads one mask, the mask names them all, and every lane that it
names holds a live fibre. The fibres are blocked with their operands as they stand; the rendezvous
completes a fixed delay later once all named lanes have arrived, and until then no register
changes. R50, R51, R134: `bar` and `arrive`, where every active fibre's crew is in the group, its
arrived bit is clear and the lodge has room. The bit of every active fibre is set; with `bar` the
fibre is blocked for the release and goes on at the clause that follows; a crew all of whose live
fibres have arrived sends its arrival as a held effect, and no other crew does. R134: `await`,
where every active fibre has its arrived bit for the group set. A fibre whose episode has released
goes on with the bit cleared; any other is blocked for the release at the clause that follows. -/
def Obligations.Arrivals : Prop :=
  (∀ (i : Instr) (g : Guard) (mask : Src) (value index : Option (Bool × Src)) (wide narrow : Nat),
     ((∃ m cnt nw p d, i = .vote g m cnt nw p d mask ∧ value = none ∧ index = none ∧
         wide = 4 ∧ narrow = 4) ∨
       (∃ m ty d a b, i = .shfl g m ty d a b mask ∧ value = some (ty.wide, a) ∧
         index = some (false, b) ∧ wide = 6 ∧ narrow = 6) ∨
       (∃ op ty d a, i = .red g op ty d a mask ∧ value = some (NTy.wide ty, a) ∧ index = none ∧
         wide = 16 ∧ narrow = 14)) →
     ∀ (s : State) (r : Run) (slot : Nat) (k : Crew) (m : W64),
       Issues s r i → r.Placed → r.forks = [] → (∀ p ∈ r.fibres, p.2 = slot) →
       s.crew? r.core slot = some k → k.rdvs = [] →
       (∀ p ∈ r.fibres, (k.fibres.get? p.1).isSome ∧ p.1 < footLanes k.foot ∧
         m.getLsbD p.1 = true ∧ srcVal k r p.1 (!footNarrow k.foot) mask = m) →
       (∀ l, l < footLanes k.foot → m.getLsbD l = true →
         ∃ x, k.fibres.get? l = some x ∧ x.st ≠ .quitting) →
       ∃ (t : State) (k' : Crew) (v : Rdv),
         exec i s = .next t ∧ t.crew? r.core slot = some k' ∧ t.runs = s.runs.tail ∧
         SameBytes s t ∧ k'.rdvs = [v] ∧ v.clause = r.clause ∧ v.pos = r.pos ∧ v.instr = i ∧
         v.mask = m ∧ v.next = nextClause r.clause r.hdr ∧
         (∀ l, (v.arrived.get? l).isSome = true ↔ (l, slot) ∈ r.fibres) ∧
         (∀ l a, v.arrived.get? l = some a →
           a.active = activeIn r g slot k l ∧
           (∀ q ∈ value, a.a = srcVal k r l q.1 q.2) ∧ (∀ q ∈ index, a.b = srcVal k r l q.1 q.2)) ∧
         (v.done = if ∀ l, l < footLanes k.foot → m.getLsbD l = true → (l, slot) ∈ r.fibres
           then some (s.now + (if footNarrow k.foot then narrow else wide) * clockDiv s r.core)
           else none) ∧
         (∀ l x, k.fibres.get? l = some x → k'.fibres.get? l = some
           (if (l, slot) ∈ r.fibres then { x with st := .blocked .rendezvous } else x)) ∧
         (∀ v' l, v' < 256 → l < 64 → regGet k' v' l = regGet k v' l)) ∧
  (∀ (i : Instr) (g : Guard) (grp : BitVec 8) (wait : Bool),
     (i = if wait then Instr.bar g grp else Instr.arrive g grp) →
     ∀ (s : State) (r : Run), Issues s r i → r.Placed →
       (∀ lane slot k x, activeIn r g slot k lane = true → s.crew? r.core slot = some k →
         k.fibres.get? lane = some x →
         x.st = .running ∧ ∃ j, groupIdx k grp.toNat = some j ∧ bit x.arr j = false) →
       LodgeFree s r r.slots.length →
       ∃ t : State, exec i s = .next t ∧ SameBytes s t ∧
         ∀ slot, AtCrew s t r.core slot fun k k' =>
           (∀ lane x, k.fibres.get? lane = some x →
             if activeIn r g slot k lane then
               ∃ x' j, k'.fibres.get? lane = some x' ∧ groupIdx k grp.toNat = some j ∧
                 x'.arr = setBit x.arr j true ∧ x'.stale = setBit x.stale j false ∧
                 x'.pred = x.pred ∧
                 (if wait then x'.pc = nextClause r.clause r.hdr ∧
                     x'.st = .blocked (.barrier grp.toNat)
                   else x'.pc = x.pc ∧ x'.st = x.st)
             else k'.fibres.get? lane = some x) ∧
           (∀ v m, v < 256 → m < 64 → regGet k' v m = regGet k v m) ∧
           (slot ∈ r.slots →
             ((∃ lane, activeIn r g slot k lane = true) →
               crewArrives { k' with bars := k.bars } grp.toNat = true →
               (barOf k' grp.toNat).sent = (barOf k grp.toNat).sent + 1 ∧
               ∃ e ∈ (t.core r.core).lodge, e.slot = slot ∧ e.kind = .arrival ∧
                 e.eff = .arrive grp.toNat) ∧
             (crewArrives { k' with bars := k.bars } grp.toNat = false →
               barOf k' grp.toNat = barOf k grp.toNat))) ∧
  (∀ (g : Guard) (grp : BitVec 8) (s : State) (r : Run), Issues s r (.await g grp) → r.Placed →
     (∀ lane slot k x, activeIn r g slot k lane = true → s.crew? r.core slot = some k →
       k.fibres.get? lane = some x → ∃ j, groupIdx k grp.toNat = some j ∧ bit x.arr j = true) →
     ∃ t : State, exec (.await g grp) s = .next t ∧ SameBytes s t ∧
       ∀ slot, AtCrew s t r.core slot fun k k' =>
         (∀ lane x, k.fibres.get? lane = some x →
           if activeIn r g slot k lane then
             ∃ j, groupIdx k grp.toNat = some j ∧ k'.fibres.get? lane = some
               (if bit x.stale j then { x with arr := setBit x.arr j false
                                               stale := setBit x.stale j false }
                else { x with pc := nextClause r.clause r.hdr
                              st := .blocked (.barrier grp.toNat) })
           else k'.fibres.get? lane = some x) ∧
         (∀ v m, v < 256 → m < 64 → regGet k' v m = regGet k v m))

/-! ### Memory (R153 to R204) -/

/-- R66, R186, R187: a plain load whose accesses all pass, in every space. The batch goes on at
once, and every crew of it has a new result in flight on the counter of the position, which holds
for each active lane the destination, the width, the extension and the bytes that the crew's own
lodge entries, the on-chip stores and the L1 give, or the physical addresses it still awaits. No
register and no byte of memory changes. R159, R187 to R189: a store whose accesses all pass and
whose lodge entries are free, in every space. Its bytes enter the lodge as sector writes of each
crew, the parts of an access that crosses a line joined (R177), device writes as entries of their own
after them; no register and no byte of memory changes.
R159, R188: sector writes and the lodge. The sector writes of one access hold every byte at its
offset; a write entering the lodge leaves an entry of its crew, kind and region that holds all its
bytes, and changes the bytes of memory and every register not at all. -/
def Obligations.LoadsAndStores : Prop :=
  (∀ (i : Instr) (g : Guard) (sp : Space) (d : Dst) (m : MAddr) (sz : Size) (sx ev : Bool),
     (i = .ldG g d m sz sx ev ∧ sp = .g ∨ i = .ldS g d m sz sx ∧ sp = .s ∧ ev = false ∨
       i = .ldW g d m sz sx ∧ sp = .w ∧ ev = false ∨ i = .ldP g d m sz sx ev ∧ sp = .p) →
     ∀ (s u : State) (r r1 : Run) (l : List (LaneCtx × AccRes)), Issues s r i → r.Placed →
       accessed s r g sp m ⟨sz.bytes, false, false, false, decide (sp = .g)⟩ = (u, r1, l) →
       AllPass l → sbFull u r1 = false →
       ∃ t : State, exec i s = .next t ∧ KeepsCrews u t r.core ∧
         (∃ cc, t.runs = s.runs.tail ++ [r1.passed s cc] ∧ (sp ≠ .s → cc = 0)) ∧
         ∀ slot ∈ r.slots, InFlight u t r slot fun lanes =>
           ∀ x pas tags, (x, AccRes.ok pas tags) ∈ l → x.slot = slot →
             lanes.get? x.lane = some (loadLane u r.core sp ⟨x, pas, tags⟩ d sz sx ev)) ∧
  (∀ (i : Instr) (g : Guard) (sp : Space) (a : Src) (m : MAddr) (sz : Size) (ev : Bool),
     (i = .stG g a m sz ev ∧ sp = .g ∨ i = .stS g a m sz ∧ sp = .s ∧ ev = false ∨
       i = .stW g a m sz ∧ sp = .w ∧ ev = false ∨ i = .stP g a m sz ev ∧ sp = .p) →
     ∀ (s u : State) (r r1 : Run) (l : List (LaneCtx × AccRes)), Issues s r i → r.Placed →
       accessed s r g sp m ⟨sz.bytes, true, false, false, decide (sp = .g)⟩ = (u, r1, l) →
       AllPass l → LodgeFree u r1 (sz.bytes * l.length) →
       let data := (accOk l).map fun x =>
         (x, toBytes sz.bytes (srcNat x.x.crew r1 x.x.lane sz.regs a), accPlace u r1 x.x sp m)
       let plain := data.filter fun p => p.1.attr != 2
       let written := r.slots.foldl (fun v slot =>
         (storeSectors u r1 sp ev (plain.filter fun p => p.1.x.slot == slot)).foldl
           (fun v w => lodgeWrite v r.core slot (storeKind sp) w) v) u
       let paired := if sp = .g ∨ sp = .w then
         plain.foldl (fun v p => pairParts v r.core p.1) written else written
       ∃ t : State, exec i s = .next t ∧ KeepsCrews u t r.core ∧
         (∃ cc, t.runs = s.runs.tail ++ [r1.passed s cc] ∧ (sp ≠ .s → cc = 0)) ∧
         (t.core r.core).lodge = (((data.filter fun p => p.1.attr == 2).foldl (fun v p =>
             lodgeNew v r.core p.1.x.slot .device
               { sector := p.1.pas.headD 0 / 64, mask := 0, data := 0, attr := 2, cls := 0
                 ev := false, home := dieZero r.core
                 eff := .dev (p.1.pas.headD 0) sz.bytes (BitVec.ofNat 64 (ofBytes p.2.1)) })
           paired).core r.core).lodge) ∧
  ((∀ (pa : Nat) (b : Byte) (attr : BitVec 3) (cls : BitVec 2) (ev : Bool) (home : Option Nat)
     (eff : Effect) (ws : List SectorW),
     (∃ w ∈ sectorAdd pa b attr cls ev home eff ws, w.sector = pa / 64 ∧
       bit w.mask (pa % 64) = true ∧ byteOf w.data (pa % 64) = b) ∧
     ∀ w ∈ ws, ∃ w' ∈ sectorAdd pa b attr cls ev home eff ws, w'.sector = w.sector ∧
       ∀ j, j < 64 → (64 * w.sector + j ≠ pa) → bit w'.mask j = bit w.mask j ∧
         byteOf w'.data j = byteOf w.data j) ∧
   (∀ (s : State) (c slot : Nat) (kind : LKind) (w : SectorW) (k : Crew),
     s.crew? c slot = some k →
     ∃ e ∈ ((lodgeWrite s c slot kind w).core c).lodge, e.slot = slot ∧ e.kind = kind ∧
       e.rseq = k.rseq ∧ e.sector = w.sector ∧
       (∀ j, j < 64 → bit w.mask j = true →
         bit e.mask j = true ∧ byteOf e.data j = byteOf w.data j)) ∧
   (∀ (s : State) (c slot : Nat) (kind : LKind) (w : SectorW),
     KeepsCrews s (lodgeWrite s c slot kind w) c ∧
     ((lodgeWrite s c slot kind w).core c).lodge.length ≤ (s.core c).lodge.length + 1 ∧
     ∀ e ∈ (s.core c).lodge, (e.slot ≠ slot ∨ e.sector ≠ w.sector) →
       (∀ f ∈ (s.core c).lodge, f.id = e.id → f = e) →
       e ∈ ((lodgeWrite s c slot kind w).core c).lodge))

/-- R190, R191, R195, R196, R210: a commit point with one active fibre whose access passes, that has
no earlier result and lies in this module or the host, with nothing of its core on the way to a die, and
for `st.rel` no fibre of the crew that faulted at it and has its own part still to make. A load takes its bytes at the home,
or from the device register; a release stores its bytes there; an atomic performs its operation
there: and each result is in flight, or for `st.rel` the batch goes on. -/
def Obligations.CommitAccesses : Prop :=
  ∀ (s u : State) (r r1 : Run) (g : Guard) (m : MAddr) (sz : Size) (x : LaneCtx) (pas : List Nat)
    (tags : List (BitVec 3 × BitVec 2)), r.Placed → netBusy u r.core = false →
    sbFull u r1 = false → replayed x = none → (pas.any (hostAway u)) = false →
    (∀ pa ∈ pas, zoneOf (canonPa u pa) ≠ .domain) →
    (∀ d, Issues s r (.ldGIo g d m sz) →
      accessed s r g .g m ⟨sz.bytes, false, false, true, true⟩ = (u, r1, [(x, .ok pas tags)]) →
      ∃ t, exec (.ldGIo g d m sz) s = .next t ∧ t.runs = s.runs.tail ++ [r1.passed s 0] ∧
        InFlight u t r x.slot fun lanes => lanes.get? x.lane = some (readyLane d sz.regs sz.bytes
          false (if (tags.headD (0, 0)).1 = 2 then devRead u (pas.headD 0) sz.bytes
            else ofBytes (pas.map (homeGet (pas.foldl homeCollect u)))))) ∧
    (∀ d sc, Issues s r (.ldAcq g d m sz sc) →
      accessed s r g .g m ⟨sz.bytes, false, false, false, false⟩ =
        (u, r1, [(x, .ok pas tags)]) →
      ∃ t, exec (.ldAcq g d m sz sc) s = .next t ∧ t.runs = s.runs.tail ++ [r1.passed s 0] ∧
        InFlight u t r x.slot fun lanes => lanes.get? x.lane = some (readyLane d sz.regs sz.bytes
          false (ofBytes (pas.map (homeGet (pas.foldl homeCollect u)))))) ∧
    (∀ a sc, Issues s r (.stRel g a m sz sc) →
      accessed s r g .g m ⟨sz.bytes, true, false, false, false⟩ =
        (u, r1, [(x, .ok pas tags)]) →
      (∀ k, u.crew? r.core x.slot = some k → owesPart k r1 = false) →
      ∃ t, exec (.stRel g a m sz sc) s = .next t ∧ t.runs = s.runs.tail ++ [r1.passed s 0] ∧
        SameBytes ((pas.zip (toBytes sz.bytes (srcNat x.crew r1 x.lane sz.regs a))).foldl
          (fun v p => homeStore v r.core p.1 [p.2]) (releaseOf sc u r.core x.slot)) t ∧
        ∀ k, t.crew? r.core x.slot = some k → k.wsig = 0 ∧ k.wsat = false ∧ k.asig = 0 ∧
          k.asat = false) ∧
    (∀ i op sgn d sc o,
      (i = .atomAdd g d m sz sc o ∧ op = .add ∧ sgn = false ∨
        i = .atomMin g d m sz sc o sgn ∧ op = .min ∨ i = .atomMax g d m sz sc o sgn ∧ op = .max ∨
        i = .atomAnd g d m sz sc o ∧ op = .and ∧ sgn = false ∨
        i = .atomOr g d m sz sc o ∧ op = .or ∧ sgn = false ∨
        i = .atomXor g d m sz sc o ∧ op = .xor ∧ sgn = false ∨
        i = .atomXchg g d m sz sc o ∧ op = .xchg ∧ sgn = false ∨
        i = .atomCas g d m sz sc o ∧ op = .cas ∧ sgn = false) →
      Issues s r i →
      accessed s r g .g m ⟨sz.bytes, true, true, false, false⟩ =
        (u, r1, [(x, .ok pas tags)]) →
      let pre := if o = .rel ∨ o = .acqrel then releaseOf sc u r.core x.slot else u
      let v := atomOperand x.crew x.lane op d sz
      let p := atomAt pre r.core (pas.headD 0) sz.bytes op sgn v.1 v.2
      ∃ t, exec i s = .next t ∧ t.runs = s.runs.tail ++ [r1.passed s 0] ∧
        (o = .relaxed ∨ o = .rel → SameBytes p.1 t) ∧
        InFlight u t r x.slot fun lanes => lanes.get? x.lane =
          some (readyLane (.reg d) sz.regs sz.bytes false p.2))

/-- R195: what an atomic writes at the home, and that it returns what stood there; a failed `cas`
writes nothing. R159, R197, R198: an atomic that returns nothing, and `ared`, are held: with one
active fibre whose access passes and a free lodge entry, one entry holds the update, and no byte
of memory and no register changes. -/
def Obligations.Atomics : Prop :=
  ((∀ (w old v cmp : Nat), old < 2 ^ w → v < 2 ^ w → ∀ sgn,
     atomNew .add sgn w old v cmp = some ((old + v) % 2 ^ w) ∧
     atomNew .min true w old v cmp = some (if sextNat w v < sextNat w old then v else old) ∧
     atomNew .min false w old v cmp = some (min old v) ∧
     atomNew .max true w old v cmp = some (if sextNat w old < sextNat w v then v else old) ∧
     atomNew .max false w old v cmp = some (max old v) ∧
     atomNew .and sgn w old v cmp = some (old &&& v) ∧
     atomNew .or sgn w old v cmp = some (old ||| v) ∧
     atomNew .xor sgn w old v cmp = some (old ^^^ v) ∧
     atomNew .xchg sgn w old v cmp = some v ∧
     atomNew .cas sgn w old v cmp = if old = cmp then some v else none) ∧
   (∀ (s : State) (c pa size v cmp : Nat) (op : AtomOp) (sgn : Bool),
     HomesPlain s → pa + size ≤ 2 ^ 40 → pa / 256 = (pa + size - 1) / 256 → 0 < size →
     let u := homeCollect s pa
     let p := atomAt s c pa size op sgn v cmp
     p.2 = homeWord u pa size ∧
     ∀ a, a < 2 ^ 40 → homeGet p.1 a =
       match atomNew op sgn (8 * size) (homeWord u pa size) v cmp with
       | some new => if pa ≤ a ∧ a < pa + size then (toBytes size new).getD (a - pa) 0
           else homeGet u a
       | none => homeGet u a)) ∧
  (∀ (s u : State) (r r1 : Run) (g : Guard) (m : MAddr) (sz : Size) (x : LaneCtx) (pas : List Nat)
     (tags : List (BitVec 3 × BitVec 2)), r.Placed →
     accessed s r g .g m ⟨sz.bytes, true, true, false, false⟩ = (u, r1, [(x, .ok pas tags)]) →
     LodgeFree u r1 1 →
     (∀ op sgn d, Issues s r (.atomFireAndForget g op sgn d m sz) →
       ∃ t e, exec (.atomFireAndForget g op sgn d m sz) s = .next t ∧
         t.runs = s.runs.tail ++ [r1.passed s 0] ∧ KeepsCrews u t r.core ∧
         (t.core r.core).lodge = (u.core r.core).lodge ++ [e] ∧ e.slot = x.slot ∧
         e.kind = .ffAtomic ∧ e.sector = canonPa u (pas.headD 0) / 64 ∧
         e.eff = .atom op sgn sz.bytes [(pas.headD 0,
           BitVec.ofNat 128 (atomOperand x.crew x.lane op d sz).1,
           BitVec.ofNat 128 (atomOperand x.crew x.lane op d sz).2)]) ∧
     (∀ op a, x.lane < 64 → Issues s r (.ared g op a m sz) →
       ∃ t e, exec (.ared g op a m sz) s = .next t ∧
         t.runs = s.runs.tail ++ [r1.passed s 0] ∧ KeepsCrews u t r.core ∧
         (t.core r.core).lodge = (u.core r.core).lodge ++ [e] ∧ e.slot = x.slot ∧
         e.kind = .ffAtomic ∧ e.sector = canonPa u (pas.headD 0) / 64 ∧
         e.eff = .ared op sz.bytes [(pas.headD 0,
           BitVec.ofNat 64 (srcNat x.crew r1 x.lane sz.regs a))]))

/-- R192, R193, R200, R201, R202: `fence`, a prefetch and, once its core's messages have arrived, `phase`
always complete; so do an `inv` and a `wbk` whose translations are at hand, and the Keeper's `inv.iall`
and, once the walks of its scope are done, `inv.tlb`. None changes a register or a fibre, and `fence` and
the two of the Keeper no byte of memory. A fibre of any other crew that issues `inv.iall` or `inv.tlb`
takes PRIVILEGE, which names its clause and position (R384). -/
def Obligations.CacheFormsComplete : Prop :=
  ∀ (s : State) (r : Run) (g : Guard), r.Placed →
    let on := fun (i : Instr) (Q : State → Prop) =>
      ∃ t, exec i s = .next t ∧ t.runs = s.runs.tail ++ [r.passed s 0] ∧ Q t
    let keeps := fun (t : State) => KeepsRegs s t r.core
    (Issues s r (.fence g) → on (.fence g) fun t => KeepsCrews s t r.core) ∧
    (∀ sc, Issues s r (.phase g sc) → netBusy s r.core = false → on (.phase g sc) keeps) ∧
    (∀ lvl m, Issues s r (.prfD g lvl m) → on (.prfD g lvl m) keeps) ∧
    (∀ m, Issues s r (.prfI g m) → on (.prfI g m) keeps) ∧
    (∀ m, (∀ p ∈ (lineXlates s r g m).2, ∀ va, p.2 ≠ .miss va) →
      (∀ sc, Issues s r (.invD g sc m) → on (.invD g sc m) keeps) ∧
      (∀ sc, Issues s r (.invI g sc m) → on (.invI g sc m) keeps) ∧
      (∀ mem, Issues s r (.wbk g mem m) → on (.wbk g mem m) keeps)) ∧
    ((∀ p ∈ r.fibres, isKeeper p.2 = true) →
      (∀ sc, Issues s r (.invIall g sc) → on (.invIall g sc) fun t => KeepsCrews s t r.core) ∧
      (∀ sc m, Issues s r (.invTlb g sc m) →
        (∀ q ∈ clusterOf r.core :: touchedClusters s r.core sc, (s.cluster q).misses = []) →
        on (.invTlb g sc m) fun t => KeepsCrews s t r.core)) ∧
    (∀ i, ((∃ sc, i = .invIall g sc) ∨ ∃ sc m, i = .invTlb g sc m ∧
        ∀ p ∈ r.fibres, isKeeper p.2 = false) → Issues s r i →
      ∀ lane slot k, s.crew? r.core slot = some k → activeIn r g slot k lane = true →
        isKeeper slot = false → ∃ t, exec i s = .next t ∧ TrappedHere t r lane slot .privilege)

/-- R192, R193: `fence` notes, for each crew with an active fibre, the copies it has running and the
newest lodge entry, and `phase` performs the release and the acquire of its scope. R200 to R202: a
prefetch, an `inv` or a `wbk` of one line whose address translates. `prf.d` leaves the line in the L1, the
L2 or the last-level cache, `prf.i` asks for the line; one that may not be prefetched, or for whose walk
there is no room, is counted and dropped; `inv.d` leaves the line in no cache of its scope and `inv.i`
its tenant's line in no instruction cache; `wbk` leaves no dirty sector of the line in any L2, and `.mem`
every byte of it that the last-level cache holds in LPDDR-5X too. R175, R201: `inv.iall` leaves no line of
the Keeper's tenant in the instruction caches of its scope, and `inv.tlb` no entry of its address space
for the page, or for any address where it names none, in the TLBs of its scope. -/
def Obligations.CachesAndFences : Prop :=
  ((∀ g s r, Issues s r (.fence g) → r.Placed →
     ∃ t, exec (.fence g) s = .next t ∧ t.runs = s.runs.tail ++ [r.passed s 0] ∧
       KeepsCrews s t r.core ∧ SameBut r.core s t ∧
       ∀ slot k, s.crew? r.core slot = some k → (∃ lane, activeIn r g slot k lane = true) →
         ∃ k', t.crew? r.core slot = some k' ∧ k'.fenceId = (s.core r.core).nextId ∧
           ∀ id, id ∈ k'.fenced ↔ ∃ p ∈ (s.core r.core).ctxs.cells, p.2.slot = slot ∧
             p.2.own = true ∧ (p.2.state = 1 ∨ p.2.state = 3) ∧ p.2.id = id) ∧
   (∀ g sc s r, Issues s r (.phase g sc) → r.Placed → netBusy s r.core = false →
     (∃ x ∈ activeLanes s r g, replayed x = none) →
     ∃ t, exec (.phase g sc) s = .next t ∧ t.runs = s.runs.tail ++ [r.passed s 0] ∧
       SameBytes (acquireActions (releaseActions (touchRun s r) r.core sc fun _ => true) r.core sc
         fun _ => true) t ∧
       (sc ≠ .crew → (t.core r.core).l1 = []) ∧
       ((sc = .die ∨ sc = .package ∨ sc = .domain) → (t.cluster (clusterOf r.core)).l2 = []))) ∧
  (∀ (s : State) (r : Run) (g : Guard) (m : MAddr) (x : LaneCtx), r.Placed →
     oncePerLine r m (activeLanes (touchRun s r) r g) = [x] →
     let va := vaOf x.crew r x.lane m
     let asks := fun (lvl : Option PrfLevel) =>
       unitXlate (touchRun s r) (tctxOf s x.slot x.crew)
         { core := r.core, kind := .prefetch x.crew.tenant lvl, keeper := isKeeper x.slot
           write := false, fetch := lvl.isNone, va }
     let on := fun (i : Instr) (Q : State → Prop) =>
       ∃ t, exec i s = .next t ∧ t.runs = s.runs.tail ++ [r.passed s 0] ∧ Q t
     (∀ lvl u e, Issues s r (.prfD g lvl m) → asks (some lvl) = .hit u e → u.upsets = [] →
       let pa := canonPa u (leafPa e.leaf e.level va)
       on (.prfD g lvl m) fun t =>
         (leafAttr e.leaf = 0 → zoneOf pa = .device →
           (lvl = .l1 → l1Ways (u.core r.core) ≠ 0 → ∃ y ∈ (t.core r.core).l1, y.line = pa / 256) ∧
           (lvl = .l2 → ∃ y ∈ (t.cluster (clusterOf r.core)).l2, y.line = pa / 256) ∧
           (lvl = .llc → (t.llc.get? (pa / 256)).isSome = true)) ∧
         (leafAttr e.leaf = 2 ∨ zoneOf pa ≠ .device →
           (t.core r.core).fixed.getD 8 0 = (u.core r.core).fixed.getD 8 0 + 1)) ∧
     (∀ lvl, Issues s r (.prfD g lvl m) → asks (some lvl) = .full →
       on (.prfD g lvl m) fun t =>
         (t.core r.core).fixed.getD 8 0 = (s.core r.core).fixed.getD 8 0 + 1) ∧
     (∀ u e, Issues s r (.prfI g m) → asks none = .hit u e → leafAttr e.leaf ≠ 2 →
       zoneOf (canonPa u (leafPa e.leaf e.level va)) = .device →
       on (.prfI g m) fun t =>
         (∃ y ∈ (t.core r.core).icache, y.line = va / 256 ∧ y.tenant = x.crew.tenant) ∨
           ∃ y ∈ (t.core r.core).ifills, y.1 = va / 256 ∧ y.2.1 = x.crew.tenant) ∧
     (∀ u pa attr cls, lineXlate (touchRun s r) r m x = (u, .ok [pa] [(attr, cls)]) →
       let line := canonPa u pa / 256
       (∀ sc, Issues s r (.invD g sc m) → on (.invD g sc m) fun t =>
         (∀ c ∈ touchedCores u r.core sc, ∀ y ∈ (t.core c).l1, y.line ≠ line) ∧
         ∀ k ∈ touchedClusters u r.core sc, ∀ y ∈ (t.cluster k).l2, y.line ≠ line) ∧
       (∀ sc, Issues s r (.invI g sc m) → on (.invI g sc m) fun t =>
         (∀ c ∈ touchedCores u r.core sc, ∀ y,
           y ∈ (t.core c).icache ↔ y ∈ (u.core c).icache ∧
             ¬(y.line = va / 256 ∧ y.tenant = x.crew.tenant)) ∧
         ∀ k ∈ touchedClusters u r.core sc, ∀ y ∈ (t.cluster k).l2, y.line ≠ line) ∧
       (∀ mem, Issues s r (.wbk g mem m) → attr ≠ 2 → zoneOf (canonPa u pa) = .device →
         Memory.wf u.mem = true → on (.wbk g mem m) fun t =>
         (∀ k ∈ u.clusters.keys, ∀ y ∈ (t.cluster k).l2, y.line = line → y.dirty = 0) ∧
         (mem = true → ∀ y i, t.llc.get? line = some y → i < 256 → bit y.mask i = true →
           memGet t.mem (line * 256 + i) = byteOf y.data i)))) ∧
  (∀ (s : State) (r : Run) (g : Guard) (sc : Scope) (m : MAddr) (k : Crew), r.Placed →
     (∀ p ∈ r.fibres, isKeeper p.2 = true) → s.crew? r.core Config.keeperSlot = some k →
     (∃ lane, activeIn r g Config.keeperSlot k lane = true) →
     (Issues s r (.invIall g sc) → ∃ t, exec (.invIall g sc) s = .next t ∧
       t.runs = s.runs.tail ++ [r.passed s 0] ∧ SameBytes s t ∧
       ∀ c ∈ touchedCores s r.core sc, ∀ y,
         y ∈ (t.core c).icache ↔ y ∈ (s.core c).icache ∧ y.tenant ≠ k.tenant) ∧
     (Issues s r (.invTlb g sc m) →
       (∀ q ∈ clusterOf r.core :: touchedClusters s r.core sc, (s.cluster q).misses = []) →
       let gone := fun (e : TlbE) lane => e.pasid = tctxPasid (tctxOf s Config.keeperSlot k) ∧
         if m = ⟨.zero, .zero, 0⟩ then e.page * 2 ^ pageBits e.level < 2 ^ 56
         else e.page = vaOf k r lane m / 2 ^ pageBits e.level
       ∃ t, exec (.invTlb g sc m) s = .next t ∧ t.runs = s.runs.tail ++ [r.passed s 0] ∧
         SameBytes s t ∧
         (∀ c ∈ touchedCores s r.core sc, ∀ e, e ∈ (t.core c).tlb ↔ e ∈ (s.core c).tlb ∧
           ∀ lane, activeIn r g Config.keeperSlot k lane = true → ¬ gone e lane) ∧
         ∀ q ∈ touchedClusters s r.core sc, ∀ e, e ∈ (t.cluster q).tlb ↔ e ∈ (s.cluster q).tlb ∧
           ∀ lane, activeIn r g Config.keeperSlot k lane = true → ¬ gone e lane))

/-! ### Matrix instructions (R46, R233 to R253) -/

/-- R246, R247: `orsv` reserves a record, `omap` gives it another map, and both start its fill; `orel`
marks it released. -/
def Obligations.OperandRecords : Prop :=
  ∀ (s : State) (r : Run) (g : Guard) (k : BitVec 4) (q mask : Src) (pl : PlaceOp) (x : CrewCtx)
    (a : LaneCtx), k.toNat < footOrec x.crew.foot →
    (∀ first, Whole s r (.orsv g k q mask pl) g mask x a →
      let d := (orsvVals a r q).1
      let m := (orsvVals a r q).2
      recState (recOf x.crew k.toNat).desc = 0 → descBad d (trMode s r.core) = false →
      mapBad d m = false → recPlaceTrap (touchRun s r) r x pl = none →
      freeLines x.crew (recLines d) = some first →
      Completes (.orsv g k q mask pl) s r 0 fun t =>
        (t.core r.core).fills = (s.core r.core).fills.filter (· != (x.slot, k.toNat)) ++
          [(x.slot, k.toNat)] ∧
        ∃ c, t.crew? r.core x.slot = some c ∧ recOf c k.toNat =
          { desc := withPlace (setFld d 18 17 1) pl, map := m, first, count := recLines d
            fault := none, relSeq := none }) ∧
    (Whole s r (.omap g k q mask pl) g mask x a → recHeld k.toNat s = false →
      let d := (omapVals k q a r).1
      let m := (omapVals k q a r).2
      recState (recOf x.crew k.toNat).desc = 1 → mapBad d m = false →
      recPlaceTrap (touchRun s r) r x pl = none →
      Completes (.omap g k q mask pl) s r 0 fun t =>
        (t.core r.core).fills = (s.core r.core).fills.filter (· != (x.slot, k.toNat)) ++
          [(x.slot, k.toNat)] ∧
        ∃ c, t.crew? r.core x.slot = some c ∧ recOf c k.toNat =
          { recOf x.crew k.toNat with
            desc := withPlace (setBit d 19 false) pl, map := m, fault := none }) ∧
    (Whole s r (.orel g k mask) g mask x a → recHeld k.toNat s = false →
      recState (recOf x.crew k.toNat).desc = 1 →
      Completes (.orel g k mask) s r 0 fun t =>
        ∃ c, t.crew? r.core x.slot = some c ∧ recOf c k.toNat =
          { recOf x.crew k.toNat with
            desc := setFld (recOf x.crew k.toNat).desc 18 17 2, fault := none
            relSeq := some x.crew.rseq })

/-- R241, R248 to R250: the instructions of the matrix queue. Where the queue has room and the
checks pass, an entry of the crew joins the queue with the operands read at issue; `ard` is
scoreboarded. R251, R252: `gang` in a crew of a gang that has used the count and key goes on; in a
crew of no gang it arrives and holds. `gang.leave` dissolves the crew's gang. A joint `mma`
arrives in the latch and holds. R240, R242: values written into accumulator blocks. Each element
listed reads as its value; in a block written for the first time in a region the others keep their
value, or are zero where the instruction does not add; every other block keeps its values, and
what the checkpoint held comes back when the renamed blocks are given up. -/
def Obligations.MatrixWork : Prop :=
  (∀ (s : State) (r : Run) (g : Guard) (spec mask b : Src) (lg : BitVec 3) (x : CrewCtx)
     (a : LaneCtx), (s.core r.core).mq.length < 32 →
     let w := leaderVal r a spec
     let one := fun (i : Instr) (vals : Tab W32) (lanes : List Nat) (t : State) => ∃ e : MEntry,
       (t.core r.core).mq = (s.core r.core).mq ++ [e] ∧ e.instr = i ∧ e.crews = [(x.slot, w)] ∧
       e.clause = r.clause ∧ e.pos = r.pos ∧ e.vals = vals ∧ e.lanes = lanes ∧ e.ends = none
     (∀ i ra rb, (i = .mma g ra rb spec mask ∨ i = .mmaz g ra rb spec mask) →
       Whole s r i g mask x a → mmaTrap (touchRun s r) r.core x.crew false ra rb w = none →
       Completes i s r 0 (one i .empty [])) ∧
     (Whole s r (.aclr g spec mask) g mask x a →
       specBlk w + fld w 12 8 + 1 ≤ footAcc x.crew.foot →
       Completes (.aclr g spec mask) s r 0 (one (.aclr g spec mask) .empty [])) ∧
     (Whole s r (.ascl g spec mask b) g mask x a →
       specBlk w + fld w 12 8 + 1 ≤ footAcc x.crew.foot →
       Completes (.ascl g spec mask b) s r 0 (one (.ascl g spec mask b)
         (x.named.foldl (fun t y => t.put y.lane (leaderVal r y b)) .empty)
         (x.named.map (·.lane)))) ∧
     (Whole s r (.awr g lg spec mask b) g mask x a → colTrap x.crew w lg = none →
       Completes (.awr g lg spec mask b) s r 0 (one (.awr g lg spec mask b) (awrVals lg b r x.named)
         (x.named.map (·.lane)))) ∧
     (∀ d, Whole s r (.ard g lg d spec mask) g mask x a → colTrap x.crew w lg = none →
       sbFull s r = false →
       Completes (.ard g lg d spec mask) s r 0 fun t =>
         one (.ard g lg d spec mask) .empty (x.named.map (·.lane)) t ∧
         InFlight s t r x.slot fun lanes => ∀ y ∈ x.named, lanes.get? y.lane =
           some { reg := (loadRegs d (2 ^ lg.toNat)).1, n := (loadRegs d (2 ^ lg.toNat)).2, size := 4
                  sx := false, data := 0, req := none, dead := [] })) ∧
  (∀ (s : State) (r : Run) (g : Guard) (c : BitVec 3) (ra rb : BitVec 4) (key mask : Src)
     (x : CrewCtx) (a : LaneCtx),
     let w := leaderVal r a key
     (Whole s r (.gang g c key mask) g mask x a → fld x.crew.gang 34 32 ≠ 0 →
       x.crew.gkeys.contains (c.toNat, w) = true →
       Completes (.gang g c key mask) s r 0 fun t => KeepsCrews s t r.core ∧
         (t.core r.core).gangQ = (s.core r.core).gangQ) ∧
     (Whole s r (.gang g c key mask) g mask x a → fld x.crew.gang 34 32 = 0 →
       (∀ b ∈ (s.core r.core).gangQ, b.slot ≠ x.slot) →
       ∃ t, exec (.gang g c key mask) s = .next t ∧ SameBytes s t ∧ KeepsCrews s t r.core ∧
         t.runs = s.runs.tail ++ [{ r with taken := true, hold := some .gang, asked := s.now }] ∧
         (t.core r.core).gangQ = (s.core r.core).gangQ ++
           [{ slot := x.slot, c := c.toNat, key := w, at_ := s.now }]) ∧
     (Whole s r (.gangLeave g key mask) g mask x a →
       (∀ b ∈ (s.core r.core).latchQ, b.slot ∉ gangSlots x.crew) →
       Completes (.gangLeave g key mask) s r 0 fun t => ∀ y ∈ gangSlots x.crew,
         ∀ k, t.crew? r.core y = some k → k.gang = 0 ∧ k.gkeys = []) ∧
     (Whole s r (.mmaJoint g ra rb key mask) g mask x a →
       mmaTrap (touchRun s r) r.core x.crew true ra rb w = none →
       (∀ b ∈ (s.core r.core).latchQ, b.slot ≠ x.slot) →
       ∃ t, exec (.mmaJoint g ra rb key mask) s = .next t ∧ KeepsCrews s t r.core ∧
         t.runs = s.runs.tail ++ [{ r with taken := true, hold := some .latch, asked := s.now }] ∧
         (t.core r.core).latchQ = (s.core r.core).latchQ ++
           [{ slot := x.slot, c := specNm1 w, key := w, at_ := s.now }])) ∧
  (∀ (k : Crew) (keep : Bool) (l : List (Nat × W32)), (∀ p ∈ l, p.1 < 65536) →
     let cur := fun (k : Crew) (i : Nat) =>
       (if bit k.acur (i / 1024) then k.acc1 else k.acc0).getD i 0
     let k' := accWrite k keep l
     (∀ p ∈ l, (∀ q ∈ l, q.1 = p.1 → q.2 = p.2) → cur k' p.1 = p.2) ∧
     (∀ i, i < 65536 → (∀ p ∈ l, p.1 ≠ i) → cur k' i =
       if (l.any fun p => p.1 / 1024 == i / 1024) && !keep && !bit k.adirty (i / 1024) then 0
       else cur k i) ∧
     (k.adirty = 0 → ∀ i, i < 65536 →
       cur { k' with acur := k'.acur ^^^ k'.adirty, adirty := 0 } i = cur k i))

/-! ### Copies, graphs and streams (R254 to R283) -/

/-- R255, R276: `cpy` and `cpy.t` with a good record and a free context allocate the context, with
the record as it stands in the scratchpad, and give its handle to the named fibres. R277: `cwait`
gives the status of the handle, 0xFF to a poll of an object that is not final, and marks a final
object, but for an `.nw` context, to be freed when the region clears. R278 to R280: `node` makes a
node of a good record in state 1; `nlink` adds an edge between two nodes in state 1; `narm` notes
the region at whose clear the node arms. -/
def Obligations.CopyAndGraph : Prop :=
  (∀ (s : State) (r : Run) (g : Guard) (nw : Bool) (d : Dst) (off mask : Src) (pl : PlaceOp)
     (x : CrewCtx) (a : LaneCtx) (i : Instr) (tensor : Bool),
     (i = .cpy g nw d off mask pl ∧ tensor = false ∨ i = .cpyT g nw d off mask pl ∧ tensor = true) →
     Whole s r i g mask x a →
     let u := touchRun s r
     let n := if tensor then 64 else 32
     let o := (leaderVal r a off).toNat
     let ws := scrWords u r.core x.slot x.crew o (n / 8)
     recordAt x.crew o (if tensor then 64 else 16) n = none → copyBad tensor ws pl = false →
     copyTrap u r.core x.slot x.crew tensor ws pl = none →
     ∀ idx pool, freeIdx (s.core r.core) (crewId x.crew) 0 = some idx →
       freeKey (s.core r.core).ctxs 256 = some pool →
       ∃ cc, (if tensor then 4 else 2) ≤ cc ∧ Completes i s r cc fun t =>
         (∃ id, (t.core r.core).ctxs.get? pool = some (newCtx s x.slot x.crew idx nw tensor ws
           (copyPlace u r.core x.slot x.crew pl) true none
           (s.now + (if tensor then 4 else 2) * clockDiv s r.core) id)) ∧
         NamedGet t r x d (handleOf x.crew 0 idx)) ∧
  (∀ (s : State) (r : Run) (g : Guard) (poll : Bool) (d : Dst) (h mask : Src) (x : CrewCtx)
     (a : LaneCtx) (st : Option Nat), Whole s r (.cwait g poll d h mask) g mask x a →
     (poll = true ∨ cwaitBusy g h mask s = false) →
     let v := leaderVal r a h
     handleStatus (s.core r.core) x.crew v = .ok st →
     ∃ cc, Completes (.cwait g poll d h mask) s r cc fun t =>
       NamedGet t r x d (BitVec.ofNat 32 (st.getD 0xFF)) ∧
       ∀ q, x.crew.region = some q → ∃ k q', t.crew? r.core x.slot = some k ∧
         k.region = some q' ∧ q'.freed = q.freed ++
           (if st.isNone ∨ st = some 1 ∨ (hKind v = 0 ∧ (ctxOf (s.core r.core) (crewId x.crew)
             (hIdx v)).any (fun p => p.2.nw) = true) then [] else [(hKind v, hIdx v)])) ∧
  (∀ (s : State) (r : Run) (g : Guard) (kind : BitVec 2) (keep : Bool) (d : Dst) (off to_ mask : Src)
     (x : CrewCtx) (a : LaneCtx),
     let u := touchRun s r
     let kd := kind.toNat
     let o := (leaderVal r a off).toNat
     let ws := scrWords u r.core x.slot x.crew o (nodeBytes kd / 8)
     (Whole s r (.node g kind keep d off mask) g mask x a →
       recordAt x.crew o (nodeAlign kd) (nodeBytes kd) = none → nodeBad kd ws = false →
       nodesOwned (s.core r.core) x.crew < 128 →
       ∀ idx e, freeIdx (s.core r.core) (crewId x.crew) 1 = some idx →
         freeKey (s.core r.core).nodes 512 = some e →
         ∃ cc, Completes (.node g kind keep d off mask) s r cc fun t =>
           NamedGet t r x d (handleOf x.crew 1 idx) ∧
           ∃ n, (t.core r.core).nodes.get? e = some n ∧ n.state = 1 ∧ n.kind = kd ∧ n.keep = keep ∧
             n.pred = 0 ∧ n.succ = [] ∧ n.slot = x.slot ∧ n.idx = idx ∧ n.payload = ws ∧
             n.armSeq = none ∧ n.who = crewId x.crew) ∧
     (∀ e p e' p', Whole s r (.nlink g off mask to_) g mask x a →
       building (s.core r.core) x.crew (leaderVal r a off) = some (e, p) →
       building (s.core r.core) x.crew (leaderVal r a to_) = some (e', p') → e ≠ e' →
       leaderVal r a off ≠ leaderVal r a to_ → p.succ.length < 8 → p'.pred ≠ 255 →
       Completes (.nlink g off mask to_) s r 0 fun t =>
         (∃ n, (t.core r.core).nodes.get? e = some n ∧ n.succ = p.succ ++ [e']) ∧
         (t.core r.core).nodes.get? e' = some { p' with pred := p'.pred + 1 }) ∧
     (∀ e p, Whole s r (.narm g off mask) g mask x a →
       building (s.core r.core) x.crew (leaderVal r a off) = some (e, p) →
       Completes (.narm g off mask) s r 0 fun t =>
         (t.core r.core).nodes.get? e = some { p with armSeq := some x.crew.rseq }))

/-- R268, R281 to R283: `sbind` binds a stream of a good program to a queue, `srun` starts it and
`sstop` stops it; `rfill` and `rdrain` make a running stream of a ring. -/
def Obligations.Streams : Prop :=
  ∀ (s : State) (r : Run) (g : Guard) (d : Dst) (off mask : Src) (pl : PlaceOp) (x : CrewCtx)
    (a : LaneCtx),
    let u := touchRun s r
    let v := leaderVal r a off
    let ws := scrWords u r.core x.slot x.crew v.toNat 4
    let made := fun (t : State) (kind q state : Nat) (prog : List W64) (total : Nat) => ∃ n,
      (t.core r.core).streams.get? ((freeKey (s.core r.core).streams 4096).getD 0) = some n ∧
      n.kind = kind ∧ n.q = q ∧ n.state = state ∧ n.prog = prog ∧ n.total = total ∧ n.next = 0 ∧
      n.who = crewId x.crew
    (∀ store q idx, Whole s r (.sbind g store q d off mask pl) g mask x a →
      recordAt x.crew v.toNat 16 32 = none → progBad false ws pl = false →
      sideBound x.crew ⟨progSpace ws, fld (wordOf ws 0) 55 0⟩
        (progRange ws (lanesOf (footLanes x.crew.foot) x.mask)) = false →
      (progSpace ws = 2 → fld (wordOf ws 0) 55 0 < 0x200000 ∧
        ∃ p, placeResolve u r.core x.slot x.crew pl = .ok p) →
      freeIdx (s.core r.core) (crewId x.crew) 2 = some idx →
      ∃ cc, Completes (.sbind g store q d off mask pl) s r cc fun t =>
        made t (if store then 1 else 0) q.toNat 0 ws (progSteps ws) ∧
        NamedGet t r x d (handleOf x.crew 2 idx)) ∧
    (∀ e y, Whole s r (.srun g off mask) g mask x a →
      streamNamed (s.core r.core) x.crew v = some (e, y) → y.state = 0 →
      Completes (.srun g off mask) s r 0 fun t => ∃ n, (t.core r.core).streams.get? e = some n ∧
        n.state = 1 ∧ n.rseq = commandSeq x.crew ∧ n.prog = y.prog ∧ n.next = y.next) ∧
    (∀ e y, Whole s r (.sstop g off mask) g mask x a →
      streamNamed (s.core r.core) x.crew v = some (e, y) →
      Completes (.sstop g off mask) s r 0 fun t => (t.core r.core).streams.get? e =
        some (if y.stop.isSome then y else stopStream y (commandSeq x.crew))) ∧
    (∀ i kind rg idx, (i = .rfill g false rg d off mask ∧ kind = 2 ∨
        i = .rdrain g rg d off mask ∧ kind = 4) → Whole s r i g mask x a →
      recordAt x.crew v.toNat 16 32 = none → progBad true ws ⟨0, 0, 0⟩ = false →
      ringTrap u r.core x.crew kind rg.toNat 0 0 = false →
      freeIdx (s.core r.core) (crewId x.crew) 2 = some idx →
      ∃ cc, Completes i s r cc fun t => made t kind rg.toNat 1 ws (progSteps ws) ∧
        NamedGet t r x d (handleOf x.crew 2 idx)) ∧
    (∀ rg idx, Whole s r (.rfill g true rg d off mask) g mask x a →
      ringTrap u r.core x.crew 3 rg.toNat (fld v 3 0) (fld v 31 16) = false →
      freeIdx (s.core r.core) (crewId x.crew) 2 = some idx →
      ∃ cc, Completes (.rfill g true rg d off mask) s r cc fun t =>
        made t 3 rg.toNat 1 [] (fld v 31 16) ∧ NamedGet t r x d (handleOf x.crew 2 idx))

/-! ### Spawn, queues, rings and gates (R299 to R315) -/

/-- R301, R308: a spawn of one crew makes one held entry with a child for each active fibre: their
numbers in order, their depth, entry, argument and equal shares of the budgets, which leave the
crew. R306, R309, R313, R315: what `launch`, `sig.put`, `sig.take`, `rel` and `wdog.beat` hold
until their clear: one entry for each crew with an active fibre. -/
def Obligations.CrewsAndSpawn : Prop :=
  (∀ (s : State) (r : Run) (g : Guard) (f : BitVec 5) (tgt arg : Src) (slot : Nat) (k : Crew)
     (ns : List (BitVec 32)), Issues s r (.spawn g f tgt arg) → r.Placed →
     let l := activeLanes (touchRun s r) r g
     l ≠ [] → (∀ x ∈ l, x.slot = slot ∧ targetOk (srcVal x.crew r x.lane true tgt) = true) →
     s.crew? r.core slot = some k → k.depth < 8 → childNumbers s k l.length = some ns →
     l.length ≤ dequeFree (s.core r.core) → LodgeFree s r 1 →
     let ib := childShare k.ib f.toNat l.length
     let mb := childShare k.mb f.toNat l.length
     Completes (.spawn g f tgt arg) s r 2 fun t =>
       Lodged s t r .spawn [(slot, none, .children ((l.zip ns).map fun (x, n) =>
         { launch := k.tenant, number := n, depth := k.depth + 1
           entry := (srcVal x.crew r x.lane true tgt).setWidth 56
           sparg := srcVal x.crew r x.lane true arg, ib, mb }))] ∧
       ∃ k', t.crew? r.core slot = some k' ∧ k'.taken = k.taken ++ ns ∧
         k'.ib = k.ib - BitVec.ofNat 48 (ib.toNat * l.length) ∧
         k'.mb = k.mb - BitVec.ofNat 48 (mb.toNat * l.length) ∧
         k'.fibres = k.fibres ∧ k'.reg0 = k.reg0 ∧ k'.reg1 = k.reg1) ∧
  (∀ (s : State) (r : Run) (g : Guard) (a : Src), r.Placed →
     let l := activeLanes (touchRun s r) r g
     let per := fun (eff : Nat → Effect) =>
       (activeSlots l).map fun slot => (slot, (none : Option Nat), eff slot)
     let sum := fun slot => (l.filter fun x => x.slot == slot).foldl
       (fun (n : W32) x => n + (srcVal x.crew r x.lane false a).setWidth 32) 0
     (Issues s r (.launch g a) → (∀ x ∈ l, fld (srcVal x.crew r x.lane true a) 5 0 = 0) →
       Held (.launch g a) s r .spawn (per fun slot => .launch
         ((l.filter fun x => x.slot == slot).map fun x =>
           (srcVal x.crew r x.lane true a).setWidth 56))) ∧
     (∀ rg, Issues s r (.sigPut g rg a) → (∀ x ∈ l, (ringDecl s x.crew rg.toNat).isSome) →
       Held (.sigPut g rg a) s r .signal (per fun slot => .sig rg.toNat false (sum slot))) ∧
     (∀ rg, Issues s r (.sigTake g rg a) → (∀ x ∈ l, (ringDecl s x.crew rg.toNat).isSome) →
       Held (.sigTake g rg a) s r .signal (per fun slot => .sig rg.toNat true (sum slot))) ∧
     (∀ k, Issues s r (.rel g k) → Held (.rel g k) s r .signal (per fun _ => .rel k.toNat)) ∧
     (Issues s r (.wdogBeat g) → (∀ x ∈ l, isKeeper x.slot = true) →
       Held (.wdogBeat g) s r .device
         ((activeSlots l).map fun slot => (slot, dieZero r.core, .beat))))

/-- R303, R310: `qbind` in one crew with a good spec and scratchpad makes the binding, removes it,
or leaves an identical one as it was. R304, R305, R311, R312: `qpop` of an entry puts it in flight
to the queue's register and moves the fibre's cursor; `qpush` into a queue with room holds a
scratchpad write of that register and moves the cursor. -/
def Obligations.Queues : Prop :=
  (∀ (s : State) (r : Run) (g : Guard) (q : BitVec 2) (d : BitVec 8) (spec : Src) (x : LaneCtx)
     (l : List LaneCtx), Issues s r (.qbind g q d spec) → r.Placed →
     activeLanes (touchRun s r) r g = x :: l → (∀ y ∈ l, y.slot = x.slot) →
     let w := srcVal x.crew r x.lane false spec
     qbindTrap s r.core x.crew q.toNat d.toNat w = none →
     Completes (.qbind g q d spec) s r 0 fun t => ∃ k, t.crew? r.core x.slot = some k ∧
       (qsUnbind w = true → k.queues.get? q.toNat = none) ∧
       (qsUnbind w = false → ∀ y, x.crew.queues.get? q.toNat = some y →
         k.queues.get? q.toNat = some y) ∧
       (qsUnbind w = false → x.crew.queues.get? q.toNat = none → ∃ y,
         k.queues.get? q.toNat = some y ∧ y.out = qsOut w ∧ y.cap = qsCap w ∧ y.off = qsOff w ∧
         y.reg = d.toNat ∧ y.tail = 0 ∧ y.drain = 0) ∧
       ∀ j, j ≠ q.toNat → k.queues.get? j = x.crew.queues.get? j) ∧
  (∀ (s : State) (r : Run) (g : Guard) (q : BitVec 2) (x : LaneCtx) (y : OQueue),
     s.runs.head? = some r → interlocked s r (mappedRegs q.toNat s r) = false → r.Placed →
     let u := touchRun s r
     activeLanes u r g = [x] → replayed x = none →
     let moved := fun (t : State) => ∃ k y', t.crew? r.core x.slot = some k ∧
       k.queues.get? q.toNat = some y' ∧ y'.cur.getD x.lane 0 = y.cur.getD x.lane 0 + 1 ∧
       y'.tail = y.tail
     (queueOf x.crew q.toNat false = some y → sbFull s r = false → y.cur.getD x.lane 0 ≠ y.tail →
       Completes (.qpop g q) s r 0 fun t => moved t ∧ InFlight s t r x.slot fun lanes =>
         lanes.get? x.lane = some (readyLane (.reg (BitVec.ofNat 8 y.reg)) 1 4 false
           (entryVal u r.core x.slot x.crew y (y.cur.getD x.lane 0) x.lane).toNat)) ∧
     (queueOf x.crew q.toNat true = some y → y.cur.getD x.lane 0 - y.drain ≠ y.cap →
       LodgeFree s r (pushSectors r.core [(x, y)]).length →
       Completes (.qpush g q) s r 0 fun t => moved t ∧
         (t.core r.core).lodge = (((pushSectors r.core [(x, y)]).foldl
           (fun v w => lodgeWrite v r.core x.slot .scratch w) u).core r.core).lodge))

/-- R305, R306, R307, R313, R314: an instruction whose wait has not come about blocks the fibre with
its continuation at the clause and its position; `gate` of an open bit goes on, and `sig.fill` and `sig.room` give what
the ring holds and what room it has. -/
def Obligations.RingsAndGates : Prop :=
  ∀ (s : State) (r : Run) (g : Guard), r.Placed →
    let u := touchRun s r
    let l := activeLanes u r g
    (∀ k, Issues s r (.gate g k) → (∀ x ∈ l, gateOpen s x.crew.tenant k.toNat = true) →
      ∃ t, exec (.gate g k) s = .next t ∧ t.runs = s.runs.tail ++ [r.passed s 0] ∧
        ∀ slot, AtCrew s t r.core slot fun c c' => c'.fibres = c.fibres ∧ c'.reg0 = c.reg0 ∧
          c'.reg1 = c.reg1) ∧
    (∀ w rg d n, waiting u r (.sigFill g w rg d n) = [] →
      (∀ x ∈ l, (ringDecl s x.crew rg.toNat).isSome) →
      WritesNow (.sigFill g w rg d n) s r g d false fun _ k _ =>
        BitVec.ofNat 64 (ringFillOf (s.core r.core) k.tenant rg.toNat)) ∧
    (∀ w rg d n, waiting u r (.sigRoom g w rg d n) = [] →
      (∀ x ∈ l, (ringDecl s x.crew rg.toNat).isSome) →
      WritesNow (.sigRoom g w rg d n) s r g d false fun _ k _ =>
        (ringRoomOf s r.core k.tenant rg.toNat).setWidth 64) ∧
    (∀ i x w, ((∃ k, i = .gate g k) ∨ (∃ rg d n, i = .sigFill g true rg d n) ∨
        ∃ rg d n, i = .sigRoom g true rg d n) → Issues s r i → l = [x] →
      firstWait u r x i = some w →
      ∃ t k f, exec i s = .next t ∧ SameBytes s t ∧ t.crew? r.core x.slot = some k ∧
        k.fibres.get? x.lane = some f ∧ f.st = .blocked w ∧ f.pc = r.clause ∧ f.rpos = r.pos)

/-! ### Tables, registers, budgets and watchdogs (R316 to R362) -/

/-- R328, R388: `tbrd` and `sysrd` put the word of each active fibre in flight. -/
def Obligations.TableAndRegisterReads : Prop :=
  ∀ (s : State) (r : Run) (g : Guard) (d : Dst), r.Placed → sbFull s r = false →
    let l := activeLanes (touchRun s r) r g
    (∀ (n : BitVec 3) (a : Src) (word : LaneCtx → W64), Issues s r (.tbrd g n d a) →
      (∀ x ∈ l, tableRead s r.core x.slot x.crew n.toNat (srcVal x.crew r x.lane false a) =
        some (word x)) →
      Completes (.tbrd g n d a) s r 0 fun t => ∀ slot ∈ activeSlots l,
        InFlight s t r slot fun lanes => ∀ x ∈ l, x.slot = slot →
          lanes.get? x.lane = some (readyLane d 2 8 false (word x).toNat)) ∧
    (∀ (n : BitVec 16) (sel : BitVec 7), Issues s r (.sysrd g n sel d) →
      (∀ x ∈ l, sysTrap s r.core x.slot (regRow n) false sel = none) →
      let m := if (regRow n).wide then 2 else 1
      Completes (.sysrd g n sel d) s r 0 fun t => ∀ slot ∈ activeSlots l,
        InFlight s t r slot fun lanes => ∀ x ∈ l, x.slot = slot →
          lanes.get? x.lane = some (readyLane d m (4 * m) false
            (sysVal s r.core x.slot x.lane x.crew (regRow n).holder n.toNat
              (selOf (s.core r.core) sel)).toNat))

/-- R327, R329, R334, R359, R386 to R388, R390: the Keeper's held device writes. Where the
operands of every active fibre pass their checks, each has its own entry, and nothing else changes
until the clear. R390: the forms of `mig` by a Keeper whose place resolves, whose address is a
multiple of 4 KiB and whose state allows it: each active fibre has its own held entry. -/
def Obligations.KeeperCommands : Prop :=
  (∀ (s : State) (r : Run) (g : Guard) (a b : Src), r.Placed →
     let l := activeLanes (touchRun s r) r g
     let v := fun (x : LaneCtx) (w : Bool) (o : Src) => srcVal x.crew r x.lane w o
     let each := fun (home : Option Nat) (eff : LaneCtx → Effect) =>
       l.map fun x => (x.slot, home, eff x)
     (∀ x ∈ l, isKeeper x.slot = true) →
     (∀ n : BitVec 3, Issues s r (.tbwr g n a b) → 1 ≤ n.toNat → n.toNat ≤ 4 →
       (∀ x ∈ l, ixEntry (v x false a) < (tableSize n.toNat).1 ∧
         ixWord (v x false a) < (tableSize n.toNat).2 ∧ (n = 4 → ixWord (v x false a) = 3)) →
       Held (.tbwr g n a b) s r .device (each (if n = 1 then none else dieZero r.core) fun x =>
         .tbwr n.toNat (ixEntry (v x false a)) (ixWord (v x false a)) (v x true b))) ∧
     (Issues s r (.tbwrSwap g a b) →
       (∀ x ∈ l, ixEntry (v x false a) < 256 ∧ ixWord (v x false a) = 0 ∧
         ixEntry (v x false b) < 256 ∧ ixWord (v x false b) = 0) →
       Held (.tbwrSwap g a b) s r .device (each (dieZero r.core) fun x =>
         .tbswap (ixEntry (v x false a)) (ixEntry (v x false b)))) ∧
     (Issues s r (.ccreq g a b) → (∀ x ∈ l, zoneTrap x.slot (v x false a) = none ∧
         (v x false b).toNat ≤ 120) →
       Held (.ccreq g a b) s r .device (each (dieZero r.core) fun x =>
         .ccreq (fld (v x false a) 5 0) (fld (v x false a) 14 8) (v x false b).toNat)) ∧
     (Issues s r (.ccrel g a) → (∀ x ∈ l, zoneTrap x.slot (v x false a) = none) →
       Held (.ccrel g a) s r .device (each (dieZero r.core) fun x =>
         .ccrel (fld (v x false a) 5 0))) ∧
     (∀ i set mb, (i = .btopAdd g mb a b ∧ set = false ∨ i = .btopSet g mb a b ∧ set = true) →
       Issues s r i → (∀ x ∈ l, topTrap s x.slot (v x true a) = none) →
       Held i s r .device (each none fun x => .top set mb (fld (v x true a) 37 32)
         ((v x true a).setWidth 32) (v x true b))) ∧
     (∀ i act, (i = .eretRetry g a b ∧ act = 0 ∨ i = .eretNext g a b ∧ act = 1 ∨
         i = .eretCont g a b ∧ act = 2 ∨ i = .eretQuit g a b ∧ act = 3) → Issues s r i →
       (∀ x ∈ l, fld (v x false a) 31 5 = 0 ∧ (s.crew? r.core (fld (v x false a) 4 0)).isSome) →
       Held i s r .device (each none fun x =>
         .eret act (fld (v x false a) 4 0) (v x true b))) ∧
     (Issues s r (.haltLaunch g a) →
       (∀ x ∈ l, fld (v x false a) 31 6 = 0 ∧ (s.launch? (fld (v x false a) 5 0)).isSome) →
       Held (.haltLaunch g a) s r .device (each none fun x =>
         .halt (fld (v x false a) 5 0) 0 true)) ∧
     (∀ (n : BitVec 16) (sel : BitVec 7), Issues s r (.syswr g n sel a) →
       (∀ x ∈ l, sysTrap s r.core x.slot (regRow n) true sel = none) →
       Held (.syswr g n sel a) s r .device (each
         (if (regRow n).holder = .module then dieZero r.core else none) fun x =>
         .syswr n ((selOf (s.core r.core) sel).getD
           (if (regRow n).holder = .tenant then x.crew.tenant else x.slot))
           (v x (regRow n).wide a)))) ∧
  (∀ (s : State) (r : Run) (g : Guard) (a b : Src) (pl : PlaceOp), r.Placed →
     let l := activeLanes (touchRun s r) r g
     let v := fun (x : LaneCtx) (w : Bool) (o : Src) => srcVal x.crew r x.lane w o
     let each := fun (eff : LaneCtx → Effect) => l.map fun x => (x.slot, (none : Option Nat), eff x)
     (∀ x ∈ l, isKeeper x.slot = true) →
     (∀ (n c : Nat), Issues s r (.migMove g pl) →
       (∀ x ∈ l, placeResolve s r.core x.slot x.crew pl = .ok (n, c)) →
       moveBusy (s.core r.core) = false → moveBusy (s.core c) = false →
       Held (.migMove g pl) s r .device (each fun _ => .migMove n)) ∧
     (Issues s r (.migSave g a b) → (∀ x ∈ l, fld (v x true b) 11 0 = 0 ∧
         fld (v x false a) 31 5 = 0 ∧ (s.crew? r.core (fld (v x false a) 4 0)).isSome) →
       Held (.migSave g a b) s r .device (each fun x =>
         .migSave (fld (v x false a) 4 0) ((v x true b).setWidth 56))) ∧
     (∀ (n c : Nat), Issues s r (.migLoad g b pl) →
       (∀ x ∈ l, placeResolve s r.core x.slot x.crew pl = .ok (n, c) ∧ fld (v x true b) 11 0 = 0) →
       Held (.migLoad g b pl) s r .device (each fun x => .migLoad n ((v x true b).setWidth 56))) ∧
     (Issues s r (.migLsave g a b) → (∀ x ∈ l, fld (v x true b) 11 0 = 0 ∧
         fld (v x false a) 31 6 = 0 ∧ (s.launch? (fld (v x false a) 5 0)).isSome ∧
         launchResident s (fld (v x false a) 5 0) = false) →
       Held (.migLsave g a b) s r .device (each fun x =>
         .migLsave (fld (v x false a) 5 0) ((v x true b).setWidth 56))) ∧
     (Issues s r (.migLload g a b) → (∀ x ∈ l, fld (v x true b) 11 0 = 0 ∧
         fld (v x false a) 31 8 = 0) →
       Held (.migLload g a b) s r .device (each fun x =>
         .migLload (fld (v x false a) 1 0) (fld (v x false a) 4 2) (fld (v x false a) 7 5)
           ((v x true b).setWidth 56))))

/-- R342, R350, R353, R356, R357, R361: `bread`, `tick` and `pcr` give each active fibre the
budget, the cycle counter or the counter in a pair. R348, R349, R355: `tkt` by one active fibre.
From the counter of its launch it draws the lowest value that came back, or the next one; the
region holds the value, and the fibre receives it. The Keeper draws from TAKE a value whose record
is posted and not claimed, and 0xFFFF_FFFF otherwise. R358: `bgive` by one active fibre takes the
amount from its crew's budget and holds the gift until the clear. R360, R362: `wdog.set` and
`wdog.pet` start the crew's watchdog again, and `crsv` programs a counter, with the operand of the
lowest active fibre.
What a Keeper without a launch draws is the model's (log entries 6 and 26). -/
def Obligations.Counters : Prop :=
  (∀ (s : State) (r : Run) (g : Guard) (d : Dst),
     (∀ mb, WritesNow (.bread g mb d) s r g d true fun slot k _ =>
       if isKeeper slot then 0xFFFFFFFFFFFF else (if mb then k.mb else k.ib).setWidth 64) ∧
     WritesNow (.tick g d) s r g d true (fun _ _ _ => tickOf s.now (s.core r.core)) ∧
     (∀ k : BitVec 4, (k.toNat < 4 ∨ 8 ≤ k.toNat ∨ ∀ p ∈ r.fibres, isKeeper p.2 = true) →
       WritesNow (.pcr g k d) s r g d true fun _ c _ => counterVal (s.core r.core) c k.toNat)) ∧
  (∀ (s : State) (r : Run) (g : Guard) (n : BitVec 5) (d : Dst) (x : LaneCtx),
     Issues s r (.tkt g n d) → r.Placed → activeLanes (touchRun s r) r g = [x] →
     copyHold (touchRun s r) r [x] d 1 = none →
     let got := fun (t : State) (v : W32) (keep : List (Nat × BitVec 32)) =>
       ∃ k, t.crew? r.core x.slot = some k ∧ k.resv = x.crew.resv ++ keep ∧
         ∀ b, d = .reg b → regGet k b.toNat x.lane = v
     (∀ q, n.toNat < 16 → s.launch? x.crew.tenant = some q →
       let c := drawTicket (q.tk.getD n.toNat ⟨0, []⟩)
       Completes (.tkt g n d) s r 0 fun t => got t c.1 [(n.toNat, c.1)] ∧
         ((t.launch? x.crew.tenant).map fun q => q.tk.get? n.toNat) = some (some c.2)) ∧
     (n = 16 → isKeeper x.slot = true →
       let c := drawTicket s.mod.take
       (ticketFree s.mod c.1 = true → Completes (.tkt g n d) s r 0 fun t =>
         got t c.1 [(16, c.1)] ∧ t.mod = { s.mod with take := c.2 }) ∧
       (ticketFree s.mod c.1 = false → Completes (.tkt g n d) s r 0 fun t =>
         got t 0xFFFFFFFF [] ∧ t.mod = s.mod))) ∧
  (∀ (s : State) (r : Run) (g : Guard) (mb : Bool) (c a : Src) (x : LaneCtx) (q : Launch),
     Issues s r (.bgive g mb c a) → r.Placed → activeLanes (touchRun s r) r g = [x] →
     isKeeper x.slot = false → crewLaunch s x.crew = some q →
     let n := (srcVal x.crew r x.lane false c).setWidth 32
     let amt := srcVal x.crew r x.lane true a
     assigned q n = true → amt.toNat ≤ (if mb then x.crew.mb else x.crew.ib).toNat → LodgeFree s r 1 →
     Completes (.bgive g mb c a) s r 0 fun t =>
       Lodged s t r .device [(x.slot, none, .give mb n amt)] ∧
       ∃ k, t.crew? r.core x.slot = some k ∧
         (if mb then k.mb else k.ib) = (if mb then x.crew.mb else x.crew.ib) - amt.setWidth 48 ∧
         (if mb then k.ib else k.mb) = (if mb then x.crew.ib else x.crew.mb) ∧
         k.fibres = x.crew.fibres ∧ k.reg0 = x.crew.reg0 ∧ k.reg1 = x.crew.reg1) ∧
  (∀ (s : State) (r : Run) (g : Guard) (a : Src) (x : LaneCtx) (l : List LaneCtx), r.Placed →
     activeLanes (touchRun s r) r g = x :: l → (∀ y ∈ l, y.slot = x.slot) →
     let w := srcVal x.crew r x.lane false a
     (Issues s r (.wdogSet g a) → fld w 31 24 = 0 →
       Completes (.wdogSet g a) s r 0 fun t => ∃ k, t.crew? r.core x.slot = some k ∧
         k.wdLimit = w.setWidth 24 ∧ k.wdCount = 0 ∧ k.wdSaid = false ∧
         k.fibres = x.crew.fibres ∧ k.reg0 = x.crew.reg0 ∧ k.reg1 = x.crew.reg1) ∧
     (Issues s r (.wdogPet g) →
       Completes (.wdogPet g) s r 0 fun t => ∃ k, t.crew? r.core x.slot = some k ∧
         k.wdLimit = x.crew.wdLimit ∧ k.wdCount = 0 ∧ k.wdSaid = false ∧
         k.fibres = x.crew.fibres ∧ k.reg0 = x.crew.reg0 ∧ k.reg1 = x.crew.reg1) ∧
     (∀ n : BitVec 4, Issues s r (.crsv g n a) → fld w 30 10 = 0 → fld w 9 8 ≠ 3 → fld w 7 0 ≤ 16 →
       (isKeeper x.slot = false → n.toNat < 4 ∧ fld w 9 8 ≠ 2) →
       Completes (.crsv g n a) s r 0 fun t =>
         let p := fun (t : Tab PCtr) => (t.getD n.toNat ⟨0, 0⟩)
         (n.toNat < 4 → ∃ k, t.crew? r.core x.slot = some k ∧
           p k.pctrs = { sel := w.setWidth 32 &&& 0x3FF
                         val := if bit w 31 then 0 else (p x.crew.pctrs).val }) ∧
         (4 ≤ n.toNat → p (t.core r.core).kctrs =
           { sel := w.setWidth 32 &&& 0x3FF
             val := if bit w 31 then 0 else (p (s.core r.core).kctrs).val })))

/-! ### Traps, `halt` and privilege (R354, R363 to R367, R381, R385 to R387) -/

/-- R364, R381, R385: `trap`, and `brk` in an attached crew, take their trap: every active fibre
is trapped with the code, and its continuation is the clause after this one. `brk` in a crew that
is not attached has no effect. R387: `halt` of the launch by one crew holds the end of its launch
with the code of the crew's lowest active fibre, and its active fibres wait at the clause after
this one. -/
def Obligations.TrapsAndHalt : Prop :=
  (∀ (s : State) (r : Run) (g : Guard) (code : BitVec 16) (i : Instr) (cause : Cause), r.Placed →
     Issues s r i →
     ((i = .trap g code ∧ cause = .trap ∨ i = .brk g code ∧ cause = .break_) →
       (i = .brk g code → ∀ slot ∈ r.slots, ∀ k, s.crew? r.core slot = some k → bit k.dbg 7 = true) →
       ∃ t, exec i s = .next t ∧ SameBytes s t ∧ ∀ lane slot k x,
         s.crew? r.core slot = some k → k.fibres.get? lane = some x →
         ∃ k' x', t.crew? r.core slot = some k' ∧ k'.fibres.get? lane = some x' ∧
           (activeIn r g slot k lane = false → x' = x) ∧
           (activeIn r g slot k lane = true → x'.pc = nextClause r.clause r.hdr ∧ x'.rpos = x.rpos ∧
             ∃ v, x'.st = .trapped v ∧ v.cause = cause ∧ v.code = code ∧ v.clause = r.clause ∧
               v.pos = 0 ∧ v.next = nextClause r.clause r.hdr)) ∧
     (i = .brk g code → (∀ slot ∈ r.slots, ∀ k, s.crew? r.core slot = some k → bit k.dbg 7 = false) →
       Passes i s r (r.passed s 0))) ∧
  (∀ (s : State) (r : Run) (g : Guard) (a : Src) (x : LaneCtx) (l : List LaneCtx),
     Issues s r (.halt g a) → r.Placed → activeLanes (touchRun s r) r g = x :: l →
     (∀ y ∈ l, y.slot = x.slot) → LodgeFree s r 1 →
     ∃ t, exec (.halt g a) s = .next t ∧ SameBytes s t ∧
       Lodged s t r .device [(x.slot, none,
         .halt x.crew.tenant ((srcVal x.crew r x.lane false a).setWidth 16) false)] ∧
       ∃ k, t.crew? r.core x.slot = some k ∧ ∀ y ∈ x :: l, ∃ f, k.fibres.get? y.lane = some f ∧
         f.st = .blocked .halt ∧ f.pc = nextClause r.clause r.hdr)

/-- R115, R354, R384: a privileged form in crews that are not the Keeper's has no effect but this: every
active fibre takes PRIVILEGE at its position. -/
def Obligations.Privilege : Prop :=
  ∀ (s : State) (r : Run) (g : Guard) (i : Instr), r.Placed → Issues s r i →
    (∀ p ∈ r.fibres, isKeeper p.2 = false) →
    ((∃ n a b, i = .tbwr g n a b) ∨ (∃ a b, i = .tbwrSwap g a b) ∨ (∃ a b, i = .ccreq g a b) ∨
      (∃ a, i = .ccrel g a) ∨ (∃ mb a b, i = .btopAdd g mb a b ∨ i = .btopSet g mb a b) ∨
      i = .wdogBeat g ∨ (∃ a b, i = .eretRetry g a b ∨ i = .eretNext g a b ∨ i = .eretCont g a b ∨
        i = .eretQuit g a b) ∨ (∃ a, i = .haltLaunch g a) ∨ (∃ n v a, i = .syswr g n v a) ∨
      (∃ pl, i = .migMove g pl) ∨ (∃ a b, i = .migSave g a b ∨ i = .migLsave g a b ∨
        i = .migLload g a b) ∨ (∃ a pl, i = .migLoad g a pl) ∨ (∃ d, i = .tkt g 16 d) ∨
      (∃ (k : BitVec 4) (d : Dst) (a : Src), 4 ≤ k.toNat ∧ k.toNat < 8 ∧
        (i = .pcr g k d ∨ i = .crsv g k a)) ∨ (∃ sc m, i = .invTlb g sc m ∨
        i = .invIall g sc)) →
    ∃ t, exec i s = .next t ∧ SameBytes s t ∧
      (t.core r.core).lodge = (s.core r.core).lodge ∧ t.mod = s.mod ∧ t.dies = s.dies ∧
      ∀ lane slot k, s.crew? r.core slot = some k → activeIn r g slot k lane = true →
        TrappedHere t r lane slot .privilege

/-! ### Events of the matrix queue, the gangs and the engine -/

/-- R238, R241 to R243: the events of the matrix queue. A batch that waits takes a freed entry; an
entry that is ready, granted and free of faults and array errors runs with its results; at its end it leaves the
queue and writes them; a grant takes the oldest request that fits; a fill ends with its bytes in
the lines. R251 to R253: arrivals with one count and key form a gang that lists their slots; one
that waits beyond FECTL.GATHER takes GANG_TIMEOUT; and the latch releases one joint entry for all
crews of the gang. -/
def Obligations.MatrixAndGangEvents : Prop :=
  (∀ (s : State) (c : Nat),
     (∀ r, (s.core c).mq.length < 32 → OnlyHold s c .matrix r →
       Happens (.matrixQueueEntry c) s fun t =>
         t.runs = { r with hold := none, due := s.now } :: s.runs.erase r) ∧
     (∀ e rest p ps, (s.core c).mq = e :: rest → e.ends = none → e.crews = p :: ps →
       (isMma e = true → entryReady s c e = true ∧ entryFault s c e = none ∧ e.asked = true ∧
         e.units ≠ 0) → entryError s c e = (s, none) →
       Happens (.matrixEntryExecute c) s fun t => (t.core c).mq =
         { e with ends := some (s.now + entryTime s c e * clockDiv s c)
                  out := if isMma e then [(p.1, mmaOut s c e)] else e.out } :: rest) ∧
     (∀ e rest n slot w, (s.core c).mq = e :: rest → e.ends = some n → n ≤ s.now →
       e.crews = [(slot, w)] → Happens (.matrixEntryComplete c) s fun t => (t.core c).mq = rest ∧
         ∀ k, s.crew? c slot = some k → ∃ k', t.crew? c slot = some k' ∧
           (∀ l, isMma e = true → e.out = [(slot, l)] →
             k'.acc0 = (accWrite k (match e.instr with | .mmaz .. => false | _ => true) l).acc0 ∧
             k'.acc1 = (accWrite k (match e.instr with | .mmaz .. => false | _ => true) l).acc1) ∧
           (isMma e = false →
             let q := ardLand (accWrite k (match e.instr with | .aclr .. => false | _ => true)
               (smallOut k e w)) e w
             k'.acc0 = q.acc0 ∧ k'.acc1 = q.acc1 ∧ k'.flights = q.flights)) ∧
     (∀ q rest, (s.cluster c).curQ = q :: rest → currentFits (s.cluster c) q.units = true →
       Happens (.currentGrant c) s fun t => (t.cluster c).curQ = rest ∧
         (t.cluster c).curcap = setFld (s.cluster c).curcap 23 16
           (fld (s.cluster c).curcap 23 16 + q.units) ∧
         (q.who = 0 → ∀ e l, (s.core q.core).mq = e :: l →
           (t.core q.core).mq = { e with units := q.units } :: l)) ∧
     (∀ q rest, (s.cluster c).curQ = q :: rest → currentFits (s.cluster c) q.units = false →
       exec (.currentGrant c) s = .next s) ∧
     (∀ slot n rest k b m e, (s.core c).fills = (slot, n) :: rest → s.crew? c slot = some k →
       recState (recOf k n).desc ≠ 0 → (s.core c).fillEnd = some e → e ≤ s.now →
       fillBytes s c slot k (recOf k n) = .ok (b, m) →
       Happens (.operandFill c) s fun t => (t.core c).fills = rest ∧ (t.core c).fillEnd = none ∧
         (∃ k', t.crew? c slot = some k' ∧ recOf k' n =
           { recOf k n with desc := setBit (recOf k n).desc 19 true, fault := none }) ∧
         ∀ j, j < b.length →
           (t.core c).ob.getD (256 * (recOf k n).first + j) 0 = b.getD j 0) ∧
     (∀ slot n rest k e x, (s.core c).fills = (slot, n) :: rest → s.crew? c slot = some k →
       recState (recOf k n).desc ≠ 0 → (s.core c).fillEnd = some e → e ≤ s.now →
       fillBytes s c slot k (recOf k n) = .error x →
       Happens (.operandFill c) s fun t => (t.core c).fills = rest ∧
         ∃ k', t.crew? c slot = some k' ∧ recOf k' n = { recOf k n with fault := some x })) ∧
  (∀ (s : State) (c : Nat),
     (∀ l, gangMatch s c = some l → Happens (.gangForm c) s fun t =>
       let slots := l.foldl (fun t a => insertNat a.slot t) []
       (∀ a ∈ l, ∀ k, t.crew? c a.slot = some k → k.gang = gangWord slots) ∧
       (t.core c).gangQ = (s.core c).gangQ.filter fun a => !slots.contains a.slot) ∧
     (∀ a slot r, a ∈ (s.core c).gangQ → a.slot = slot → a.at_ + fld (s.core c).fectlNow 31 16 * clockDiv s c < s.now →
       (s.runs.find? fun r => r.core == c && r.fibres.any fun f => f.2 == slot) = some r →
       Happens (.gangTimeout c slot) s fun t => TrapsLive s t c slot .gangTimeout ∧
         ∀ b ∈ (t.core c).gangQ, b.slot ≠ slot) ∧
     (∀ a l k, (s.core c).latchQ.head? = some a → s.crew? c a.slot = some k → gangSlots k = l →
       (∀ x ∈ l, ∃ b ∈ (s.core c).latchQ, b.slot = x) →
       (∀ b ∈ (s.core c).latchQ, ∀ d ∈ (s.core c).latchQ, b.c = d.c) →
       latchReady s c l = true → (s.core c).mq.length < 32 →
       Happens (.jointLatchRelease c) s fun t =>
         (∃ e, (t.core c).mq = (s.core c).mq ++ [e] ∧ e.crews.map (·.1) = l ∧
           e.join.length = l.length ∧ e.ends = none) ∧
         (t.core c).latchQ = (s.core c).latchQ.filter fun a => !l.contains a.slot))

/-- R254, R255, R260, R262, R266: the events of copy contexts. A batch or a moved context takes a
free pool entry; a context asks for current, then moves chunk after chunk into the staging; its
release adds 1 at its flag; a fault puts it in fault wait or stops it, and the Keeper's answer
goes on with it or fails it. R261, R263, R269, R270: the events of streams and of the engine
staging. A load step stages one entry of its lanes' values, a ring step ends with the advance of
its counters, a fault stops a stream; and a unit that is due takes effect: bytes in memory, or an
entry in its queue. R271 to R273, R278: the events of the dependence graph. A node in state 2
whose count is 0 starts its copy, its launch or its signal; a node whose work is done lowers its
successors' counts, and one that is kept stands in state 4; a batch that waits takes a free table
entry.
How units cross to another die and the shape of a chunk are the model's readings (log entries 16 and
17). -/
def Obligations.EngineEvents : Prop :=
  (∀ (s : State) (c p : Nat) (x : Ctx),
     (∀ r, (freeKey (s.core c).ctxs 256).isSome → (∀ q ∈ (s.core c).ctxs.cells, q.1 < 256) →
       OnlyHold s c .context r → Happens (.contextAllocate c) s fun t =>
         t.runs = { r with hold := none, due := s.now } :: s.runs.erase r) ∧
     (∀ q, freeKey (s.core c).ctxs 256 = some p → p < 256 → 256 ≤ q →
       ((s.core c).ctxs.cells.filter fun y => decide (256 ≤ y.1)) = [(q, x)] →
       Happens (.contextAllocate c) s fun t => (t.core c).ctxs.get? p = some x ∧
         (t.core c).ctxs.get? q = none) ∧
     (nextCtx s c = some (p, x) → (s.core c).ctxs.get? p = some x →
       (x.asked = false → Happens (.engineChunk c) s fun t =>
         (t.core c).ctxs.get? p = some { x with asked := true } ∧
         let later := fun (q : CurReq) => q.at_ == s.now && decide (c < q.core)
         (t.cluster (clusterOf c)).curQ =
           ((s.cluster (clusterOf c)).curQ.filter fun q => !later q) ++
             { core := c, who := 2 + p, units := 1, at_ := s.now } ::
               (s.cluster (clusterOf c)).curQ.filter later) ∧
       (x.asked = true → x.acqDone = true → engWaits s c (ctxFor x) (chunkPages x) = none →
         let g := geomOf x.tensor x.desc
         let l := chunkBytes g x.next
         let es := dedup (l.map fun n => n / g.esize)
         ∀ u all, engMove c (ctxFor x) g.src.space g.dst.space g.esize
             (s.mapCore c fun co => { co with ctxTurn := p }) (es.map fun n =>
               ((g.src.base : Int) + g.offset g.sstr n, (g.dst.base : Int) + g.offset g.dstr n)) =
             (u, .ok all) →
           let names := (es.map fun n => (List.range g.esize).map fun i => n * g.esize + i).flatten
           let bs := ((names.zip all).filter fun q => l.contains q.1).map (·.2)
           Happens (.engineChunk c) s fun t => SameBytes u t ∧
             unitKinds t c = unitKinds u c ++ byteUnits u g.dst.space x.place bs ∧
             ∃ y, (t.core c).ctxs.get? p = some y ∧ y.next = x.next + l.length ∧
               y.state = x.state ∧ y.desc = x.desc)) ∧
     (∀ w, (s.core c).ctxs.get? p = some x →
       ((s.core c).units.find? fun u => u.owner == 0 && u.idx == p && u.kind == .release) = some w →
       unitDue s c w = true → ∀ u, engSignal (s.mapCore c fun co =>
           { co with units := co.units.filter fun v => v.id != w.id }) c (ctxFor x)
           (fld (wordOf x.desc 3) 55 0) (scopeOf (fld (wordOf x.desc 2) 51 49)) x.wsig x.wsatd =
           (u, .ok ()) →
       Happens (.copyRelease c p) s fun t => SameBytes u t) ∧
     ((s.core c).ctxs.get? p = some x → x.nw = false → x.node = none →
       (ownerOf (s.core c) x.who).isSome →
       (∀ e, x.cause = some e → x.state = 1 → Happens (.contextFault c false p) s fun t =>
         ∃ y, (t.core c).ctxs.get? p = some y ∧ y.cause = some e ∧
           y.state = if e = .translation then 3 else 4) ∧
       (x.state = 3 → x.next < (geomOf x.tensor x.desc).bytes →
         Happens (.contextResume c false p true) s fun t =>
           ∃ y, (t.core c).ctxs.get? p = some y ∧ y.state = 1 ∧ y.cause = none ∧ y.next = x.next) ∧
       (x.state = 3 → Happens (.contextResume c false p false) s fun t =>
         ∃ y, (t.core c).ctxs.get? p = some y ∧ y.state = 4 ∧ y.cause = x.cause))) ∧
  (∀ (s : State) (c p : Nat) (x : Stream), (s.core c).streams.get? p = some x →
     (∀ k q u vs, streamReady s c x = true → sourceOf (s.core c) x.who = some k →
       k.queues.get? x.q = some q → x.kind = 0 → q.out = false →
       queueRoom (s.core c) k x.q q = true → stagingRoom (s.core c) ≠ 0 →
       let lanes := lanesOf (footLanes k.foot) x.mask
       engWaits s c (streamFor x) (stepPages x lanes) = none →
       eachM (fun s l => engReads c (streamFor x) (progSpace x.prog) (progEsize x.prog) s
           ((fld (wordOf x.prog 0) 55 0 : Int) + progOffset x.prog x.next l)) s lanes =
         (u, .ok vs) →
       Happens (.streamStep c p) s fun t =>
         unitKinds t c = unitKinds u c ++ [.entry x.q ((lanes.zip vs).foldl (fun t v =>
           t.put v.1 (extend32 (bit (wordOf x.prog 0) 60) (progEsize x.prog) (ofBytes v.2))) .empty)] ∧
         ∃ y, (t.core c).streams.get? p = some y ∧ y.next = x.next + 1) ∧
     (∀ src dst, streamReady s c x = true → 2 ≤ x.kind → ringSides s c x = some (src, dst) →
       (((s.launch? x.who.1).bind fun l => l.rings.get? x.q).map (·.size)).getD 0 ≤ x.part →
       stagingRoom (s.core c) ≠ 0 → Happens (.ringStreamStep c p) s fun t =>
         unitKinds t c = unitKinds s c ++ [ringUnit x] ∧
         (t.core c).streams.get? p = some { x with next := x.next + 1, part := 0 }) ∧
     ((ownerOf (s.core c) x.who).isSome →
       (∀ e, x.cause = some e → x.state = 1 → Happens (.contextFault c true p) s fun t =>
         (t.core c).streams.get? p = some { x with state := if e = .translation then 3 else 4 }) ∧
       (x.state = 3 → x.next < (match x.stop with | some (n, _) => n | none => x.total) →
         Happens (.contextResume c true p true) s fun t =>
           (t.core c).streams.get? p = some { x with state := 1, cause := none }) ∧
       (x.state = 3 → Happens (.contextResume c true p false) s fun t =>
         (t.core c).streams.get? p = some { x with state := 4 })) ∧
     (∀ u, dueUnit s c = some u →
       (∀ place l o, u.kind = .bytes 0 place l o → u.home = none →
         Happens (.engineUnitRelease c) s fun t =>
           SameBytes (l.foldl (fun s p => homeStore s c p.1 [p.2]) s) t) ∧
       (∀ d, u.home = some d → unitAbsent s u = false → Happens (.engineUnitRelease c) s fun t =>
         SameBytes s t ∧ t.net.getD (c * 4 + d) [] =
           s.net.getD (c * 4 + d) [] ++ [Msg.unitClear u.id] ∧
         ∀ v ∈ (t.core c).units, v.id = u.id → v.told = true) ∧
       (∀ q vals slot k, u.kind = .entry q vals → u.home = none →
         slotOf (s.core c) (unitWho (s.core c) u) = some (slot, k) → s.crew? c slot = some k →
         Happens (.engineUnitRelease c) s fun t => ∃ k', t.crew? c slot = some k' ∧
           k'.scratch = (entryIn k q vals).scratch ∧ k'.queues = (entryIn k q vals).queues))) ∧
  (∀ (s : State) (c n : Nat) (x : Node),
     ((s.core c).nodes.get? n = some x → x.state = 2 → x.pred = 0 →
       (2 ≤ x.kind → stagingRoom (s.core c) ≠ 0 → Happens (.nodeStart c n) s fun t =>
         (t.core c).nodes.get? n = some { x with state := 3 } ∧ ∃ u,
           unitKinds t c = unitKinds s c ++ [u] ∧
           (x.kind = 2 → u = .launch ((wordOf x.payload 0).setWidth 56)) ∧
           (x.kind ≠ 2 → ∃ sig sat, u = .signal ((wordOf x.payload 0).setWidth 56)
             (fld (wordOf x.payload 1) 2 0) sig sat)) ∧
       (x.kind < 2 → ∀ k p idx, sourceOf (s.core c) x.who = some k →
         copyTrap s c (((slotOf (s.core c) x.who).map (·.1)).getD 0) k (decide (x.kind = 1)) x.payload
           ⟨0, 0, 0⟩ = none →
         freeKey (s.core c).ctxs 256 = some p → freeIdx (s.core c) x.who 0 = some idx →
         Happens (.nodeStart c n) s fun t =>
           (t.core c).nodes.get? n = some { x with state := 3, ctx := some p } ∧
           ∃ y, (t.core c).ctxs.get? p = some y ∧ y.desc = x.payload ∧ y.node = some n ∧
             y.state = 1 ∧ y.next = 0)) ∧
     ((s.core c).nodes.get? n = some x → x.state = 3 → x.fin = true → x.keep = true →
       ((s.core c).units.find? fun u => u.owner == 2 && u.idx == n) = none →
       (ownerOf (s.core c) x.who).isSome → n ∉ x.succ → x.succ.Nodup →
       (x.cause = none → Happens (.nodeComplete c n) s fun t =>
         (t.core c).nodes.get? n = some { x with state := 4, fin := false, ctx := none } ∧
         ∀ j y, j ≠ n → (s.core c).nodes.get? j = some y →
           (t.core c).nodes.get? j = some { y with pred := y.pred - if j ∈ x.succ then 1 else 0 }) ∧
       (∀ e, x.cause = some e → Happens (.nodeComplete c n) s fun t =>
         (t.core c).nodes.get? n = some { x with state := 5, fin := false } ∧
         ∀ j, j ≠ n → (t.core c).nodes.get? j = (s.core c).nodes.get? j)) ∧
     (∀ r, (freeKey (s.core c).nodes 512).isSome → OnlyHold s c .nodeTable r →
       Happens (.nodeTableEntry c) s fun t =>
         t.runs = { r with hold := none, due := s.now } :: s.runs.erase r))

/-! ### The queue unit, launches and placement (R34 to R54, R285 to R309) -/

/-- R285 to R287, R291: doorbells and walkers. A write of another size than 8 bytes, and one whose
key has no control block, take no queue; one that names a queue with packets brings it into the
walker queue; a walker slot reads a block again while its sequence is odd, and takes the queue
once it is even. R287, R288, R291, R298: a walker slot reads the packet at READ and acts on it by
its type, holds it at a barrier while a launch of the queue has not completed, or stops the queue
with a code; a held packet acts when the queue is free; and a launch packet that found the list
full is tried again. R287, R288, R291, R292, R295: what a packet does. A launch packet joins the
ticket list with the next number; a wait packet whose condition does not hold polls again 256 cc
later; a signal packet writes its word, or adds to it, at package scope; a reading that fails
stops the queue. -/
def Obligations.Packets : Prop :=
  (∀ (s : State),
     (∀ size w, size ≠ 8 → exec (.qdoorWrite size w) s = .next (wakeModule s)) ∧
     (∀ w, (wakeModule s).mod.cbhbase ≠ 0 → doorbellFind (wakeModule s) (fld w 63 32) = none →
       Happens (.qdoorWrite 8 w) s fun t => t.mod.missed = s.mod.missed + 1) ∧
     (∀ w cb, (wakeModule s).mod.cbhbase ≠ 0 →
       doorbellFind (wakeModule s) (fld w 63 32) = some cb →
       let u := wakeModule s
       cbSeq u cb % 2 = 0 → cbState u cb = 0 →
       (fld w 31 0 + 2 ^ 32 - cbReadIdx u cb) % 2 ^ 32 ≤ cbSize u cb →
       cbReadIdx (cbUpdate u cb [(3, setFld (cbWord u cb 3) 63 32 (fld w 31 0))]) cb ≠ fld w 31 0 →
       Happens (.qdoorWrite 8 w) s fun t =>
         cb ∈ t.mod.walkQ ∨ ∃ i x, (i, x) ∈ t.mod.walkers.cells ∧ x.cb = cb) ∧
     (∀ i cb due w p, s.mod.walkers.get? i = some { cb, st := .reread due w, packet := p } →
       due ≤ s.now →
       (cbSeq s cb % 2 = 1 → Happens (.controlBlockReread i) s fun t => t.mod.walkers.get? i =
         some { cb, st := .reread (s.now + 64) w, packet := p }) ∧
       (cbSeq s cb % 2 = 0 → w = none → Happens (.controlBlockReread i) s fun t =>
         t.mod.walkers.get? i = some { cb, st := .read, packet := p })) ∧
     (∀ cb rest i, s.mod.walkQ = cb :: rest →
       ((List.range 16).find? fun i => (s.mod.walkers.get? i).isNone) = some i →
       (cbSeq s cb % 2 = 1 → Happens .walkerSlotAssign s fun t => t.mod.walkQ = rest ∧
         t.mod.walkers.get? i = some { cb, st := .reread (s.now + 64) none, packet := [] }) ∧
       (cbSeq s cb % 2 = 0 → cbState s cb = 0 → cbReadIdx s cb ≠ cbWriteIdx s cb →
         Happens .walkerSlotAssign s fun t => t.mod.walkQ = rest ∧
           t.mod.walkers.get? i = some { cb, st := .read, packet := [] })) ∧
     (∀ cb, cbState s cb = 2 → cbTaken s cb = false → Happens (.pendingFaultServed cb) s fun t =>
       cb ∈ t.mod.walkQ ∨ ∃ i x, (i, x) ∈ t.mod.walkers.cells ∧ x.cb = cb)) ∧
  (∀ (s : State) (i cb : Nat) (p : List W64),
     (s.mod.walkers.get? i = some { cb, st := .read, packet := p } → cbSeq s cb % 2 = 0 →
       cbState s cb = 1 → cbReadIdx s cb ≠ cbWriteIdx s cb →
       let va := cbBase s cb + 64 * (cbReadIdx s cb % cbSize s cb)
       modAway s (cbPasid s cb) va = false →
       (∀ e, modWords (cbPasid s cb) 8 va s = .error e → Happens (.packetRead i) s fun t =>
         t.mod.walkers.get? i = none) ∧
       (∀ u ws, modWords (cbPasid s cb) 8 va s = .ok (u, ws) →
         (∀ code, packetBad ws = some code → Happens (.packetRead i) s fun t =>
           t.mod.walkers.get? i = none) ∧
         (packetBad ws = none →
           (pkBar ws = true → queueBusy u cb = true → Happens (.packetRead i) s fun t =>
             t.mod.walkers.get? i = some { cb, st := .barHeld, packet := ws }) ∧
           ((pkBar ws = false ∨ queueBusy u cb = false) → sigAway u cb ws = false →
             exec (.packetRead i) s = .next (packetAct u i cb ws))))) ∧
     (s.mod.walkers.get? i = some { cb, st := .barHeld, packet := p } → cbTaken s cb = false →
       queueBusy s cb = false → sigAway s cb p = false →
       exec (.packetBarRelease i) s = .next (packetAct s i cb p)) ∧
     (∀ due, s.mod.walkers.get? i = some { cb, st := .poll due, packet := p } → due ≤ s.now →
       cbTaken s cb = false → sigAway s cb p = false →
       exec (.waitPacketPoll i) s = .next (waitPacket s i cb p)) ∧
     (s.mod.walkers.get? i = some { cb, st := .full, packet := p } → cbTaken s cb = false →
       s.mod.tickets.length - s.mod.claimed.length < 256 → Happens (.launchPost i) s fun t =>
         ∃ x, t.mod.tickets = s.mod.tickets ++ [x] ∧ x.1 = s.mod.posted.toNat ∧ x.2.packet = p)) ∧
  (∀ (s : State) (i cb : Nat) (ws : List W64),
     (fld (ws.getD 0 0) 3 0 = 1 → cbTaken s cb = false →
       s.mod.tickets.length - s.mod.claimed.length < 256 →
       ∃ x, (packetAct s i cb ws).mod.tickets = s.mod.tickets ++ [x] ∧
         x.1 = s.mod.posted.toNat ∧ x.2.packet = ws ∧ x.2.cb = cb ∧ x.2.pasid = cbPasid s cb ∧
         (packetAct s i cb ws).mod.posted = s.mod.posted + 1) ∧
     (fld (ws.getD 0 0) 3 0 = 1 → 256 ≤ s.mod.tickets.length - s.mod.claimed.length →
       (packetAct s i cb ws).mod.walkers.get? i = some { cb, st := .full, packet := ws } ∧
         (packetAct s i cb ws).mod.tickets = s.mod.tickets) ∧
     (∀ u x, fld (ws.getD 0 0) 3 0 = 2 →
       modRead s (cbPasid s cb) (fld (ws.getD 1 0) 55 0) 8 = .ok (u, x) →
       condHolds (fld (ws.getD 3 0) 1 0) (ws.getD 2 0).toNat x = false →
       packetAct s i cb ws = setWalker u i { cb, st := .poll (s.now + 256), packet := ws }) ∧
     (∀ u pa leaf, fld (ws.getD 0 0) 3 0 = 3 →
       modXlate s (cbPasid s cb) true (fld (ws.getD 1 0) 55 0) = .ok (u, pa, leaf) →
       packetAct s i cb ws = packetTaken (modRelease u pa (fun w =>
         if bit (ws.getD 3 0) 0 then w + ws.getD 2 0 else ws.getD 2 0) (!bit (ws.getD 3 0) 0)) i cb))

/-- R293 to R297: the launch check takes the ticket: a launch that passes waits for an entry in
the order of posting; the oldest enters the lowest free entry of the active-launch table; and a
launch whose crews and engine work are done leaves it. R32, R35, R53, R295, R301: a core takes the
next crew of the launch posted first, or the child at the young end of its deque: the crew enters
the lowest free slot with every register zero and one fibre in every lane slot at its entry.
The places that a crew takes in a core are the model's (log entry 34). -/
def Obligations.Launches : Prop :=
  (∀ (s : State),
     (∀ c n p, (s.mod.tickets.find? fun q => q.1 == n) = some (n, p) → mayCheck s c n = true →
       cbTaken s p.cb = false →
       Happens (.launchCheck c n) s fun t => t.mod.tickets = s.mod.tickets.filter (fun q => q.1 != n) ∧
         t.mod.claimed = s.mod.claimed.filter (fun q => q != (c, n)) ∧
         ∀ l, launchChecks s p = .ok l → t.mod.pendIn =
           (s.mod.pendIn.filter fun x => decide (x.post.tno < n)) ++
             l :: s.mod.pendIn.filter fun x => decide (n < x.post.tno)) ∧
     (∀ l rest i, s.mod.pendIn = l :: rest →
       ((List.range 64).find? fun i => (s.launch? i).isNone) = some i →
       Happens .activeLaunchEntry s fun t => t.mod.pendIn = rest ∧ t.launch? i = some l ∧
         ∀ j, j ≠ i → t.launch? j = s.launch? j) ∧
     (∀ n, launchDone s n = true → (∀ l, s.launch? n = some l → cbTaken s l.post.cb = false ∧
         modAway s l.post.pasid (pkDone l.post.packet) = false) →
       Happens (.launchComplete n) s fun t => t.launch? n = none)) ∧
  (∀ (s : State) (c : Nat),
     (∀ a l p sp, nextCrew s c = some (a, l, p, sp) → s.launch? a = some l → l.grants = [] →
       Happens (.crewPlace c) s fun t =>
         (∃ q, t.launch? a = some q ∧ q.taken = l.taken + 1 ∧
           q.alive = l.alive ++ [BitVec.ofNat 32 l.taken]) ∧
         ∃ k, t.crew? c sp.slot = some k ∧ k.tenant = a ∧ k.number = BitVec.ofNat 32 l.taken ∧
           k.foot = l.foot ∧ k.ib = BitVec.ofNat 48 (fld (l.post.packet.getD 2 0) 47 0) ∧
           k.mb = BitVec.ofNat 48 (fld (l.post.packet.getD 3 0) 47 0) ∧ k.region = none ∧
           (∀ v lane, regGet k v lane = 0) ∧ ∀ lane, lane < footLanes l.foot →
             ∃ f, k.fibres.get? lane = some f ∧ f.pc = l.entry ∧ f.pred = 0) ∧
     (∀ l x p sp, nextChild s c = some (l, x, p, sp) → l.grants = [] →
       Happens (.dequeOwnerTake c) s fun t => (t.core c).deque = (s.core c).deque.dropLast ∧
         ∃ k, t.crew? c sp.slot = some k ∧ k.tenant = x.launch ∧ k.number = x.number ∧
           k.depth = x.depth ∧ k.ib = x.ib ∧ k.mb = x.mb ∧ k.sparg = x.sparg ∧
           ∀ lane, lane < footLanes l.foot → ∃ f, k.fibres.get? lane = some f ∧ f.pc = x.entry) ∧
     (dequeFree (s.core c) ≠ 0 → Happens (.dequeReserve c) s fun t => t.runs = s.runs ∧
       ∀ slot lane k f n, s.crew? c slot = some k → k.fibres.get? lane = some f →
         f.st = .blocked (.deque n) → n ≤ dequeFree (s.core c) →
         ∃ f', t.fibre? c slot lane = some f' ∧ f'.pc = f.pc ∧
           f'.st = if crewStopped s k then .stopped else .binned) ∧
     (droverReady s c = true → Happens (.droverProbe c) s fun t =>
       (t.core c).lfsr = lfsrNext (s.core c).lfsr))

/-- R43, R233: the compactions hold the crews they move at a clause boundary until they are still,
and then give them their new bases; the crews run on. R36, R37, R39: a bin becomes ready by its
age or its gather timer, and the oldest ready bin that may issue leaves the bins as a batch, which
waits for its clause where the instruction cache lacks it. R157, R158, R176: a line that arrives
is in the instruction cache; a demand whose fetch fails gives FETCH_FAULT to every fibre of the
batch that waited for it. -/
def Obligations.BinEvents : Prop :=
  (∀ (s : State) (c : Nat),
     (needsWindows s c = true →
       (∀ x ∈ movedCrews (s.core c), ∃ k, s.crew? c x = some k ∧ k.pause = true ∧ k.region = none ∧
         insideClause s c x = false) →
       Happens (.registerCompaction c) s fun t => ∀ x k k', s.crew? c x = some k →
         (movedWindows (s.core c)).crews.get? x = some k' → ∃ q, t.crew? c x = some q ∧
           q.base0 = k'.base0 ∧ q.base1 = k'.base1 ∧ q.reg0 = k'.reg0 ∧ q.reg1 = k'.reg1 ∧
           (x ∈ movedCrews (s.core c) → q.pause = false)) ∧
     (needsWindows s c = true →
       (∃ x ∈ movedCrews (s.core c), ∃ k, s.crew? c x = some k ∧ k.pause = false) →
       Happens (.registerCompaction c) s fun t => ∀ x ∈ movedCrews (s.core c),
         ∀ k, t.crew? c x = some k → k.pause = true) ∧
     (needsShares s c = true →
       (∀ x ∈ shareMovers (s.core c), ∃ k, s.crew? c x = some k ∧ k.pause = true ∧
         insideClause s c x = false ∧ inMatrixQueue (s.core c) x = false ∧
         ∀ p ∈ (s.core c).fills, p.1 ≠ x) →
       Happens (.operandBufferCompaction c) s fun t => (t.core c).ob = (movedShares (s.core c)).ob ∧
         ∀ x k', (movedShares (s.core c)).crews.get? x = some k' → ∃ q, t.crew? c x = some q ∧
           q.obase = k'.obase ∧ q.recs = k'.recs) ∧
     (needsShares s c = true →
       (∃ x ∈ shareMovers (s.core c), ∃ k, s.crew? c x = some k ∧ k.pause = false) →
       Happens (.operandBufferCompaction c) s fun t => ∀ x ∈ shareMovers (s.core c),
         ∀ k, t.crew? c x = some k → k.pause = true)) ∧
  (∀ (s : State) (c i : Nat) (b : Bin),
     ((s.core c).bins.get? i = some b → b.ready = false →
       (b.gather = false → b.born + fld (s.core c).fectlNow 7 0 * clockDiv s c ≤ s.now →
         Happens (.binAgeReady c i) s fun t =>
           (t.core c).bins.get? i = some { b with ready := true }) ∧
       (b.gather = true → fld (s.core c).fectlNow 31 16 * clockDiv s c ≤ b.gtime →
         Happens (.gatherTimeout c i) s fun t =>
           (t.core c).bins.get? i = some { b with ready := true, forced := true })) ∧
     (∀ u, settleWaits (wakeBlocked (drainWaits s c) c) c = u →
       (nextIssue u c = none → exec (.batchIssue c) s = .next u) ∧
       (∀ x, nextIssue u c = some x → x.wait = false → x.idx = i → (u.core c).bins.get? i = some b →
         (u.core c).binWait = [] →
         Happens (.batchIssue c) s fun t =>
           ∀ v l a, mayIssue (b.lanes.cells.foldl (fun s p => s.mapFibre c p.2 p.1 fun f =>
                 { f with st := .running })
               (u.mapCore c fun co => { co with bins := co.bins.del i })) c b.pc b.lanes.cells = (v, l) →
             l ≠ [] → fetchClause (v.core c) b.tenant b.pc = .missing a →
             (t.core c).bins.get? i = none ∧ (t.core c).fetches = (v.core c).fetches ++
               [{ tenant := b.tenant, pc := b.pc, rpos := b.rpos, fibres := l, partials := b.forced }]))) ∧
  (∀ (s v : State) (c line tenant : Nat) (demand : Bool),
     ((s.core c).ifills.find? fun f => unitKnown s (tenantTctx s f.2.1) (fillAsker c f.1 f.2.1)) =
       some (line, tenant, demand) →
     (icFill s c line tenant = .done v → (v.core c).fetches = [] →
       Happens (.instructionFillDone c) s fun t => SameBytes v t ∧
         (t.core c).icache = (v.core c).icache ∧
         (t.core c).ifills = (v.core c).ifills.erase (line, tenant, demand)) ∧
     (∀ sub f a, icFill s c line tenant = .failed v sub → demand = true → (v.core c).fetches = [f] →
       fetchClause (v.core c) f.tenant f.pc = .missing a → f.tenant = tenant → a / 256 = line →
       Happens (.instructionFillDone c) s fun t => ∀ lane slot x, (lane, slot) ∈ f.fibres →
         v.fibre? c slot lane = some x → ∃ x' w, t.fibre? c slot lane = some x' ∧
           x'.st = .trapped w ∧ w.cause = .fetchFault ∧ w.sub = BitVec.ofNat 8 sub ∧
           w.data = BitVec.ofNat 64 a ∧ w.clause = f.pc))

/-! ### The front end (R36 to R56, R66, R114, R130, R158, R423) -/

/-- R48, R207, R210, R423: a clause whose turn it is to open a region opens it for its crew, with
the sequence raised and the commit bit of its header, and begins. R114, R127, R129: at the end of
a clause the fibres that quit are gone, and every other fibre of the batch stands at its
continuation: what a branch gave it, or the clause that follows. R66, R102: a result that is ready
lands in the registers of its lanes, the counter falls, and no other register changes. R130: a
rendezvous that is due writes its results, and its fibres go on at the clause after theirs. -/
def Obligations.ClauseEvents : Prop :=
  (∀ (s u v : State) (c i : Nat) (w : WaitB) (l m : List (Nat × Nat)) (lane slot : Nat) (k : Crew)
     (quiet : Bool), openTurn s c i quiet = true → popWait s c i = some (u, w, l) →
     l.head? = some (lane, slot) →
     firstBlocks u (runFor c w.clause w.hdr w.words w.rpos u.now l) true = (v, m) → m ≠ [] →
     v.crew? c slot = some k →
     Happens (if quiet then .quietRegionOpen c i else .regionOpenAtIssue c i) s fun t =>
       (∃ k' g, t.crew? c slot = some k' ∧ k'.rseq = k.rseq + 1 ∧ k'.region = some g ∧
         g.head = w.clause ∧ g.commit = hdrCommit w.hdr ∧ k'.dirty = 0 ∧ k'.adirty = 0) ∧
       ∃ r, t.runs = v.runs ++ [r] ∧ r.core = c ∧ r.clause = w.clause ∧ r.words = w.words ∧
         r.pos = w.rpos ∧ r.fibres = m) ∧
  (∀ (s : State) (r : Run) (rest : List Run), s.runs = r :: rest → r.words.length ≤ r.pos →
     r.hold = none → r.due ≤ s.now → Happens .clauseEnd s fun t => t.runs = rest ∧
       ∀ lane slot k f, s.crew? r.core slot = some k → k.fibres.get? lane = some f →
         (lane, slot) ∈ r.fibres →
         ((lane, slot) ∉ r.quits → ∃ k' f', t.crew? r.core slot = some k' ∧
           k'.fibres.get? lane = some f' ∧ f'.pred = f.pred ∧
           f'.pc = r.conts.getD lane (nextClause r.clause r.hdr)) ∧
         ((lane, slot) ∈ r.quits → (∀ p ∈ k.fibres.cells, p.1 = lane → p.2.st = .quitting) →
           ∃ k', t.crew? r.core slot = some k' ∧ k'.fibres.get? lane = none)) ∧
  (∀ (s : State) (c slot : Nat) (k : Crew), s.crew? c slot = some k →
     (∀ id f, (k.flights.find? fun f => f.id == id && f.ready) = some f →
       (f.lanes.cells.map (·.1)).Nodup →
       (∀ p ∈ f.lanes.cells, p.1 < 64 ∧ p.2.reg + p.2.n ≤ 256 ∧ p.2.dead = []) →
       Happens (.resultWriteback c slot id) s fun t => ∃ k', t.crew? c slot = some k' ∧
         k'.sb.getD f.sbi 0 = k.sb.getD f.sbi 0 - 1 ∧
         k'.flights = k.flights.filter (fun x => x.id != id) ∧
         (∀ lane x j, (lane, x) ∈ f.lanes.cells → j < x.n →
           regGet k' (x.reg + j) lane = (splitRegs x.n (loadValue x)).getD j 0) ∧
         ∀ v lane, v < 256 → lane < 64 → (∀ x, (lane, x) ∈ f.lanes.cells →
           v < x.reg ∨ x.reg + x.n ≤ v) → regGet k' v lane = regGet k v lane) ∧
     (∀ i v n, k.rdvs[i]? = some v → v.done = some n → n ≤ s.now →
       Happens (.rendezvousComplete c slot i) s fun t => ∃ k', t.crew? c slot = some k' ∧
         k'.rdvs = k.rdvs.eraseIdx i ∧
         k'.reg0 = ((rdvResults k v).foldl rdvWrite k).reg0 ∧
         k'.reg1 = ((rdvResults k v).foldl rdvWrite k).reg1 ∧
         ∀ lane f, lane ∈ v.arrived.cells.map (·.1) → k.fibres.get? lane = some f →
           f.st = .blocked .rendezvous → ∃ f', k'.fibres.get? lane = some f' ∧ f'.pc = v.next ∧
             f'.st ≠ .blocked .rendezvous))

/-! ### Barriers (R50 to R52, R134, R135) -/

/-- R51, R52: arrivals and departures go up one level at a time and are combined at the top; the release takes the
episode's arrivals, raises the episode, clears the bit of every fibre that waits for it and lets it
go on.
The reading of releases is in log entry 50. -/
def Obligations.BarrierEvents : Prop :=
  ∀ (s : State) (n g level unit : Nat) (l : Launch), s.launch? n = some l → unit < 1024 →
    let up := if level ≤ 1 then unit / 8 else 0
    let a := l.bup.getD (barKey g level unit) 0
    let d := l.bdep.getD (barKey g level unit) 0
    (a ≠ 0 → unitFull s n g level unit l = true →
      Happens (.barrierArrivalMessage n g level unit) s fun t => ∃ l', t.launch? n = some l' ∧
        l'.bup.getD (barKey g level unit) 0 = 0 ∧
        (l.top ≤ level + 1 → ∀ x, l.groups.get? g = some x →
          l'.groups.get? g = some { x with arrived := x.arrived + a }) ∧
        (level + 1 < l.top →
          l'.bup.getD (barKey g (level + 1) up) 0 =
            l.bup.getD (barKey g (level + 1) up) 0 + a)) ∧
    (d ≠ 0 → Happens (.barrierDeparture n g level unit) s fun t => ∃ l', t.launch? n = some l' ∧
        l'.bdep.getD (barKey g level unit) 0 = 0 ∧
        (l.top ≤ level + 1 → ∀ x, l.groups.get? g = some x →
          l'.groups.get? g = some { x with departed := x.departed + BitVec.ofNat 32 d }) ∧
        (level + 1 < l.top →
          l'.bdep.getD (barKey g (level + 1) up) 0 =
            l.bdep.getD (barKey g (level + 1) up) 0 + d)) ∧
    (∀ x, l.groups.get? g = some x → x.arrived ≠ 0 → x.members ≤ x.arrived + x.departed.toNat →
      Happens (.barrierRelease n g) s fun t =>
        (∃ l', t.launch? n = some l' ∧
          l'.groups.get? g = some { x with arrived := 0, episode := x.episode + 1 }) ∧
        ∀ c slot k i, s.crew? c slot = some k → k.tenant = n → groupIdx k g = some i →
          (barOf k g).sent = (barOf k g).released + 1 →
          ∃ k', t.crew? c slot = some k' ∧ (barOf k' g).released = (barOf k g).released + 1 ∧
            ∀ lane f, k.fibres.get? lane = some f → f.st = .blocked (.barrier g) →
              ∃ f', k'.fibres.get? lane = some f' ∧ f'.st ≠ .blocked (.barrier g) ∧
                bit f'.arr i = false ∧ f'.pc = f.pc)

/-! ### Writes of the system registers (R388) -/

/-- R40, R90, R164, R206, R213, R243: a write of FECTL, TRMODE, L2QUOTA, QWIN, QSTORM and CURCAP
takes the fields that are writable, in the register of its core or cluster and nowhere else, but that a
region whose close point is still to come loads the new window there (R208); a
word that the register's rule refuses changes nothing. R330, R332, R351, R366, R375, R379, R380,
R382, R388: the other system registers. COOLCTL, HBCTL, THCTL and ESCTL refuse a whole word that
breaks a limit; a 1 clears a bit of TBLSTAT.CODE; TRAPPOP takes the head record away and sets LOST
to 0; DBGCTL takes bits 7 to 4; DBGKILL takes a register out of every write-back in flight to a
held crew, and has no effect on another but code 1 in TBLSTAT; CBHBASE, SYSSEL and TCTX take the
word. -/
def Obligations.SystemRegisterWrites : Prop :=
  (∀ (s : State) (c : Nat) (w : W64),
     (64 ≤ fld w 31 16 → 4 ≤ fld w 7 0 → Happens (.fectlWrite c w) s fun t =>
       OneCore s t c fun a b => { b with fectl := a.fectl } = a ∧
         fld b.fectl 31 16 = fld w 31 16 ∧ fld b.fectl 7 0 = fld w 7 0) ∧
     (fld w 31 16 < 64 ∨ fld w 7 0 < 4 → exec (.fectlWrite c w) s = .next s) ∧
     (bit w 0 = true → Happens (.trmodeWrite c w) s fun t =>
       OneCore s t c fun a b => { b with trmode := a.trmode } = a ∧ bit b.trmode 0 = false ∧
         ∀ i, i ≠ 0 → bit b.trmode i = bit a.trmode i) ∧
     (bit w 0 = false → exec (.trmodeWrite c w) s = .next s) ∧
     ((∀ j, j < 4 → 1 ≤ fld w (5 * j + 4) (5 * j) ∧ fld w (5 * j + 4) (5 * j) ≤ 16) →
       Happens (.l2quotaWrite c w) s fun t => OneCluster s t (clusterOf c) fun a b =>
         { b with quota := a.quota } = a ∧
           ∀ j, j < 4 → fld b.quota (5 * j + 4) (5 * j) = fld w (5 * j + 4) (5 * j)) ∧
     (∀ j, j < 4 → fld w (5 * j + 4) (5 * j) = 0 ∨ 16 < fld w (5 * j + 4) (5 * j) →
       exec (.l2quotaWrite c w) s = .next s) ∧
     (fld (s.core c).qwin 31 16 ≤ fld w 15 0 → Happens (.qwinWrite c w) s fun t =>
       OneCore s t c fun a b => { b with qwin := a.qwin, crews := a.crews } = a ∧
         FieldFrom a.qwin b.qwin w 15 0 ∧ b.crews = a.crews.mapKV fun _ (k : Crew) =>
           { k with region := k.region.map fun g =>
              if s.now < g.close then { g with win := fld w 15 0 } else g }) ∧
     (fld w 15 0 < fld (s.core c).qwin 31 16 → exec (.qwinWrite c w) s = .next s) ∧
     (fld w 39 32 ≠ 0 → Happens (.qstormWrite c w) s fun t =>
       OneCore s t c fun a b => { b with qstorm := a.qstorm } = a ∧
         FieldFrom a.qstorm b.qstorm w 39 32) ∧
     (fld w 39 32 = 0 → exec (.qstormWrite c w) s = .next s) ∧
     (12 ≤ fld w 7 0 → Happens (.curcapWrite c w) s fun t => OneCluster s t (clusterOf c) fun a b =>
       { b with curcap := a.curcap } = a ∧ FieldFrom a.curcap b.curcap w 7 0) ∧
     (fld w 7 0 < 12 → exec (.curcapWrite c w) s = .next s)) ∧
  (∀ (s : State) (c : Nat) (w : W64),
     (5 ≤ fld w 47 40 → fld w 47 40 ≤ 40 → 50 ≤ fld w 39 32 → fld w 39 32 ≤ 95 →
       10 ≤ fld w 31 24 → fld w 31 24 ≤ 60 → 640 ≤ fld w 12 0 → fld w 12 0 ≤ 4500 →
       grantSum s.mod ≤ fld w 12 0 →
       (∀ z, z < 64 → zState (zoneOfMod s.mod z) ≠ 4 →
         fld w 31 24 ≤ zGrant (zoneOfMod s.mod z) + zReq (zoneOfMod s.mod z)) →
       Happens (.coolctlWrite c w) s fun t => OneMod s t fun a b =>
         { b with coolctl := a.coolctl } = a ∧ fld b.coolctl 47 24 = fld w 47 24 ∧
           fld b.coolctl 12 0 = fld w 12 0) ∧
     (fld w 47 40 < 5 ∨ 40 < fld w 47 40 ∨ fld w 39 32 < 50 ∨ 95 < fld w 39 32 ∨
       fld w 31 24 < 10 ∨ 60 < fld w 31 24 ∨ fld w 12 0 < 640 ∨ 4500 < fld w 12 0 ∨
       fld w 12 0 < grantSum s.mod → exec (.coolctlWrite c w) s = .next s) ∧
     (10 ≤ fld w 31 16 → Happens (.hbctlWrite c w) s fun t => OneCore s t c fun a b =>
       { b with hbctl := a.hbctl } = a ∧ fld b.hbctl 31 16 = fld w 31 16 ∧
         fld b.hbctl 1 0 = fld w 1 0) ∧
     (fld w 31 16 < 10 → exec (.hbctlWrite c w) s = .next s) ∧
     (60 ≤ fld w 31 24 → fld w 31 24 < fld w 39 32 → fld w 39 32 < fld w 47 40 →
       fld w 47 40 < fld w 55 48 → fld w 55 48 ≤ 125 → 1 ≤ fld w 15 0 →
       Happens (.thctlWrite c w) s fun t => OneCore s t c fun a b =>
         { b with thctl := a.thctl } = a ∧ fld b.thctl 55 24 = fld w 55 24 ∧
           fld b.thctl 15 0 = fld w 15 0 ∧ fld b.thctl 63 56 = fld a.thctl 63 56 ∧
           fld b.thctl 19 16 = fld a.thctl 19 16) ∧
     (fld w 31 24 < 60 ∨ fld w 39 32 ≤ fld w 31 24 ∨ fld w 47 40 ≤ fld w 39 32 ∨ fld w 55 48 ≤ fld w 47 40 ∨
       125 < fld w 55 48 ∨ fld w 15 0 = 0 → exec (.thctlWrite c w) s = .next s) ∧
     (fld w 63 56 = 0 → inDeviceMemory (fld w 63 34 * 2 ^ 30) = true →
       Happens (.esctlWrite c w) s fun t => OneMod s t fun a b =>
         { b with esctl := a.esctl } = a ∧ FieldFrom a.esctl b.esctl w 63 34) ∧
     (inDeviceMemory (fld w 63 34 * 2 ^ 30) = false → exec (.esctlWrite c w) s = .next s) ∧
     Happens (.tblstatClear c w) s (fun t => OneCore s t c fun a b =>
       { b with tblstat := a.tblstat } = a ∧
         (∀ i, i < 8 → bit b.tblstat i = (bit a.tblstat i && !bit w i)) ∧
         ∀ i, 8 ≤ i → bit b.tblstat i = bit a.tblstat i) ∧
     Happens (.trappopWrite c) s (fun t => OneCore s t c fun a b =>
       { b with traps := a.traps, trapWait := a.trapWait, lost := a.lost } = a ∧ b.lost = 0 ∧
         (a.trapWait = [] ∨ 64 ≤ a.traps.tail.length → b.traps = a.traps.tail ∧
           b.trapWait = a.trapWait) ∧
         (∀ x r, a.trapWait = x :: r → a.traps.tail.length < 64 →
           b.traps = recInsert x a.traps.tail ∧ b.trapWait = r)) ∧
     (∀ slot k, s.crew? c slot = some k →
       Happens (.dbgctlWrite c slot w) s (fun t => SameBytes s t ∧
         ∃ k', t.crew? c slot = some k' ∧ FieldFrom k.dbg k'.dbg w 7 4) ∧
       (dbgHeld k = true → Happens (.dbgkillWrite c slot w) s fun t => SameBytes s t ∧
         ∃ k', t.crew? c slot = some k' ∧ k'.reg0 = k.reg0 ∧ k'.reg1 = k.reg1 ∧
           ∀ f ∈ k'.flights, ∀ l ∈ f.lanes.vals, l.reg ≤ fld w 7 0 → fld w 7 0 < l.reg + l.n →
             fld w 7 0 ∈ l.dead) ∧
       (dbgHeld k = false → Happens (.dbgkillWrite c slot w) s fun t =>
         OneCore s t c fun a b => { b with tblstat := a.tblstat } = a ∧ fld b.tblstat 7 0 = 1)) ∧
     Happens (.systemRegisterWrite c 0x56 0 w) s (fun t => OneMod s t fun a b =>
       { b with cbhbase := a.cbhbase } = a ∧ b.cbhbase = w) ∧
     Happens (.systemRegisterWrite c 0x5A 0 w) s (fun t => OneCore s t c fun a b =>
       { b with syssel := a.syssel } = a ∧ fld b.syssel 7 0 = fld w 7 0) ∧
     (∀ l x, l ≠ Config.noTenant → s.launch? l = some x →
       Happens (.systemRegisterWrite c 0x43 l w) s fun t => ∃ x', t.launch? l = some x' ∧
         tctxPasid x'.tctx = tctxPasid w ∧ tctxRoot x'.tctx = tctxRoot w))

/-! ### Sensor reports and regions that clear (R208 to R216) -/

/-- R211, R212, R213, R264: a report of a sensor that is on squashes every unit of its cores that is not
released and every uncleared region, and each crew of one stands as its checkpoint: its registers,
accumulators, fibres and counters, with no entry of the region in the lodge; it counts towards
QSTORM and goes on 8 cc later. R216: a report of a Pass sensor acts so on the cores with uncleared
entries on the link. R49, R211: the continuations then enter the bins anew, and those at
the head issue it within the region that it opened.
What a restart keeps is in part the model's reading (log entry 31), and so is the vale of a link
(log entry 41). -/
def Obligations.SensorReports : Prop :=
  ∀ (s : State) (sensor : Nat),
    (sensorOn s sensor = false → exec (.sensorReport sensor) s = .next s ∧
      exec (.passSensorReport sensor) s = .next s) ∧
    (∀ (c slot : Nat) (k : Crew) (g : Region), sensorOn s sensor = true → sensor < 1664 →
      c ∈ sensorCores sensor → (s.core c).reportAt ≠ s.now + 1 →
      ((s.core c).crews.cells.map (·.1)).Nodup → s.crew? c slot = some k → k.region = some g →
      Happens (.sensorReport sensor) s fun t =>
        (t.core c).reportAt = s.now + 1 ∧ (∀ u ∈ (t.core c).units, u.told = true) ∧
        (∀ e ∈ (t.core c).lodge, e.slot = slot → e.rseq = k.rseq → e.cleared = true) ∧
        ∃ k' g', t.crew? c slot = some k' ∧ k'.region = some g' ∧ g'.head = g.head ∧
          g'.again = 1 ∧ k'.storms = k.storms + 1 ∧ k'.restartAt = s.now + 8 * clockDiv s c ∧
          (fld (s.core c).qstorm 39 32 ≤ k'.storms → k'.pendC ≠ none) ∧
          k'.cur = k.cur ^^^ k.dirty ∧ k'.dirty = 0 ∧ k'.reg0 = k.reg0 ∧ k'.reg1 = k.reg1 ∧
          k'.acur = k.acur ^^^ k.adirty ∧ k'.adirty = 0 ∧ k'.ib = g.ck.ib ∧ k'.mb = g.ck.mb ∧
          k'.cont = g.ck.cont ∧ k'.flights = [] ∧ k'.rdvs = g.ck.rdvs ∧
          ∀ lane f, g.ck.fibres.get? lane = some f → ∃ f', k'.fibres.get? lane = some f' ∧
            f'.pc = f.pc ∧ f'.rpos = f.rpos ∧ f'.pred = f.pred ∧ f'.arr = f.arr) ∧
    (∀ c, sensorOn s sensor = true → 1664 ≤ sensor → sensor < 1696 →
      c ∈ linkVale s ((sensor - 1664) / 8) → Happens (.passSensorReport sensor) s fun t =>
        (t.core c).reportAt = s.now + 1) ∧
    ∀ (c slot : Nat) (k : Crew) (g : Region), s.crew? c slot = some k → k.region = some g →
      reissueReady s k = true → Happens (.restartReissue c slot) s fun t =>
        ∃ k' g', t.crew? c slot = some k' ∧ k'.region = some g' ∧ g'.again = 0 ∧ g'.head = g.head ∧
          g'.redo = redoLanes g k ∧
          ∀ lane f, k.fibres.get? lane = some f → f.st = .stopped → ∃ f',
            k'.fibres.get? lane = some f' ∧ f'.pc = f.pc ∧ f'.rpos = f.rpos ∧ f'.st = .binned

/-- R208, R209, R253: where its window is out, a region clears, linked ones together: its entries
may act, the crew has no region, and its count of restarts is 0; linked regions wait for one
another. R177, R209, R187: else the core releases its next entry, with the other part of its store, and
both leave the lodge; the bytes of a
store then stand at their home; one of another die sends its clear message behind what the core
sent before. R160: the batch of a core that has waited longest for lodge entries is served once
they are free; after 16 times QWIN its crews restart with the pressure flag, and one that has it
already takes LODGE_OVERFLOW at its head.
One clear message for each entry is the model's reading (log entry 41). -/
def Obligations.LodgeEvents : Prop :=
  (∀ (s : State) (c slot : Nat), (∀ x k, x ∈ clearSet s c slot → clearDue s c slot = true →
       s.crew? c x = some k →
       Happens (if (clearSet s c slot).length = 1 then .regionClear c slot
         else .linkedRegionClear c slot) s fun t =>
         (∀ k', t.crew? c x = some k' → k'.region = none ∧ k'.storms = 0 ∧ k'.taken = [] ∧
           k'.reserve = [] ∧ k'.clearedAt = s.now + 1) ∧
         (k.ended = false → (t.crew? c x).isSome) ∧
         ∀ e ∈ (t.core c).lodge, e.slot = x → e.rseq = k.rseq → e.cleared = true) ∧
     (clearDue s c slot = false → exec (.linkedRegionClear c slot) s = .next s) ∧
     ∀ e : LEntry, clearDue s c slot = false → releasable s c = some e →
       releaseTurn s c (withMate (s.core c) e).length = true →
       ((∀ m ∈ withMate (s.core c) e, m.kind = .store ∧ m.eff = .bytes) →
         Happens (.regionClear c slot) s fun t => ∀ m ∈ withMate (s.core c) e, m.home = none →
           ∀ x ∈ (t.core c).lodge, x.id ≠ m.id) ∧
       (e.kind = .store → e.eff = .bytes → e.home = none → e.mate = none →
         Happens (.regionClear c slot) s fun t =>
         (HomesPlain s → zoneOf (64 * e.sector) = .device → e.attr = 1 →
           (∀ k, ∀ x ∈ (s.cluster k).l2, x.line ≠ e.sector / 4) →
           (∀ p ∈ entryBytes e, homeGet t p.1 = p.2) ∧
           ∀ a, (∀ p ∈ entryBytes e, canonPa s a ≠ p.1) → homeGet t a = homeGet s a)) ∧
       (∀ d, e.home = some d → e.mate = none → Happens (.regionClear c slot) s fun t => SameBytes s t ∧
         ∃ l, t.net.getD (c * 4 + d) [] =
           s.net.getD (c * 4 + d) [] ++ Msg.clear e.slot e.rseq e.id :: l)) ∧
  (∀ (s : State) (c : Nat) (r : Run), lodgeWaiter s c = some r →
     (lodgeTaken s c s.runs + lodgeNeed r ≤ 1024 → Happens (.lodgeGrant c) s fun t =>
       SameBytes s t ∧ t.cores = s.cores ∧ ∃ x ∈ t.runs, x.hold = none ∧ x.due = s.now ∧
         x.core = c ∧ x.clause = r.clause ∧ x.pos = r.pos ∧ x.fibres = r.fibres) ∧
     (1024 < lodgeTaken s c s.runs + lodgeNeed r → exec (.lodgeGrant c) s = .next s) ∧
     (s.now < r.asked + 16 * fld (s.core c).qwin 15 0 * clockDiv s c →
       exec (.lodgeStallBreak c) s = .next s) ∧
     (r.asked + 16 * fld (s.core c).qwin 15 0 * clockDiv s c ≤ s.now →
       ∀ slot k, slot ∈ r.slots → s.crew? c slot = some k →
         Happens (.lodgeStallBreak c) s fun t => ∃ k', t.crew? c slot = some k' ∧
           k'.pressure = true ∧ (k.pressure = true → k'.pendC ≠ none ∧ k'.stopAll = true) ∧
           ∀ g, k.region = some g → ∃ g', k'.region = some g' ∧ g'.head = g.head ∧ g'.again = 1 ∧
             k'.cur = k.cur ^^^ k.dirty))

/-- R28, R161, R187, R188, R214, R263: an entry homed on another die is held in the staging of its home,
which keeps at most 2048; one whose code is bad is sent again; what finds it full waits in the lodge and
crosses later. An engine unit does
the same, waiting in the engine's staging, and acts when its own clear message arrives. The clear
message of a region lets its staged entries act, in order; the squash message takes them away; an
acknowledged entry whose clear message has gone is free; a released access acts when it arrives.
R174: the oldest miss of a cluster is served; what the walk finds is in the TLB of every core that asked for the
page and may access it, and the batches that waited try again. R186: the data of a load has
come: its flight is ready, with every byte that it awaited.
That a unit's release has a clear message of its own is the model's reading (log entry 16). -/
def Obligations.MessagesAndWalks : Prop :=
  (∀ (s s1 : State) (c d : Nat) (m : Msg), (netHead s c d = some (m, s1) →
       (∀ e u x, m = .entry e → readSites s1 c none (· == .link c e.id) = (u, some x) →
         exec (.stagingArrival c d) s = .next (netSend (u.heal (· == x)) c d (.entry e))) ∧
       (∀ e, m = .entry e → readSites s1 c none (· == .link c e.id) = (s1, none) →
         clearedBefore (s1.die d) c e = false →
         Happens (.stagingArrival c d) s fun t => SameBytes s t ∧
           ((∀ x ∈ (s.die d).staging, x.core = c → x.e.id ≠ e.id) →
             (dieFull (s.die d) = false →
               (t.die d).staging = (s.die d).staging ++ [{ core := c, e := e }]) ∧
             (dieFull (s.die d) = true → (t.die d).staging = (s.die d).staging ∧
               ∀ x ∈ (s.core c).lodge, x.id = e.id → { x with back := true } ∈ (t.core c).lodge)) ∧
           ((∃ x ∈ (s.die d).staging, x.core = c ∧ x.e.id = e.id) →
             (t.die d).staging.length = (s.die d).staging.length)) ∧
       (∀ slot rseq upTo, m = .clear slot rseq upTo →
         (∀ e ∈ stagedFor (s1.die d) c slot rseq upTo,
           lodgeReady s1 c { e with home := none, fence := [] } = true) →
         Happens (.clearMessage c d) s fun t => ∀ x ∈ (t.die d).staging, x.core = c →
           x.e.slot = slot → x.e.rseq = rseq → upTo < x.e.id) ∧
       (∀ slot rseq, m = .squash slot rseq → Happens (.squashMessage c d) s fun t =>
         SameBytes s t ∧ (t.die d).staging = (s.die d).staging.filter fun y =>
           !(y.core == c && y.e.slot == slot && y.e.rseq == rseq)) ∧
       (∀ id u, m = .unit_ id → heldUnit s1 c id = some u →
         (dieFull (s1.die d) = false → Happens (.stagingArrival c d) s fun t => SameBytes s t ∧
           (t.die d).units = (s.die d).units ++ [(c, id)]) ∧
         (dieFull (s1.die d) = true → Happens (.stagingArrival c d) s fun t => SameBytes s t ∧
           (t.die d).units = (s.die d).units ∧
           ∀ v ∈ (t.core c).units, v.id = id → v.back = true)) ∧
       (∀ id u, m = .unitClear id →
         ((s1.core c).units.find? fun v => v.id == id && v.told) = some u → unitHeld s1 u = false →
         exec (.clearMessage c d) s = .next (unitActs s1 c u)) ∧
       (∀ e, m = .access e → exec (.homeAccessArrival c d) s = .next (effectNow s1 c e))) ∧
     (∀ e, ((s.core c).lodge.find? fun e => e.home == some d && e.back) = some e →
       (dieFull (s.die d) = false → Happens (.stagingSpaceFree c d) s fun t =>
         t.net.getD (c * 4 + d) [] =
           s.net.getD (c * 4 + d) [] ++ [Msg.entry { e with back := false }]) ∧
       (dieFull (s.die d) = true → exec (.stagingSpaceFree c d) s = .next s)) ∧
     ∀ id e, ((s.core c).lodge.find? fun e => e.id == id && !e.acked) = some e → e.home = some d →
       ((s.die d).staging.any fun x => x.core == c && x.e.id == id) = true →
       Happens (.stagingAck c id) s fun t => SameBytes s t ∧ ∀ x ∈ (t.core c).lodge,
         (x.id = id → x.acked = true) ∧ ¬ (x.home.isSome = true ∧ x.told = true ∧ x.acked = true)) ∧
  (∀ (s : State) (c d id : Nat) (u : Unit_),
     ((s.core c).lodge.find? fun e => e.id == id && !e.acked) = none → heldUnit s c id = some u →
       u.home = some d → (c, id) ∈ (s.die d).units → Happens (.stagingAck c id) s fun t =>
         SameBytes s t ∧ ∀ v ∈ (t.core c).units, v.id = id → v.acked = true) ∧
  (∀ (s : State),
     (∀ k m rest, (s.cluster k).misses = m :: rest → Happens (.translationWalk k) s fun t =>
       (t.cluster k).misses = rest ∧ (∀ r ∈ t.runs, clusterOf r.core = k → r.hold ≠ some .walk) ∧
       ∀ u leaf seen, u = s.mapCluster k (fun cl => { cl with misses := rest }) →
         walk u k m.pasid m.root m.va = .ok (leaf, seen) →
         ∀ a ∈ m.askers, askFails (.ok leaf) a = none →
           ∃ e ∈ (t.core a.core).tlb, e.covers m.pasid m.va = true) ∧
     ∀ c slot id reply k f, s.crew? c slot = some k →
       (k.flights.find? fun f => f.id == id && awaitsData f) = some f →
       (dataFree s c slot f = true → Happens (.loadDataReturn c slot id reply) s fun t =>
         ∃ k', t.crew? c slot = some k' ∧ k'.reg0 = k.reg0 ∧ k'.reg1 = k.reg1 ∧
           k'.fibres = k.fibres ∧ k'.flights.map (·.id) = k.flights.map (·.id) ∧
           ∀ x ∈ k'.flights, x.id = id → x.ready = true ∧ ∀ l ∈ x.lanes.vals, l.req = none) ∧
       (dataFree s c slot f = false → exec (.loadDataReturn c slot id reply) s = .next s))

/-! ### Traps delivered, budgets, beats and watchdogs (R345, R351, R352, R363 to R367) -/

/-- R364, R365, R367: the next trap of a core is delivered: its record enters the queue of the Keeper, which
asks the host for the page of a TRANSLATION trap and holds a crew that took BREAK or STEP; a kind C trap is taken by
every live fibre of the crew, at the head. R366, R406: the host's answer stands in the request's RES, and a
page that it serves lets every fibre go on that waits for it.
Where a kind C trap resumes is the model's reading (log entry 47), and the dispositions follow at
once (log entry 44). -/
def Obligations.TrapDelivery : Prop :=
  ∀ (s : State) (c : Nat), ((s.core c).crews.cells.map (·.1)).Nodup →
    (∀ slot k lane x, ((s.core c).crews.cells.find? fun p => stormDue s p.2) = none →
      ((s.core c).crews.cells.findSome? fun p => (nextDelivery p.2).map fun q => (p.1, q)) =
        some (slot, lane, x) → s.crew? c slot = some k → isKeeper slot = false →
      x.cause = .translation ∨ x.cause = .break_ ∨ x.cause = .step →
      Happens (.trapDelivery c) s fun t =>
        ((s.core c).traps.length < 64 → trapRecord s.now slot lane x ∈ (t.core c).traps) ∧
        (x.cause = .translation → (t.core c).prqBusy = true) ∧
        ∃ k' f y, t.crew? c slot = some k' ∧ k'.fibres.get? lane = some f ∧
          f.st = .trapped y ∧ y.delivered = true ∧ (x.cause ≠ .translation → dbgHeld k' = true)) ∧
    (∀ slot k, ((s.core c).crews.cells.find? fun p => stormDue s p.2) = some (slot, k) →
      k.pendC = some .lodgeOverflow → attached k = true → isKeeper slot = false →
      Happens (.trapDelivery c) s fun t => TrapsLive s t c slot .lodgeOverflow ∧
        ∃ k', t.crew? c slot = some k' ∧ k'.pendC = none ∧ dbgHeld k' = true) ∧
    (((s.core c).prqBusy = false ∨ linkUp s = false) → ∀ res,
      exec (.pageRequestResult c res) s = .next s) ∧
    ((s.core c).prqBusy = true → linkUp s = true →
      (∀ res, Happens (.pageRequestResult c res) s fun t => (t.core c).prqRes = match res with
        | .success => 0 | .invalid => 1 | .failure => 2 | .noResponse => 3) ∧
      Happens (.pageRequestResult c .success) s fun t => ∀ slot k lane f, lane < 64 →
        s.crew? c slot = some k → isKeeper slot = false → k.fibres.get? lane = some f →
        wantsPage s slot k (s.core c).prqReq f = true → ∃ k' f', t.crew? c slot = some k' ∧
          k'.fibres.get? lane = some f' ∧ isTrapped f' = false)

/-- R345: a crew that yields goes, between clauses, to its continuation with every fibre that is
not trapped; with its last region cleared the yield is complete and the Keeper has the report;
with both budgets non-zero it goes on in a region opened as a head does. R352: a watchdog whose
count has reached its limit is reported once. R351, R341: a heartbeat period that ends without a
beat counts one, a beat sets the count back, and the second one in a row halts and captures the
core: no place names it any more.
Readings of the counts are in log entries 29, 30 and 45. -/
def Obligations.KeeperWatch : Prop :=
  (∀ (s : State) (c slot : Nat) (k : Crew), s.crew? c slot = some k →
     (k.yield = .entering → insideClause s c slot = false →
       Happens (.budgetYieldEnter c slot) s fun t => SameBytes s t ∧ ∃ k', t.crew? c slot = some k' ∧
         ((k.region.any fun g => g.again == 0) = true → k'.yield = .waiting) ∧
         ((k.region.any fun g => g.again == 0) = false → k'.yield = .complete ∧ k'.region = none ∧
           ((s.core c).traps.length < 64 → ∃ x ∈ (t.core c).traps, x.cause = .budgetYield ∧
             x.slot = slot)) ∧
         ∀ lane f, k.fibres.get? lane = some f → isTrapped f = false → ∃ f',
           k'.fibres.get? lane = some f' ∧ f'.pc = k.cont.setWidth 56 ∧ f'.st = .stopped) ∧
     (k.yield ≠ .entering ∨ insideClause s c slot = true →
       exec (.budgetYieldEnter c slot) s = .next s) ∧
     (k.yield = .complete → k.ib ≠ 0 → k.mb ≠ 0 → Happens (.budgetYieldLeave c slot) s fun t =>
       SameBytes s t ∧ ∃ k', t.crew? c slot = some k' ∧ k'.yield = .none ∧ k'.opening = 2) ∧
     (k.yield ≠ .complete ∨ k.ib = 0 ∨ k.mb = 0 →
       exec (.budgetYieldLeave c slot) s = .next s) ∧
     (k.wdLimit ≠ 0 → k.wdCount = k.wdLimit → k.wdSaid = false → k.wdPast = false → bit (s.core c).hbctl 1 = true →
       Happens (.watchdog c slot) s fun t => SameBytes s t ∧
         ((s.core c).traps.length < 64 → ∃ x ∈ (t.core c).traps, x.cause = .watchdog ∧
           x.slot = slot) ∧ ∃ k', t.crew? c slot = some k' ∧ k'.wdSaid = true) ∧
     (k.wdLimit = 0 ∨ k.wdCount ≠ k.wdLimit ∨ k.wdSaid = true ∨ k.wdPast = true ∨
       bit (s.core c).hbctl 1 = false →
       exec (.watchdog c slot) s = .next s)) ∧
  (∀ (s : State) (c : Nat),
     let co := s.core c
     let quiet := co.beatSeen || !bit co.hbctl 0 || co.halted || !s.mod.keepers
     (co.captured = true ∨ usOf s.now < co.beatAt + fld co.hbctl 31 16 →
       exec (.heartbeatMissed c) s = .next s) ∧
     (co.captured = false → co.beatAt + fld co.hbctl 31 16 ≤ usOf s.now →
       (quiet = true → Happens (.heartbeatMissed c) s fun t => OneCore s t c fun _ b =>
         b.beats = 0 ∧ b.beatSeen = false ∧ b.captured = false ∧ b.beatAt = usOf s.now) ∧
       (quiet = false → co.beats = 0 → Happens (.heartbeatMissed c) s fun t =>
         OneCore s t c fun _ b => b.beats = 1 ∧ b.captured = false) ∧
       (quiet = false → co.beats ≠ 0 → Happens (.heartbeatMissed c) s fun t =>
         (t.core c).captured = true ∧ (t.core c).halted = true ∧
           ∀ n, NamesNot t n c)))

/-! ### Heat and coolant (R331 to R337, R375, R376, R422) -/

/-- R375, R376: a temperature sample stands in THCTL.TEMP; a threshold that is armed and reached
acts once: THROT makes the core slow, SAVE starts the emergency save, TRIP cuts the rail, and each
before TRIP is reported; a sample below every armed threshold does nothing else. R331, R335, R422:
a reading of a zone stands in its entry. R335: a zone whose flow stays below the limit for 10 ms,
or whose temperature rises by too much for 1 ms, sets its flag and is reported; gas sets its flag
and starts the evacuation of a zone in RUN, or starts it again. R337: the steps of an evacuation.
Step 1 ends when the zone has no heat, with its valve closed, and gas changes nothing in it; 20 ms later
its cores are off; steps
3 to 5 take 1, 500 and 50 ms, and the valve opens over the last of these; step 6 watches 200 ms, then the zone comes up, or closes for another
try, or after the third has failed: it has no flow and no place.
What a coolant report names and which Keeper takes it are the model's (log entry 46); readings of
the evacuation rules are in log entry 58. -/
def Obligations.HeatAndCoolant : Prop :=
  (∀ (s : State) (c : Nat) (temp : BitVec 8),
     let co := s.core c
     Happens (.thermalSample c temp) s fun t =>
       fld (t.core c).thctl 63 56 = temp.toNat ∧ fld (t.core c).thctl 55 24 = fld co.thctl 55 24 ∧
       fld (t.core c).thctl 15 0 = fld co.thctl 15 0 ∧
       (bit co.armed 0 = true → threshold co.thctl 0 ≤ temp.toNat → co.traps.length + 3 < 64 →
         ∃ x ∈ (t.core c).traps, x.cause = .thermalMigrate) ∧
       (bit co.armed 1 = true → threshold co.thctl 1 ≤ temp.toNat → (t.core c).slow = true ∧
         (co.traps.length + 3 < 64 → ∃ x ∈ (t.core c).traps, x.cause = .thermalThrottle)) ∧
       (bit co.armed 2 = true → threshold co.thctl 2 ≤ temp.toNat → t.mod.saving = true) ∧
       (bit co.armed 3 = true → threshold co.thctl 3 ≤ temp.toNat → t.mod.railCut = true ∧
         (c < 256 → (t.core c).halted = true)) ∧
       ((∀ i, i < 4 → temp.toNat < threshold co.thctl i) → OneCore s t c fun a b =>
         { b with thctl := a.thctl, armed := a.armed, slow := a.slow } = a)) ∧
  (∀ (s : State) (z : Nat),
     let x := zoneOfMod s.mod z
     let d := dieKeeper s (z / 16)
     let told := fun (t : State) (cause : Cause) =>
       (s.core d).traps.length < 64 → ∃ y ∈ (t.core d).traps, y.cause = cause ∧ y.sub = BitVec.ofNat 8 z
     (∀ at_, usEnds s = true → lowFlow s.mod x = true → bit x.w3 0 = false → x.lowAt = some at_ →
       at_ + 10000 ≤ usOf s.now → Happens (.coolantLowFlow z) s fun t =>
         bit (zoneOfMod t.mod z).w3 0 = true ∧ told t .lowFlow) ∧
     (usEnds s = false ∨ lowFlow s.mod x = false ∨ bit x.w3 0 = true ∨ x.lowAt = none →
       exec (.coolantLowFlow z) s = .next s) ∧
     (∀ at_, usEnds s = true → highDt s.mod x = true → bit x.w3 1 = false → x.hotAt = some at_ →
       at_ + 1000 ≤ usOf s.now → Happens (.coolantHighDt z) s fun t =>
         bit (zoneOfMod t.mod z).w3 1 = true ∧ told t .highDt) ∧
     (usEnds s = false ∨ highDt s.mod x = false ∨ bit x.w3 1 = true ∨ x.hotAt = none →
       exec (.coolantHighDt z) s = .next s) ∧
     (zStep x = 1 → exec (.coolantGas z) s = .next s) ∧
     (zStep x ≠ 1 → Happens (.coolantGas z) s fun t =>
       let y := zoneOfMod t.mod z
       bit y.w3 2 = true ∧ (bit x.w3 2 = false → told t .gas) ∧
       (zState x = 1 → zState y = 2 ∧ zStep y = 1 ∧ bit y.w3 7 = true) ∧
       (zState x ≠ 1 → 2 ≤ zStep x → zStep x ≤ 6 → zStep y = 2 ∧ zState y = 2 ∧
         fld y.w1 55 48 = 0)) ∧
     ∀ flow tin tout, Happens (.flowMeasure z flow tin tout) s fun t => OneMod s t fun a b =>
       { b with zones := a.zones, modcool := a.modcool } = a ∧
       (∀ v, v ≠ z → zoneOfMod b v = zoneOfMod a v) ∧
       let y := zoneOfMod b z
       y.w0 = x.w0 ∧ y.w3 = x.w3 ∧ fld y.w1 15 0 = flow.toNat ∧ fld y.w2 31 16 = tin.toNat ∧
       fld y.w2 47 32 = tout.toNat ∧ (zState x ≠ 1 → fld y.w1 55 48 = fld x.w1 55 48) ∧
       y.lowAt = x.lowAt ∧ y.hotAt = x.hotAt) ∧
  (∀ (s : State) (z : Nat),
     let x := zoneOfMod s.mod z
     let over_ := fun (n : Nat) => x.stepAt + n ≤ usOf s.now
     let goes := fun (st step : Nat) (P : State → Zone → Prop) =>
       Happens (.evacuationStep z) s fun t => P t (zoneOfMod t.mod z) ∧
         zState (zoneOfMod t.mod z) = st ∧ zStep (zoneOfMod t.mod z) = step
     (zStep x = 1 → zHeat x = 0 → goes 2 2 fun _ y => fld y.w1 55 48 = 0) ∧
     (zStep x = 1 → zHeat x ≠ 0 → goes (zState x) 1 fun _ _ => True) ∧
     (zStep x = 2 → over_ 20000 → goes 3 3 fun t _ => ∀ c ∈ zoneCores z, (t.core c).halted = true) ∧
     (zStep x = 3 → over_ 1000 → goes 3 4 fun _ _ => True) ∧
     (zStep x = 4 → over_ 500000 → goes 3 5 fun _ y => y.gasNow = false) ∧
     (zStep x = 5 → over_ 50000 → goes 3 6 fun _ y => y.gasNow = false ∧
       fld y.w1 55 48 = (rampEnd z x).toNat) ∧
     (zStep x = 5 → ¬ over_ 50000 → goes (zState x) 5 fun _ y => fld x.w1 55 48 ≤ fld y.w1 55 48 ∧
       fld y.w1 55 48 ≤ max (fld x.w1 55 48) (rampEnd z x).toNat) ∧
     (zStep x = 6 → over_ 200000 →
       (x.gasNow = false → flowBelow x 90 = false → goes 2 7 fun t _ =>
         ∀ c ∈ zoneCores z, ∃ p ∈ t.mod.stagger, p.2 = c) ∧
       (x.gasNow = true ∨ flowBelow x 90 = true →
         (zTries x < 2 → goes 2 2 fun _ y => zTries y = zTries x + 1 ∧ fld y.w1 55 48 = 0) ∧
         (2 ≤ zTries x → goes 4 0 fun t y => zGrant y = 0 ∧
           ∀ n, ∀ c ∈ zoneCores z, NamesNot t n c))) ∧
     ((zStep x = 2 ∧ ¬ over_ 20000) ∨ (zStep x = 3 ∧ ¬ over_ 1000) ∨ (zStep x = 4 ∧ ¬ over_ 500000) ∨
       (zStep x = 6 ∧ ¬ over_ 200000) ∨ zStep x = 0 ∨ zStep x = 7 →
       exec (.evacuationStep z) s = .next s))

/-! ### Moves and saves (R300, R369, R377 to R379) -/

/-- R377: a crew of a core that moves is forced at its clause boundary once its time is over: its
fibres go to the continuation. R35: with both cores at rest the records are written, every crew stands
in the lowest slot that was free on the other core, and the places are exchanged. R378, R379: a core that is
signalled stops, has nothing uncleared, and its completion word is 0; once everything released has
applied it writes its records, then its completion word, and is counted. R369: a wakeable crew is
restored from its record. R300: a crew that gives way is saved by a request of its Keeper.
The layout gaps of records and what moves with a crew are the model's (log entries 48 and 49). -/
def Obligations.MovesAndSaves : Prop :=
  (∀ (s : State) (c : Nat),
     (∀ slot k, s.crew? c slot = some k →
       (∀ at_, k.move = some at_ → at_ ≤ s.now → k.still = false → insideClause s c slot = false →
         Happens (.moveForce c slot) s fun t => SameBytes s t ∧ ∃ k', t.crew? c slot = some k' ∧
           k'.still = true ∧ ∀ lane f, k.fibres.get? lane = some f → isTrapped f = false → ∃ f',
             k'.fibres.get? lane = some f' ∧ f'.pc = k.cont.setWidth 56 ∧ f'.st = .stopped) ∧
       (k.move = none ∨ k.still = true ∨ insideClause s c slot = true →
         exec (.moveForce c slot) s = .next s)) ∧
     (∀ o at_ n m, (s.core c).moving = some (o, at_) → o ≠ c → readyToSwap s c = true →
       readyToSwap s o = true → coreOfPlace? s c = some n → coreOfPlace? s o = some m →
       (guests (s.core c)).length ≤ Config.keeperSlot →
       (guests (s.core o)).length ≤ Config.keeperSlot →
       Happens (.moveTransfer c) s fun t =>
         t.mod.places.getD n 0 = s.mod.places.getD m 0 &&& 0x80FF ∧
         t.mod.places.getD m 0 = s.mod.places.getD n 0 &&& 0x80FF ∧
         (t.core c).moving = none ∧ (t.core o).moving = none ∧
         ((guests (t.core c)).map fun p => (p.1, crewId p.2)) =
           (guests (s.core o)).zipIdx.map (fun p => (p.2, crewId p.1.2)) ∧
         ((guests (t.core o)).map fun p => (p.1, crewId p.2)) =
           (guests (s.core c)).zipIdx.map fun p => (p.2, crewId p.1.2)) ∧
     ((s.core c).moving = none → exec (.moveTransfer c) s = .next s) ∧
     (∀ o at_, (s.core c).moving = some (o, at_) → readyToSwap s c = false →
       exec (.moveTransfer c) s = .next s)) ∧
  (∀ (s : State) (c : Nat),
     ((s.core c).saveSeq = none → exec (.emergencySave c) s = .next s) ∧
     (∀ seq, (s.core c).saveSeq = some seq →
       ((s.core c).halted = false → HomesPlain s → Happens (.emergencySave c) s fun t =>
         (t.core c).halted = true ∧ (∀ u ∈ (t.core c).units, u.told = true) ∧
         ∀ i, i < 8 → homeGet t (completionAt s c + i) = 0) ∧
       ((s.core c).halted = true → (s.core c).lodge = [] → (s.core c).units = [] →
         netBusy s c = false → completionAt s c + 8 ≤ 0x10000000000 → HomesPlain s →
         Happens (.emergencySave c) s fun t => (t.core c).saveSeq = none ∧
           (t.core c).tickStop.isSome = true ∧ fld t.mod.esctl 33 25 = (fld s.mod.esctl 33 25 + 1) % 512 ∧
           homeWord t (completionAt s c) 8 = (doneWord seq).toNat)) ∧
     (∀ i e p, (s.core c).evicted[i]? = some e → coreOfPlace? s c = some p →
       (wakeable s c e = true → s.mod.keepers = true →
         exec (.wakeableRestore c i) s = .next (loadCrew s p e.addr.toNat).1) ∧
       (wakeable s c e = false → exec (.wakeableRestore c i) s = .next s)) ∧
     (givesWay s c = none → exec (.dependantEviction c) s = .next s) ∧
     ∀ slot k, givesWay s c = some (slot, k) →
       (∀ pa, MigReq.save slot pa ∉ (s.core c).migs) → Happens (.dependantEviction c) s fun t =>
         ∃ pa, (t.core c).migs = (s.core c).migs ++ [.save slot pa])

/-! ### The links and messages (R403 to R410) -/

/-- R405: HOSTSTAT follows the link, a change signals the host, and a link that comes up lets the
batches go on that waited; 1 s without it starts the emergency save. R406: a page request is taken
unless one is under way. R408: a port that trains stands in CVCFG unless BIST names it; CVCFG
takes its fields only with no launch active. R410: a write of MSGTX takes the message from memory
unless one is in flight; STATUS then tells what became of it, and only a delivered one has gone
out. A message that comes stands at NEXT of the ring, and NEXT advances; with no ring, or a full
one, it is refused. -/
def Obligations.LinksAndMessages : Prop :=
  (∀ (s : State),
     (∀ up speed width, Happens (.cxlLinkChange up speed width) s fun t => SameBytes s t ∧
       fld t.mod.hoststat 0 0 = up.toNat ∧
       (up = true → fld t.mod.hoststat 7 4 = speed.toNat ∧ fld t.mod.hoststat 15 8 = width.toNat ∧
         t.mod.linkDown = none ∧ ∀ r ∈ t.runs, r.hold ≠ some .remote) ∧
       (up = false → t.mod.linkDown.isSome = true) ∧
       t.mod.msi = s.mod.msi + (if t.mod.hoststat = s.mod.hoststat then 0 else 1)) ∧
     (∀ t0, s.mod.linkDown = some t0 → t0 + 1000000 ≤ usOf s.now →
       Happens .cxlLinkDownTimeout s fun t => t.mod.saving = true) ∧
     (s.mod.linkDown = none → exec .cxlLinkDownTimeout s = .next s) ∧
     (∀ c w, ((s.core c).prqBusy = true → exec (.prqWrite c w) s = .next s) ∧
       ((s.core c).prqBusy = false → Happens (.prqWrite c w) s fun t => OneCore s t c fun a b =>
         { b with prqBusy := a.prqBusy, prqReq := a.prqReq, prqAt := a.prqAt } = a ∧
           b.prqBusy = true ∧ b.prqReq = w)) ∧
     (∀ port up, (port < 16 → Happens (.caravanPortTrain port up) s fun t => OneMod s t fun a b =>
         { b with cvcfg := a.cvcfg } = a ∧
         bit b.cvcfg port = (up && !a.bistFailed.contains (BitVec.ofNat 16 (0x5000 + port))) ∧
         ∀ i, i ≠ port → bit b.cvcfg i = bit a.cvcfg i) ∧
       (16 ≤ port → exec (.caravanPortTrain port up) s = .next s)) ∧
     ∀ w, (s.mod.launches.cells = [] → Happens (.cvcfgWrite w) s fun t => OneMod s t fun a b =>
         { b with cvcfg := a.cvcfg } = a ∧ fld b.cvcfg 57 48 = fld w 57 48 ∧
         fld b.cvcfg 41 32 = fld w 41 32 ∧ fld b.cvcfg 31 0 = fld a.cvcfg 31 0) ∧
       (s.mod.launches.cells ≠ [] → exec (.cvcfgWrite w) s = .next s)) ∧
  (∀ (s : State),
     (∀ w, (fld s.mod.msgtx 1 0 = 1 → exec (.msgtxWrite w) s = .next s) ∧
       (fld s.mod.msgtx 1 0 ≠ 1 → Happens (.msgtxWrite w) s fun t => SameBytes s t ∧
         fld t.mod.msgtx 1 0 = 1 ∧ fld t.mod.msgtx 63 44 = fld w 63 44 ∧
         ∃ l, t.mod.msgSend = some l ∧ l.length = 256)) ∧
     (∀ res, (s.mod.msgSend = none → exec (.messageSendDone res) s = .next s) ∧
       ∀ l, s.mod.msgSend = some l → Happens (.messageSendDone res) s fun t =>
         t.mod.msgSend = none ∧
         fld t.mod.msgtx 1 0 = (match res with | .delivered => 0 | .refused => 2 | .noRoute => 3) ∧
         t.mod.outbox = s.mod.outbox ++ (match res with
           | .delivered => [(fld s.mod.msgtx 63 54, fld s.mod.msgtx 53 44, l)] | _ => [])) ∧
     ∀ bytes,
       let w := s.mod.msgrx
       let at_ := fld w 51 20 * 2 ^ 20 + 256 * fld w 11 0
       (fld w 51 20 = 0 ∨ (fld w 11 0 + 1) % 4096 = fld w 63 52 →
         exec (.messageArrival bytes) s = .next s) ∧
       (fld w 51 20 ≠ 0 → (fld w 11 0 + 1) % 4096 ≠ fld w 63 52 →
         Happens (.messageArrival bytes) s fun t =>
           fld t.mod.msgrx 11 0 = (fld w 11 0 + 1) % 4096 ∧
           fld t.mod.msgrx 63 12 = fld w 63 12 ∧
           (at_ + 256 ≤ 0x10000000000 → HomesPlain s → ∀ i, i < 256 → homeGet t (at_ + i) = bytes.getD i 0)))

/-! ### Power and the manifold (R418 to R422) -/

/-- R418 to R421: a write of PWRCTL takes TOL from the host and the rest from the Keeper of the
lead core, and is refused whole for STAG below 5. A cluster asks for the state that its use allows
and for near-threshold when it is due; the change is made at a quiesce point, and put off by 100
us when 10 us have brought none. A unit comes up in its turn of the stagger: its core runs, unless
it failed, was captured or has no rail. R422: a leak at the manifold is shown once, signals the
host and starts the emergency save; when the save is over, or 10 ms later, every valve closes and
the rail is cut. HOT follows the coolant's temperature and signals the host.
Readings of the power rules are in log entries 42 and 57. -/
def Obligations.PowerAndManifold : Prop :=
  (∀ (s : State),
     (∀ who w, fld w 23 16 < 5 → exec (.pwrctlWrite who w) s = .next s) ∧
     (∀ w, 5 ≤ fld w 23 16 →
       Happens (.pwrctlWrite .host w) s (fun t => OneMod s t fun a b =>
         { b with pwrctl := a.pwrctl } = a ∧ FieldFrom a.pwrctl b.pwrctl w 47 32) ∧
       Happens (.pwrctlWrite (.keeper (leadCore s)) w) s (fun t => OneMod s t fun a b =>
         { b with pwrctl := a.pwrctl } = a ∧ fld b.pwrctl 23 16 = fld w 23 16 ∧
           fld b.pwrctl 0 0 = fld w 0 0 ∧ fld b.pwrctl 47 32 = fld a.pwrctl 47 32) ∧
       exec (.pwrctlWrite .crew w) s = .next s) ∧
     (∀ k p, k < 32 → (s.cluster k).change = none →
       (p.toNat = clusterTarget s k → (s.cluster k).pstate ≠ p →
         Happens (.powerStateChange k p) s fun t => OneCluster s t k fun a b =>
           { b with change := a.change, retryAt := a.retryAt } = a ∧
           b.change = some (2 + p.toNat, s.now)) ∧
       (p.toNat ≠ clusterTarget s k ∨ (s.cluster k).pstate = p →
         exec (.powerStateChange k p) s = .next s)) ∧
     (∀ k p, 32 ≤ k → p.toNat = moduleTarget s → s.mod.pstate ≠ p →
       Happens (.powerStateChange k p) s fun t => t.mod.pstate = p ∧
         (p.toNat = 4 → t.llc = .empty)) ∧
     (∀ k, (nearDue s k = true → (s.cluster k).pstate = 0 → (s.cluster k).change = none →
         Happens (.nearThresholdEntry k) s fun t => (t.cluster k).change = some (0, s.now)) ∧
       (nearDue s k = false → exec (.nearThresholdEntry k) s = .next s)) ∧
     (∀ k kind since, (s.cluster k).change = some (kind, since) →
       (quiesceHold s k = true → quiesced s k = true → Happens (.quiescePoint k) s fun t =>
         (t.cluster k).change = none ∧ (kind = 0 → (t.cluster k).near = true) ∧
         (kind = 1 → (t.cluster k).near = false)) ∧
       (quiesceHold s k = false ∨ quiesced s k = false → exec (.quiescePoint k) s = .next s) ∧
       (quiesceHold s k = true → max since (s.cluster k).retryAt + 10 * Config.ccPerUs ≤ s.now →
         Happens (.quiesceTimeout k) s fun t => OneCluster s t k fun a b =>
           { b with retryAt := a.retryAt } = a ∧ b.retryAt = s.now + 100 * Config.ccPerUs)) ∧
     (∀ at_ unit rest, s.mod.stagger = (at_, unit) :: rest →
       (usOf s.now < at_ → exec .powerStaggerStep s = .next s) ∧
       (at_ ≤ usOf s.now → Happens .powerStaggerStep s fun t => t.mod.stagger = rest ∧
         (unit < 256 → s.mod.bad.contains unit = false → (s.core unit).captured = false →
           s.mod.railCut = false → (t.core unit).halted = false))) ∧
     (s.mod.stagger = [] → exec .powerStaggerStep s = .next s)) ∧
  (∀ (s : State),
     (bit s.mod.modcool 1 = true → exec .manifoldLeak s = .next s) ∧
     (bit s.mod.modcool 1 = false → Happens .manifoldLeak s fun t => bit t.mod.modcool 1 = true ∧
       t.mod.msi = s.mod.msi + 1 ∧ t.mod.saving = true ∧ t.mod.leakAt = some (usOf s.now)) ∧
     (∀ at_, s.mod.leakAt = some at_ → s.mod.railCut = false →
       (saveOver s = true ∨ at_ + 10000 ≤ usOf s.now → Happens .leakValveClose s fun t =>
         t.mod.railCut = true ∧ (∀ z, z < 64 → fld (zoneOfMod t.mod z).w1 55 48 = 0) ∧
         ∀ c, c < 256 → (t.core c).halted = true) ∧
       (saveOver s = false → usOf s.now < at_ + 10000 → exec .leakValveClose s = .next s)) ∧
     ∀ hot, (bit s.mod.modcool 0 = hot → exec (.modcoolHot hot) s = .next s) ∧
       (bit s.mod.modcool 0 ≠ hot → Happens (.modcoolHot hot) s fun t => OneMod s t fun a b =>
         { b with modcool := a.modcool, msi := a.msi } = a ∧ bit b.modcool 0 = hot ∧
           b.msi = a.msi + 1))

/-! ### Boot, attestation and test (R321, R322, R411 to R417) -/

/-- R411, R412, R322: a module reset keeps the memories and the fuses and stops with its failure
code in BOOTSTAT, or waits for GO with the lead core named. R413: in step 2, PROG burns a good
point into a blank slot 1 and LOCK burns the policy bit of a programmed one; what is refused
stands in LASTERR. R411, R414: GO, or 60 s without it, starts the loading; the recovery image is
run when its signature is good: the module is READY, TR is clear, and every usable core has its
Keeper and its place. R415: GO takes the nonce unless a signature is under way; when it is done
ATTCTL shows DONE and the count has risen. R417, R416, R420: RUN with no launch active and the
module READY stops every core with TR set; it is refused else; what the test finds stands in
BISTLIST, and the cores come up again in the stagger.
The hash, the curve, the image header and the signatures are the model's (log entries 6, 53 and 56);
BIST and boot order are in log entries 54 and 55. -/
def Obligations.BootAndTest : Prop :=
  ((∀ (s : State) (failed : List (BitVec 16)) (badKeys : List Nat) (trained : Bool),
     let u := bistFound (resetModule s) failed
     Happens (.moduleReset failed badKeys trained) s fun t => t.mem = s.mem ∧ t.llc = s.llc ∧
       t.runs = [] ∧ t.mod.keySlot1 = s.mod.keySlot1 ∧ t.mod.policy = s.mod.policy ∧
       t.mod.rollback = s.mod.rollback ∧ t.mod.launches = .empty ∧
       (bootLead u = none ∨ failed.any essential = true → t.mod.boot = .failed ∧
         fld t.mod.bootstat 15 8 = 0x86) ∧
       (∀ lead, bootLead u = some lead → failed.any essential = false →
         (badKeys ≠ [] → t.mod.boot = .failed ∧ fld t.mod.bootstat 15 8 = 0x87) ∧
         (badKeys = [] → trained = false → t.mod.boot = .failed ∧ fld t.mod.bootstat 15 8 = 0x84) ∧
         (badKeys = [] → trained = true → t.mod.boot = .waitGo (usOf s.now) ∧ leadCore t = lead ∧
           fld t.mod.bootstat 23 16 = 1))) ∧
   ∀ (s : State),
     (bootWaits s = true → s.mod.keySlot1 = none → onCurve (keyPoint s.mod) = true →
       Happens .bootctlProg s fun t => OneMod s t fun a b =>
         { b with keySlot1 := none, bootctl := a.bootctl } = a ∧ b.keySlot1 = some (keyPoint a) ∧
         bit b.bootctl 2 = true) ∧
     (bootWaits s = true → s.mod.keySlot1 ≠ none ∨ onCurve (keyPoint s.mod) = false →
       Happens .bootctlProg s fun t => t.mod.keySlot1 = s.mod.keySlot1 ∧
         fld t.mod.bootstat 15 8 = 0x85) ∧
     (bootWaits s = true → s.mod.keySlot1 ≠ none → Happens .bootctlLock s fun t =>
       OneMod s t fun a b => { b with policy := a.policy, bootctl := a.bootctl } = a ∧
         b.policy = true ∧ bit b.bootctl 3 = true) ∧
     (bootWaits s = true → s.mod.keySlot1 = none → Happens .bootctlLock s fun t =>
       t.mod.policy = s.mod.policy ∧ fld t.mod.bootstat 15 8 = 0x85) ∧
     (bootWaits s = false → exec .bootctlProg s = .next (bootBits s 4) ∧
       exec .bootctlLock s = .next (bootBits s 8)) ∧
     (∀ stage src, Happens (.bootctlGo stage src) s fun t =>
       fld t.mod.bootctl 39 16 = stage.toNat ∧ bit t.mod.bootctl 1 = src ∧ bit t.mod.bootctl 0 = true ∧
       (bootWaits s = false → OneMod s t fun a b => { b with bootctl := a.bootctl } = a) ∧
       (bootWaits s = true → src = true → RecoveryRun s t)) ∧
     (∀ t0, s.mod.boot = .waitGo t0 → t0 + 60000000 ≤ usOf s.now →
       Happens .bootGoTimeout s fun t => RecoveryRun s t) ∧
     (∀ t0, s.mod.boot = .waitGo t0 → usOf s.now < t0 + 60000000 →
       exec .bootGoTimeout s = .next s)) ∧
  (∀ (s : State),
     (∀ l, s.mod.attWork = some l → exec .attctlGo s = .next s ∧
       Happens .attestationDone s fun t => t.mod.attWork = none ∧ bit t.mod.attctl 1 = true ∧
         t.mod.attCount = s.mod.attCount + 1 ∧
         t.mod.attsig = Config.attSign s.mod.attCount (sha256 (attMessage s.mod l))) ∧
     (s.mod.attWork = none → exec .attestationDone s = .next s ∧
       Happens .attctlGo s fun t => t.mod.attWork = some (padBytes 32 s.mod.attnonce) ∧
         bit t.mod.attctl 1 = false) ∧
     (s.mod.bistBusy = true → exec .bistctlRun s = .next (s.mapMod fun m => { m with bistctl := 1 })) ∧
     (s.mod.bistBusy = false →
       (s.mod.launches.cells = [] → bit s.mod.bootstat 0 = true → Happens .bistctlRun s fun t =>
         t.mod.bistBusy = true ∧ t.mod.bistRefused = false ∧
         ∀ c, c < 256 → (t.core c).halted = true ∧ bit (t.core c).trmode 0 = true) ∧
       (s.mod.launches.cells ≠ [] ∨ bit s.mod.bootstat 0 = false → Happens .bistctlRun s fun t =>
         OneMod s t fun a b => { b with bistRefused := a.bistRefused, bistctl := a.bistctl } = a ∧
           b.bistRefused = true ∧ b.bistctl = 1)) ∧
     ∀ failed, (s.mod.bistBusy = false → exec (.bistDone failed) s = .next s) ∧
       (s.mod.bistBusy = true → Happens (.bistDone failed) s fun t => t.mod.bistBusy = false ∧
         t.mod.bistDone = true ∧ t.mod.bistFailed = sortUnits failed ∧ t.mod.keepers = true ∧
         (∀ k, k < 32 → ∃ p ∈ t.mod.stagger, p.2 = 0x1000 + k) ∧
         ∀ c, c < 256 → bit (t.core c).trmode 0 = false ∧
           (coreUsable t c = true → placeCore t c = some c)))

/-! ### The host at the port (R166, R404, R406) -/

/-- R166, R404, R406: with the link down nothing of the host arrives. A write of device memory stands there, over
every copy in the clusters; a read is answered with what the home holds; a snoop takes a line of host memory out of every
cluster; an invalidation takes a range of a space out of every TLB.
How the host reaches memory is the model's reading (log entries 8 and 51). -/
def Obligations.HostPort : Prop :=
  ∀ (s : State),
    (linkUp s = false → ∀ pa bytes len pasid va,
      exec (.hostCxlMemWrite pa bytes) s = .next s ∧ exec (.hostCxlMemRead pa len) s = .next s ∧
      exec (.hostAtsInvalidation pasid va len) s = .next s) ∧
    (linkUp s = true →
      (∀ pa bytes, pa + bytes.length ≤ 0x10000000000 → HomesPlain s →
        Happens (.hostCxlMemWrite pa bytes) s fun t =>
          ∀ i, i < bytes.length → homeGet t (pa + i) = bytes.getD i 0) ∧
      (∀ pa len, pa < 0x10000000000 → s.mod.pstate.toNat ≠ 4 →
        Happens (.hostCxlMemRead pa len) s fun t => SameBytes s t ∧ OneMod s t fun a b =>
          { b with hostReads := a.hostReads } = a ∧
            b.hostReads = a.hostReads ++ [homeBytes s pa len]) ∧
      (∀ pasid va len, Happens (.hostAtsInvalidation pasid va len) s fun t => SameBytes s t ∧
        (∀ c, ∀ e ∈ (t.core c).tlb, PageSet.meets ⟨pasid, va, va + len⟩ e.pasid e.page
          (pageBits e.level) = false) ∧
        (∀ k, ∀ e ∈ (t.cluster k).tlb, PageSet.meets ⟨pasid, va, va + len⟩ e.pasid e.page
          (pageBits e.level) = false) ∧
        t.mod.ats = s.mod.ats ++ [(pasid, va, len, heldOf s pasid)])) ∧
    ∀ line inval, (zoneOf (line * 256) ≠ .host → exec (.cxlCacheSnoop line inval) s = .next s) ∧
      (zoneOf (line * 256) = .host → Happens (.cxlCacheSnoop line inval) s fun t => inval = true →
        ∀ k, ∀ x ∈ (t.cluster k).l2, x.line ≠ line)

/-! ### Events always complete -/

/-- Every event of the machine completes: from every state it answers a next state, for no event faults or
is refused. Those that concern registers, bins, counters and the order of work alone change no byte of
memory. R286, R287, R291, R295, R299, R301, R37, R55, R423: where the condition of an event of the queue
unit, of placement or of the front end holds, what it does is that event's own operation.
That an event whose condition does not hold changes nothing is the model's form (log entry 14). -/
def Obligations.EventsComplete : Prop :=
  (∀ (a b c d : Nat) (f g : Bool) (w : W64) (l : List Byte) (u : List (BitVec 16)) (k : List Nat)
     (x y z : BitVec 16) (p : BitVec 20) (q : BitVec 24) (v : BitVec 8) (r : BitVec 3) (j : BitVec 4)
     (res : PrqResult) (msg : MsgResult) (who : Requester) (reply : Reply),
     (∀ i ∈ [Instr.moduleReset u k f, .bootGoTimeout, .bootctlGo q f, .bootctlProg, .bootctlLock,
         .attctlGo, .attestationDone, .bistctlRun, .bistDone u, .qdoorWrite a w, .controlBlockReread a,
         .walkerSlotAssign, .packetRead a, .packetBarRelease a, .launchPost a, .waitPacketPoll a,
         .pendingFaultServed a, .launchCheck a b, .crewPlace a, .launchComplete a, .dependantEviction a,
         .batchIssue a, .instructionFillDone a, .clauseEnd, .regionOpenAtIssue a b,
         .quietRegionOpen a b, .regionClear a b, .linkedRegionClear a b, .sensorReport a,
         .passSensorReport a, .restartReissue a b], Answers i) ∧
     (∀ i ∈ [Instr.lodgeStallBreak a, .stagingArrival a b, .stagingSpaceFree a b, .stagingAck a b,
         .clearMessage a b, .translationWalk a, .homeAccessArrival a b, .loadDataReturn a b c reply,
         .barrierArrivalMessage a b c d, .barrierRelease a b, .barrierDeparture a b c d,
         .dequeOwnerTake a, .droverProbe a, .registerCompaction a, .operandBufferCompaction a,
         .operandFill a, .gangTimeout a b, .jointLatchRelease a, .engineChunk a, .engineUnitRelease a,
         .copyRelease a b, .contextFault a f b, .contextResume a f b g, .streamStep a b,
         .ringStreamStep a b, .nodeStart a b, .nodeComplete a b, .budgetYieldEnter a b,
         .heartbeatMissed a, .trapDelivery a, .wakeableRestore a b], Answers i) ∧
     (∀ i ∈ [Instr.thermalSample a v, .emergencySave a, .moveForce a b, .moveTransfer a,
         .coolantLowFlow a, .coolantHighDt a, .coolantGas a, .evacuationStep a, .hostCxlMemWrite a l,
         .hostCxlMemRead a b, .hostAtsInvalidation p a b, .pageRequestResult a res,
         .cxlLinkDownTimeout, .messageArrival l, .powerStateChange a r, .quiescePoint a,
         .manifoldLeak, .dbgctlWrite a b w, .leakValveClose, .cxlCacheSnoop a f, .gangForm a,
         .matrixEntryExecute a, .matrixEntryComplete a], Answers i) ∧
     (∀ i ∈ [Instr.activeLaunchEntry, .binAgeReady a b, .gatherTimeout a b, .resultWriteback a b c,
         .rendezvousComplete a b c, .lodgeGrant a, .squashMessage a b, .dequeReserve a,
         .matrixQueueEntry a, .currentGrant a, .contextAllocate a, .nodeTableEntry a,
         .budgetYieldLeave a b, .watchdog a b, .trappopWrite a, .flowMeasure a x y z, .prqWrite a w,
         .cxlLinkChange f j v, .caravanPortTrain a f, .cvcfgWrite w, .msgtxWrite w,
         .messageSendDone msg, .pwrctlWrite who w, .nearThresholdEntry a, .quiesceTimeout a,
         .powerStaggerStep], AnswersStill i) ∧
     ∀ i ∈ [Instr.fectlWrite a w, .trmodeWrite a w, .l2quotaWrite a w, .qwinWrite a w, .qstormWrite a w,
         .curcapWrite a w, .coolctlWrite a w, .hbctlWrite a w, .thctlWrite a w, .esctlWrite a w,
         .dbgkillWrite a b w, .tblstatClear a w, .systemRegisterWrite a x b w, .modcoolHot f],
       AnswersStill i) ∧
  (∀ (s : State) (i cb : Nat) (w : W64) (p : List W64),
     ((wakeModule s).mod.cbhbase ≠ 0 → doorbellFind (wakeModule s) (fld w 63 32) = some cb →
       exec (.qdoorWrite 8 w) s = .next (doorbell (wakeModule s) cb w)) ∧
     (∀ due, s.mod.walkers.get? i = some { cb, st := .reread due none, packet := p } →
       due ≤ s.now → cbSeq s cb % 2 = 0 →
       exec (.controlBlockReread i) s = .next (setWalker s i { cb, st := .read, packet := p })) ∧
     (s.mod.walkers.get? i = some { cb, st := .barHeld, packet := p } → cbTaken s cb = false →
       queueBusy s cb = false → sigAway s cb p = false →
       exec (.packetBarRelease i) s = .next (packetAct s i cb p)) ∧
     (s.mod.walkers.get? i = some { cb, st := .full, packet := p } → cbTaken s cb = false →
       exec (.launchPost i) s = .next (launchPacket s i cb p)) ∧
     (∀ due, s.mod.walkers.get? i = some { cb, st := .poll due, packet := p } → due ≤ s.now →
       cbTaken s cb = false → sigAway s cb p = false →
       exec (.waitPacketPoll i) s = .next (waitPacket s i cb p)) ∧
     (cbState s cb = 2 → cbTaken s cb = false →
       exec (.pendingFaultServed cb) s = .next (walkEnter (cbKeeperState s cb 0 0) cb))) ∧
  ∀ (s : State) (c : Nat),
     (∀ a l p sp, nextCrew s c = some (a, l, p, sp) →
       exec (.crewPlace c) s = .next (placeLaunchCrew s c a p l sp)) ∧
     (∀ l x p sp, nextChild s c = some (l, x, p, sp) →
       exec (.dequeOwnerTake c) s = .next (placeChild s c p l x sp)) ∧
     (∀ n l, s.launch? n = some l → launchDone s n = true → cbTaken s l.post.cb = false →
       modAway s l.post.pasid (pkDone l.post.packet) = false → exec (.launchComplete n) s =
         .next (launchOut (doneUpdate (gateSet s n 0xFFFF true) l.post fun w => w + 1) n)) ∧
     (∀ u x, settleWaits (wakeBlocked (drainWaits s c) c) c = u → nextIssue u c = some x →
       (x.wait = false → exec (.batchIssue c) s = .next (issueBin u c x.idx)) ∧
       (x.wait = true → ((u.core c).waits[x.idx]?.any fun w => w.opens) = false →
         exec (.batchIssue c) s = .next (issueWait u c x.idx))) ∧
     ∀ i, (openTurn s c i false = true → exec (.regionOpenAtIssue c i) s = .next (openWait s c i)) ∧
       (openTurn s c i true = true → exec (.quietRegionOpen c i) s = .next (openWait s c i))

/-! ### Returning from a trap, and the tables (R323, R330, R331, R386) -/

/-- R386: what a Keeper's return does to a trapped fibre that its mask names: it goes on at its
position with its saved latches, at the clause that follows or its recorded continuation, or at `%cont`,
or it has quit; a trapped fibre that the mask does not name stays as it was. -/
def Obligations.TrapReturn : Prop :=
  ∀ (s : State) (c slot : Nat) (mask : W64) (k : Crew) (lane : Nat) (f : Fibre) (x : Trap),
    s.crew? c slot = some k → (k.fibres.cells.map (·.1)).Nodup → k.fibres.get? lane = some f →
    f.st = .trapped x →
    (lane < 64 → bit mask lane = true →
      (∀ how, how ≠ .quit → ∃ k' f', (returnFrom s c slot mask how).crew? c slot = some k' ∧
        k'.fibres.get? lane = some f' ∧ isTrapped f' = false ∧ f'.pred = f.pred ∧
        (how = .retry → f'.pc = x.res ∧ f'.rpos = x.pos ∧ f'.rlat = x.lat) ∧
        (how = .next → f'.pc = x.next ∧ f'.rpos = 0) ∧
        (how = .cont → f'.pc = k.cont.setWidth 56 ∧ f'.rpos = 0)) ∧
      ∃ k', (returnFrom s c slot mask .quit).crew? c slot = some k' ∧
        k'.fibres.get? lane = none) ∧
    (64 ≤ lane ∨ bit mask lane = false → ∀ how, ∃ k',
      (returnFrom s c slot mask how).crew? c slot = some k' ∧ k'.fibres.get? lane = some f)

/-- R319, R323, R330, R331: what a released write of a table does. A slot takes a tenant below 64 or none, a place a
usable core that no other place names; a refused word leaves its table, and TBLSTAT.CODE says why. A swap exchanges
two places. In the cycle itself every place still resolves as before. A 1 clears a flag of a zone, and EVREQ starts the evacuation of a zone in RUN. -/
def Obligations.TableWrites : Prop :=
  ∀ (s : State) (c idx : Nat) (w : W64),
    (slotTenant w < 64 ∨ slotTenant w = 127 →
      slotWord ((tbwrApply s c 1 idx 0 w).core c) idx = w &&& 0xC07F) ∧
    (64 ≤ slotTenant w → slotTenant w ≤ 126 → OneCore s (tbwrApply s c 1 idx 0 w) c fun a b =>
      { b with tblstat := a.tblstat } = a ∧ fld b.tblstat 7 0 = 1) ∧
    (∀ n, n ≠ idx → bit w 15 = true → ¬ NamesNot s n (fld w 7 0) →
      OneCore s (tbwrApply s c 2 idx 0 w) c fun a b =>
        { b with tblstat := a.tblstat } = a ∧ fld b.tblstat 7 0 = 2) ∧
    (OnlyPlace s idx (fld w 7 0) → bit w 15 = true →
      coreUsable s (fld w 7 0) = false → OneCore s (tbwrApply s c 2 idx 0 w) c fun a b =>
        { b with tblstat := a.tblstat } = a ∧ fld b.tblstat 7 0 = 3) ∧
    (OnlyPlace s idx (fld w 7 0) → coreUsable s (fld w 7 0) = true →
      (tbwrApply s c 2 idx 0 w).mod.places.getD idx 0 = w &&& 0x80FF) ∧
    (∀ j, (swapPlaces s idx j).mod.places.getD idx 0 = s.mod.places.getD j 0 &&& 0x80FF ∧
      (swapPlaces s idx j).mod.places.getD j 0 = s.mod.places.getD idx 0 &&& 0x80FF) ∧
    (∀ n j, placeCore (tbwrApply s c 2 idx 0 w) n = placeCore s n ∧
      placeCore (swapPlaces s idx j) n = placeCore s n) ∧
    (∀ i, i < 3 → bit w i = true → bit (zoneOfMod (tbwrApply s c 4 idx 3 w).mod idx).w3 i = false) ∧
    (bit w 7 = true → zState (zoneOfMod s.mod idx) = 1 →
      zState (zoneOfMod (tbwrApply s c 4 idx 3 w).mod idx) = 2 ∧
      zStep (zoneOfMod (tbwrApply s c 4 idx 3 w).mod idx) = 1)

/-! ### The whole machine -/

/-- R112, R114: with no event due from outside, the batch whose turn it is issues the instruction that the word
at its position decodes to: the step is that instruction's meaning, the position is counted once it has
completed, and what was noted enters the counters; fibres that trap on an array error in their
operands do so in a step of its own. An event that is due is the step.
The order of events is the model's choice (log entries 4 and 14). -/
def Obligations.StepRunsDecoded : Prop :=
  ∀ (s : State),
    (∀ r s1 i, agendaNext s = none → turn s = some (r, s1) → r.pos < r.words.length →
      wordAt r.words r.pos = some i →
      (∀ s2, checkOperands s1 r i = (s2, []) →
        step s = onNext settleTally (onNext (afterPos s2 r i) (exec i s2))) ∧
      (∀ s2 x l, checkOperands s1 r i = (s2, x :: l) → step s = .next (settleTally s2)) ∧
      ((∀ p ∈ r.fibres, ∀ k, s.crew? r.core p.2 = some k → k.upsets = []) →
        checkOperands s1 r i = (s1, []))) ∧
    (∀ i s1, agendaNext s = some (i, s1) → isEvent i = true →
      step s = onNext settleTally (exec i s1)) ∧
    (∀ r s1, agendaNext s = none → turn s = some (r, s1) → r.words.length ≤ r.pos →
      step s = onNext settleTally (exec .clauseEnd s1)) ∧
    ∀ r s1, turn s = some (r, s1) → r ∈ s.runs ∧ r.due ≤ s.now ∧ s1.runs.head? = some r

/-- R61 to R65: words that the manual writes out stand for the instructions it names. -/
def Obligations.DecodeWords : Prop :=
  decode 0x0000030080BFE000 = some (.iadd ⟨false, false, 0⟩ .s32 false (.reg 3) (.reg 1) (.reg 2)) ∧
  decode 0x0A800402FFC0C000 = some (.bfx ⟨false, false, 0⟩ .s32 (.reg 4) (.reg 5) (.reg 6)) ∧
  decode 0x4180040080806800 =
    some (.fma ⟨false, false, 0⟩ .rn .f32 (.reg 4) (.reg 1) (.reg 2) (.reg 3)) ∧
  decode 0x3500000000101C00 = some (.br ⟨true, true, 1⟩ 16) ∧
  decode 0x800002037FC08080 =
    some (.ldG ⟨false, false, 0⟩ (.reg 2) ⟨.reg 6, .zero, 64⟩ .b4 false false) ∧
  decode 0xF981FFFFFFFFE000 = some (.halt ⟨false, false, 0⟩ .zero)

/-- R61 to R65: every well-formed instruction is what its word decodes to, and every word that decodes
stands for a well-formed instruction whose word it is: no word has two meanings, and no operand is lost. -/
def Obligations.EncodingsAgree : Prop :=
  (∀ (i : Instr) (w : W64), i.wf = true → encode i = some w → decode w = some i) ∧
  ∀ (i : Instr) (w : W64), decode w = some i → i.wf = true ∧ encode i = some w

/-- The values that the manual gives the registers at reset, and the form of memory.
That no crew, region or run stands at reset, and the contents that no rule gives, are the model's
choice (log entry 1). -/
def Obligations.ResetState : Prop :=
  (∀ c, c < 256 → fld (State.reset.core c).fectl 31 16 = 4096 ∧
    fld (State.reset.core c).fectl 7 0 = 32 ∧ bit (State.reset.core c).trmode 0 = true ∧
    (State.reset.core c).crews.cells = [] ∧ (State.reset.core c).lodge = [] ∧
    (State.reset.core c).traps = [] ∧ (State.reset.core c).caprec = 0) ∧
  (∀ k, k < 32 → (State.reset.cluster k).l2 = [] ∧ (State.reset.cluster k).tlb = []) ∧
  (∀ z, z < 64 → zState (zoneOfMod State.reset.mod z) = 1 ∧
    zGrant (zoneOfMod State.reset.mod z) = 20) ∧
  State.reset.mod.launches.cells = [] ∧ State.reset.mod.places.cells = [] ∧
  State.reset.runs = [] ∧ Memory.wf State.reset.mem = true

/-- R353: no step leaves an event that it noted out of the counters. -/
def Obligations.EventsCounted : Prop :=
  ∀ s t : State, step s = .next t → ∀ co ∈ t.cores.vals, co.tally = []

/-- Memory keeps its one form: from every state in it, a step leads to a state in it; equal memories
are then equal data.
The form, and that an unlisted byte reads 0, are the model's choice (log entry 2). -/
def Obligations.MemoryCanonical : Prop :=
  ∀ s t : State, Memory.wf s.mem = true → step s = .next t → Memory.wf t.mem = true

/-! ### Rules stated whole -/

/-- R128: `nop` has one word, every field of it fixed; where its batch issues it passes its position, and no
register, no fibre, no byte of memory and nothing else changes. -/
def Obligations.NopEffect : Prop :=
  (∀ w : W64, decode w = some (.nop ⟨false, false, 0⟩) ↔
    fld w 63 55 = 0x07F ∧ fld w 54 49 = 0 ∧ fld w 48 40 = 0x1FF ∧ fld w 39 31 = 0x1FF ∧
      fld w 30 22 = 0x1FF ∧ fld w 21 13 = 0x1FF ∧ fld w 12 0 = 0) ∧
  (Instr.nop ⟨false, false, 0⟩).ib = 1 ∧
  ∀ g s r, Issues s r (.nop g) → r.Placed → Passes (.nop g) s r (r.passed s 0)

/-- R141: `fclass` writes a word with one bit set, the bit of the class that the sign, the exponent and the
fraction of its operand give; `f8e4` has no infinity. -/
def Obligations.FloatClasses : Prop :=
  (∀ (t : FTy) (eb mb : Nat), (t, eb, mb) ∈ [(FTy.f32, 8, 23), (FTy.f16, 5, 10), (FTy.bf16, 8, 7),
      (FTy.f8e4, 4, 3), (FTy.f8e5, 5, 2)] → ∀ w : W64,
    let e := fld w (eb + mb - 1) mb
    let m := fld w (mb - 1) 0
    let neg := bit w (eb + mb)
    let nan := e = 2 ^ eb - 1 ∧ (if t = .f8e4 then m = 7 else m ≠ 0)
    t.classBit w = if nan then 8
      else if t ≠ .f8e4 ∧ e = 2 ^ eb - 1 then (if neg then 0 else 7)
      else if e = 0 then (if m = 0 then (if neg then 3 else 4) else if neg then 2 else 5)
      else if neg then 1 else 6) ∧
  ∀ g t d a, Computes (.fclass g t d a) g d false 0 fun _ rd =>
    BitVec.ofNat 64 (2 ^ t.classBit (rd false a))

/-- R356: the fields of `bread`, and its result: each active fibre's pair receives the budget of its crew as
the charges before this position leave it. -/
def Obligations.BudgetRead : Prop :=
  (∀ (mb : Bool) (w : W64), (∃ b : BitVec 8, b.toNat % 2 = 0 ∧
      decode w = some (.bread ⟨false, false, 0⟩ mb (.reg b))) ↔
    fld w 63 55 = 0x1E0 ∧ fld w 54 49 = 0 ∧ fld w 48 40 < 256 ∧ fld w 40 40 = 0 ∧
      fld w 39 31 = 0x1FF ∧ fld w 30 22 = 0x1FF ∧ fld w 21 13 = 0x1FF ∧ fld w 12 8 = 0 ∧
      fld w 7 1 = 0 ∧ fld w 0 0 = mb.toNat) ∧
  ∀ (s : State) (r : Run) (g : Guard) (d : Dst) (mb : Bool), (∀ p ∈ r.fibres, isKeeper p.2 = false) →
    WritesNow (.bread g mb d) s r g d true fun _ k _ => (if mb then k.mb else k.ib).setWidth 64
end

