-- ==== Sys2Proof/Laws/Tab.lean ====
section
/-! SUPPORT. Laws of the table: what a lookup gives after an insertion, a deletion, a map, a
filter. None needs the keys to be in order. -/
namespace Sys2Proof.Tab
variable {α β : Type}

theorem findIn_putIn_self (k : Nat) (v : α) (l : List (Nat × α)) :
    findIn k (putIn k v l) = some v := by
  induction l with
  | nil => simp [putIn, findIn]
  | cons c r ih =>
    obtain ⟨j, u⟩ := c
    simp only [putIn]
    split
    · simp [findIn]
    · split
      · simp [findIn]
      · next h => simp [findIn, h, ih]

theorem findIn_putIn_ne {k j : Nat} (v : α) (l : List (Nat × α)) (h : j ≠ k) :
    findIn j (putIn k v l) = findIn j l := by
  induction l with
  | nil => simp [putIn, findIn, h.symm]
  | cons c r ih =>
    obtain ⟨i, u⟩ := c
    simp only [putIn]
    split
    · simp [findIn, h.symm]
    · split
      · next hi => subst hi; simp [findIn, h.symm]
      · simp [findIn, ih]

@[simp] theorem get?_empty (k : Nat) : (empty : Tab α).get? k = none := rfl

@[simp] theorem get?_put_self (t : Tab α) (k : Nat) (v : α) : (t.put k v).get? k = some v :=
  findIn_putIn_self k v t.cells

@[simp] theorem get?_put_ne (t : Tab α) {k j : Nat} (v : α) (h : j ≠ k) :
    (t.put k v).get? j = t.get? j := findIn_putIn_ne v t.cells h

theorem get?_put (t : Tab α) (k j : Nat) (v : α) :
    (t.put k v).get? j = if j = k then some v else t.get? j := by
  split
  · next h => subst h; simp
  · next h => simp [h]

@[simp] theorem getD_put_self (t : Tab α) (k : Nat) (v d : α) : (t.put k v).getD k d = v := by
  simp [getD]

@[simp] theorem getD_put_ne (t : Tab α) {k j : Nat} (v d : α) (h : j ≠ k) :
    (t.put k v).getD j d = t.getD j d := by simp [getD, h]

theorem findIn_filter (p : Nat → Bool) (k : Nat) (l : List (Nat × α)) :
    findIn k (l.filter fun c => p c.1) = if p k then findIn k l else none := by
  induction l with
  | nil => simp [findIn]
  | cons c r ih =>
    obtain ⟨j, u⟩ := c
    by_cases hj : j = k
    · subst hj
      by_cases hp : p j <;> simp [hp, findIn, ih]
    · by_cases hp : p j <;> simp [hp, findIn, hj, ih]

@[simp] theorem get?_del (t : Tab α) (k j : Nat) :
    (t.del k).get? j = if j = k then none else t.get? j := by
  simp only [get?, del, findIn_filter (fun i => i != k)]
  by_cases h : j = k <;> simp [h]

theorem get?_keep_key (t : Tab α) (p : Nat → Bool) (k : Nat) :
    (t.keep fun i _ => p i).get? k = if p k then t.get? k else none := findIn_filter p k t.cells

@[simp] theorem get?_mapKV (f : Nat → α → β) (t : Tab α) (k : Nat) :
    (t.mapKV f).get? k = (t.get? k).map (f k) := by
  obtain ⟨l⟩ := t
  simp only [get?, mapKV]
  induction l with
  | nil => rfl
  | cons c r ih =>
    obtain ⟨j, u⟩ := c
    by_cases h : j = k
    · subst h; simp [findIn]
    · simp [findIn, h, ih]

theorem findIn_append (k : Nat) (l r : List (Nat × α)) :
    findIn k (l ++ r) = (findIn k l).or (findIn k r) := by
  induction l with
  | nil => simp [findIn]
  | cons c l ih =>
    obtain ⟨j, u⟩ := c
    by_cases h : j = k <;> simp [findIn, h, ih]

/-- A key that is found stands in the list. -/
theorem mem_of_findIn {k : Nat} {v : α} {l : List (Nat × α)} (h : findIn k l = some v) :
    (k, v) ∈ l := by
  induction l with
  | nil => simp [findIn] at h
  | cons c r ih =>
    obtain ⟨j, u⟩ := c
    simp only [findIn] at h
    split at h
    · next hj => subst hj; simp only [Option.some.injEq] at h; subst h; simp
    · exact List.mem_cons_of_mem _ (ih h)

end Sys2Proof.Tab
end

