-- ==== Sys2Proof/Laws/State.lean ====
section
/-! SUPPORT. What each named update of the state leaves as it was, and what it makes readable:
one lemma per field and update, so that no later proof unfolds a record update. -/
namespace Sys2Proof.Machine.State

/-! ### `setCore` -/

@[simp] theorem now_setCore (s : State) (c : Nat) (k : Core) :
    (s.setCore c k).now = s.now := rfl
@[simp] theorem agenda_setCore (s : State) (c : Nat) (k : Core) :
    (s.setCore c k).agenda = s.agenda := rfl
@[simp] theorem runs_setCore (s : State) (c : Nat) (k : Core) :
    (s.setCore c k).runs = s.runs := rfl
@[simp] theorem clusters_setCore (s : State) (c : Nat) (k : Core) :
    (s.setCore c k).clusters = s.clusters := rfl
@[simp] theorem dies_setCore (s : State) (c : Nat) (k : Core) :
    (s.setCore c k).dies = s.dies := rfl
@[simp] theorem net_setCore (s : State) (c : Nat) (k : Core) :
    (s.setCore c k).net = s.net := rfl
@[simp] theorem mem_setCore (s : State) (c : Nat) (k : Core) :
    (s.setCore c k).mem = s.mem := rfl
@[simp] theorem llc_setCore (s : State) (c : Nat) (k : Core) :
    (s.setCore c k).llc = s.llc := rfl
@[simp] theorem mod_setCore (s : State) (c : Nat) (k : Core) :
    (s.setCore c k).mod = s.mod := rfl

/-! ### `mapCore` -/

@[simp] theorem now_mapCore (s : State) (c : Nat) (f : Core → Core) :
    (s.mapCore c f).now = s.now := rfl
@[simp] theorem agenda_mapCore (s : State) (c : Nat) (f : Core → Core) :
    (s.mapCore c f).agenda = s.agenda := rfl
@[simp] theorem runs_mapCore (s : State) (c : Nat) (f : Core → Core) :
    (s.mapCore c f).runs = s.runs := rfl
@[simp] theorem clusters_mapCore (s : State) (c : Nat) (f : Core → Core) :
    (s.mapCore c f).clusters = s.clusters := rfl
@[simp] theorem dies_mapCore (s : State) (c : Nat) (f : Core → Core) :
    (s.mapCore c f).dies = s.dies := rfl
@[simp] theorem net_mapCore (s : State) (c : Nat) (f : Core → Core) :
    (s.mapCore c f).net = s.net := rfl
@[simp] theorem mem_mapCore (s : State) (c : Nat) (f : Core → Core) :
    (s.mapCore c f).mem = s.mem := rfl
@[simp] theorem llc_mapCore (s : State) (c : Nat) (f : Core → Core) :
    (s.mapCore c f).llc = s.llc := rfl
@[simp] theorem mod_mapCore (s : State) (c : Nat) (f : Core → Core) :
    (s.mapCore c f).mod = s.mod := rfl

/-! ### `setCluster` -/

@[simp] theorem now_setCluster (s : State) (k : Nat) (v : Cluster) :
    (s.setCluster k v).now = s.now := rfl
@[simp] theorem agenda_setCluster (s : State) (k : Nat) (v : Cluster) :
    (s.setCluster k v).agenda = s.agenda := rfl
@[simp] theorem runs_setCluster (s : State) (k : Nat) (v : Cluster) :
    (s.setCluster k v).runs = s.runs := rfl
@[simp] theorem cores_setCluster (s : State) (k : Nat) (v : Cluster) :
    (s.setCluster k v).cores = s.cores := rfl
@[simp] theorem dies_setCluster (s : State) (k : Nat) (v : Cluster) :
    (s.setCluster k v).dies = s.dies := rfl
@[simp] theorem net_setCluster (s : State) (k : Nat) (v : Cluster) :
    (s.setCluster k v).net = s.net := rfl
@[simp] theorem mem_setCluster (s : State) (k : Nat) (v : Cluster) :
    (s.setCluster k v).mem = s.mem := rfl
@[simp] theorem llc_setCluster (s : State) (k : Nat) (v : Cluster) :
    (s.setCluster k v).llc = s.llc := rfl
@[simp] theorem mod_setCluster (s : State) (k : Nat) (v : Cluster) :
    (s.setCluster k v).mod = s.mod := rfl

/-! ### `mapCluster` -/

@[simp] theorem now_mapCluster (s : State) (k : Nat) (f : Cluster → Cluster) :
    (s.mapCluster k f).now = s.now := rfl
@[simp] theorem agenda_mapCluster (s : State) (k : Nat) (f : Cluster → Cluster) :
    (s.mapCluster k f).agenda = s.agenda := rfl
@[simp] theorem runs_mapCluster (s : State) (k : Nat) (f : Cluster → Cluster) :
    (s.mapCluster k f).runs = s.runs := rfl
@[simp] theorem cores_mapCluster (s : State) (k : Nat) (f : Cluster → Cluster) :
    (s.mapCluster k f).cores = s.cores := rfl
@[simp] theorem dies_mapCluster (s : State) (k : Nat) (f : Cluster → Cluster) :
    (s.mapCluster k f).dies = s.dies := rfl
@[simp] theorem net_mapCluster (s : State) (k : Nat) (f : Cluster → Cluster) :
    (s.mapCluster k f).net = s.net := rfl
@[simp] theorem mem_mapCluster (s : State) (k : Nat) (f : Cluster → Cluster) :
    (s.mapCluster k f).mem = s.mem := rfl
@[simp] theorem llc_mapCluster (s : State) (k : Nat) (f : Cluster → Cluster) :
    (s.mapCluster k f).llc = s.llc := rfl
@[simp] theorem mod_mapCluster (s : State) (k : Nat) (f : Cluster → Cluster) :
    (s.mapCluster k f).mod = s.mod := rfl

/-! ### `mapDie` -/

@[simp] theorem now_mapDie (s : State) (d : Nat) (f : Die → Die) :
    (s.mapDie d f).now = s.now := rfl
@[simp] theorem agenda_mapDie (s : State) (d : Nat) (f : Die → Die) :
    (s.mapDie d f).agenda = s.agenda := rfl
@[simp] theorem runs_mapDie (s : State) (d : Nat) (f : Die → Die) :
    (s.mapDie d f).runs = s.runs := rfl
@[simp] theorem cores_mapDie (s : State) (d : Nat) (f : Die → Die) :
    (s.mapDie d f).cores = s.cores := rfl
@[simp] theorem clusters_mapDie (s : State) (d : Nat) (f : Die → Die) :
    (s.mapDie d f).clusters = s.clusters := rfl
@[simp] theorem net_mapDie (s : State) (d : Nat) (f : Die → Die) :
    (s.mapDie d f).net = s.net := rfl
@[simp] theorem mem_mapDie (s : State) (d : Nat) (f : Die → Die) :
    (s.mapDie d f).mem = s.mem := rfl
@[simp] theorem llc_mapDie (s : State) (d : Nat) (f : Die → Die) :
    (s.mapDie d f).llc = s.llc := rfl
@[simp] theorem mod_mapDie (s : State) (d : Nat) (f : Die → Die) :
    (s.mapDie d f).mod = s.mod := rfl

/-! ### `mapMod` -/

@[simp] theorem now_mapMod (s : State) (f : Module → Module) :
    (s.mapMod f).now = s.now := rfl
@[simp] theorem agenda_mapMod (s : State) (f : Module → Module) :
    (s.mapMod f).agenda = s.agenda := rfl
@[simp] theorem runs_mapMod (s : State) (f : Module → Module) :
    (s.mapMod f).runs = s.runs := rfl
@[simp] theorem cores_mapMod (s : State) (f : Module → Module) :
    (s.mapMod f).cores = s.cores := rfl
@[simp] theorem clusters_mapMod (s : State) (f : Module → Module) :
    (s.mapMod f).clusters = s.clusters := rfl
@[simp] theorem dies_mapMod (s : State) (f : Module → Module) :
    (s.mapMod f).dies = s.dies := rfl
@[simp] theorem net_mapMod (s : State) (f : Module → Module) :
    (s.mapMod f).net = s.net := rfl
@[simp] theorem mem_mapMod (s : State) (f : Module → Module) :
    (s.mapMod f).mem = s.mem := rfl
@[simp] theorem llc_mapMod (s : State) (f : Module → Module) :
    (s.mapMod f).llc = s.llc := rfl

/-! ### `heal` -/

@[simp] theorem now_heal (s : State) (p : Site → Bool) : (s.heal p).now = s.now := rfl
@[simp] theorem agenda_heal (s : State) (p : Site → Bool) : (s.heal p).agenda = s.agenda := rfl
@[simp] theorem runs_heal (s : State) (p : Site → Bool) : (s.heal p).runs = s.runs := rfl
@[simp] theorem cores_heal (s : State) (p : Site → Bool) : (s.heal p).cores = s.cores := rfl
@[simp] theorem clusters_heal (s : State) (p : Site → Bool) : (s.heal p).clusters = s.clusters := rfl
@[simp] theorem dies_heal (s : State) (p : Site → Bool) : (s.heal p).dies = s.dies := rfl
@[simp] theorem net_heal (s : State) (p : Site → Bool) : (s.heal p).net = s.net := rfl
@[simp] theorem mem_heal (s : State) (p : Site → Bool) : (s.heal p).mem = s.mem := rfl
@[simp] theorem llc_heal (s : State) (p : Site → Bool) : (s.heal p).llc = s.llc := rfl
@[simp] theorem mod_heal (s : State) (p : Site → Bool) : (s.heal p).mod = s.mod := rfl

/-! ### `setCrew` -/

@[simp] theorem now_setCrew (s : State) (c x : Nat) (k : Crew) :
    (s.setCrew c x k).now = s.now := rfl
@[simp] theorem agenda_setCrew (s : State) (c x : Nat) (k : Crew) :
    (s.setCrew c x k).agenda = s.agenda := rfl
@[simp] theorem runs_setCrew (s : State) (c x : Nat) (k : Crew) :
    (s.setCrew c x k).runs = s.runs := rfl
@[simp] theorem clusters_setCrew (s : State) (c x : Nat) (k : Crew) :
    (s.setCrew c x k).clusters = s.clusters := rfl
@[simp] theorem dies_setCrew (s : State) (c x : Nat) (k : Crew) :
    (s.setCrew c x k).dies = s.dies := rfl
@[simp] theorem net_setCrew (s : State) (c x : Nat) (k : Crew) :
    (s.setCrew c x k).net = s.net := rfl
@[simp] theorem mem_setCrew (s : State) (c x : Nat) (k : Crew) :
    (s.setCrew c x k).mem = s.mem := rfl
@[simp] theorem llc_setCrew (s : State) (c x : Nat) (k : Crew) :
    (s.setCrew c x k).llc = s.llc := rfl
@[simp] theorem mod_setCrew (s : State) (c x : Nat) (k : Crew) :
    (s.setCrew c x k).mod = s.mod := rfl

/-! ### `mapCrew` -/

@[simp] theorem now_mapCrew (s : State) (c x : Nat) (f : Crew → Crew) :
    (s.mapCrew c x f).now = s.now := by unfold State.mapCrew; split <;> rfl
@[simp] theorem agenda_mapCrew (s : State) (c x : Nat) (f : Crew → Crew) :
    (s.mapCrew c x f).agenda = s.agenda := by unfold State.mapCrew; split <;> rfl
@[simp] theorem runs_mapCrew (s : State) (c x : Nat) (f : Crew → Crew) :
    (s.mapCrew c x f).runs = s.runs := by unfold State.mapCrew; split <;> rfl
@[simp] theorem clusters_mapCrew (s : State) (c x : Nat) (f : Crew → Crew) :
    (s.mapCrew c x f).clusters = s.clusters := by unfold State.mapCrew; split <;> rfl
@[simp] theorem dies_mapCrew (s : State) (c x : Nat) (f : Crew → Crew) :
    (s.mapCrew c x f).dies = s.dies := by unfold State.mapCrew; split <;> rfl
@[simp] theorem net_mapCrew (s : State) (c x : Nat) (f : Crew → Crew) :
    (s.mapCrew c x f).net = s.net := by unfold State.mapCrew; split <;> rfl
@[simp] theorem mem_mapCrew (s : State) (c x : Nat) (f : Crew → Crew) :
    (s.mapCrew c x f).mem = s.mem := by unfold State.mapCrew; split <;> rfl
@[simp] theorem llc_mapCrew (s : State) (c x : Nat) (f : Crew → Crew) :
    (s.mapCrew c x f).llc = s.llc := by unfold State.mapCrew; split <;> rfl
@[simp] theorem mod_mapCrew (s : State) (c x : Nat) (f : Crew → Crew) :
    (s.mapCrew c x f).mod = s.mod := by unfold State.mapCrew; split <;> rfl

/-! ### `mapFibre` and `mapLaunch` -/

@[simp] theorem now_mapFibre (s : State) (c x l : Nat) (f : Fibre → Fibre) :
    (s.mapFibre c x l f).now = s.now := now_mapCrew ..
@[simp] theorem agenda_mapFibre (s : State) (c x l : Nat) (f : Fibre → Fibre) :
    (s.mapFibre c x l f).agenda = s.agenda := agenda_mapCrew ..
@[simp] theorem runs_mapFibre (s : State) (c x l : Nat) (f : Fibre → Fibre) :
    (s.mapFibre c x l f).runs = s.runs := runs_mapCrew ..
@[simp] theorem clusters_mapFibre (s : State) (c x l : Nat) (f : Fibre → Fibre) :
    (s.mapFibre c x l f).clusters = s.clusters := clusters_mapCrew ..
@[simp] theorem dies_mapFibre (s : State) (c x l : Nat) (f : Fibre → Fibre) :
    (s.mapFibre c x l f).dies = s.dies := dies_mapCrew ..
@[simp] theorem net_mapFibre (s : State) (c x l : Nat) (f : Fibre → Fibre) :
    (s.mapFibre c x l f).net = s.net := net_mapCrew ..
@[simp] theorem mem_mapFibre (s : State) (c x l : Nat) (f : Fibre → Fibre) :
    (s.mapFibre c x l f).mem = s.mem := mem_mapCrew ..
@[simp] theorem llc_mapFibre (s : State) (c x l : Nat) (f : Fibre → Fibre) :
    (s.mapFibre c x l f).llc = s.llc := llc_mapCrew ..
@[simp] theorem mod_mapFibre (s : State) (c x l : Nat) (f : Fibre → Fibre) :
    (s.mapFibre c x l f).mod = s.mod := mod_mapCrew ..
@[simp] theorem now_mapLaunch (s : State) (a : Nat) (f : Launch → Launch) :
    (s.mapLaunch a f).now = s.now := by unfold State.mapLaunch; split <;> rfl
@[simp] theorem agenda_mapLaunch (s : State) (a : Nat) (f : Launch → Launch) :
    (s.mapLaunch a f).agenda = s.agenda := by unfold State.mapLaunch; split <;> rfl
@[simp] theorem runs_mapLaunch (s : State) (a : Nat) (f : Launch → Launch) :
    (s.mapLaunch a f).runs = s.runs := by unfold State.mapLaunch; split <;> rfl
@[simp] theorem cores_mapLaunch (s : State) (a : Nat) (f : Launch → Launch) :
    (s.mapLaunch a f).cores = s.cores := by unfold State.mapLaunch; split <;> rfl
@[simp] theorem clusters_mapLaunch (s : State) (a : Nat) (f : Launch → Launch) :
    (s.mapLaunch a f).clusters = s.clusters := by unfold State.mapLaunch; split <;> rfl
@[simp] theorem dies_mapLaunch (s : State) (a : Nat) (f : Launch → Launch) :
    (s.mapLaunch a f).dies = s.dies := by unfold State.mapLaunch; split <;> rfl
@[simp] theorem net_mapLaunch (s : State) (a : Nat) (f : Launch → Launch) :
    (s.mapLaunch a f).net = s.net := by unfold State.mapLaunch; split <;> rfl
@[simp] theorem mem_mapLaunch (s : State) (a : Nat) (f : Launch → Launch) :
    (s.mapLaunch a f).mem = s.mem := by unfold State.mapLaunch; split <;> rfl
@[simp] theorem llc_mapLaunch (s : State) (a : Nat) (f : Launch → Launch) :
    (s.mapLaunch a f).llc = s.llc := by unfold State.mapLaunch; split <;> rfl

/-! ### What an update makes readable -/

@[simp] theorem core_setCore_self (s : State) (c : Nat) (k : Core) : (s.setCore c k).core c = k := by
  simp [core, setCore]

@[simp] theorem core_setCore_ne (s : State) {c d : Nat} (k : Core) (h : d ≠ c) :
    (s.setCore c k).core d = s.core d := by simp [core, setCore, h]

@[simp] theorem core_mapCore_self (s : State) (c : Nat) (f : Core → Core) :
    (s.mapCore c f).core c = f (s.core c) := core_setCore_self ..

@[simp] theorem core_mapCore_ne (s : State) {c d : Nat} (f : Core → Core) (h : d ≠ c) :
    (s.mapCore c f).core d = s.core d := core_setCore_ne _ _ h

@[simp] theorem cluster_mapCluster_self (s : State) (k : Nat) (f : Cluster → Cluster) :
    (s.mapCluster k f).cluster k = f (s.cluster k) := by simp [cluster, mapCluster, setCluster]

@[simp] theorem cluster_mapCluster_ne (s : State) {k j : Nat} (f : Cluster → Cluster) (h : j ≠ k) :
    (s.mapCluster k f).cluster j = s.cluster j := by simp [cluster, mapCluster, setCluster, h]

@[simp] theorem die_mapDie_self (s : State) (d : Nat) (f : Die → Die) :
    (s.mapDie d f).die d = f (s.die d) := by simp [die, mapDie]

@[simp] theorem die_mapDie_ne (s : State) {d e : Nat} (f : Die → Die) (h : e ≠ d) :
    (s.mapDie d f).die e = s.die e := by simp [die, mapDie, h]

@[simp] theorem mod_mapMod (s : State) (f : Module → Module) : (s.mapMod f).mod = f s.mod := rfl

@[simp] theorem core_mapMod (s : State) (f : Module → Module) (c : Nat) :
    (s.mapMod f).core c = s.core c := rfl
@[simp] theorem core_mapCluster (s : State) (k : Nat) (f : Cluster → Cluster) (c : Nat) :
    (s.mapCluster k f).core c = s.core c := rfl
@[simp] theorem core_mapDie (s : State) (d : Nat) (f : Die → Die) (c : Nat) :
    (s.mapDie d f).core c = s.core c := rfl
@[simp] theorem cluster_mapMod (s : State) (f : Module → Module) (k : Nat) :
    (s.mapMod f).cluster k = s.cluster k := rfl
@[simp] theorem cluster_mapCore (s : State) (c : Nat) (f : Core → Core) (k : Nat) :
    (s.mapCore c f).cluster k = s.cluster k := rfl

/-- Everything of a core but its crews, after a crew is put into a slot. -/
@[simp] theorem core_setCrew_self (s : State) (c x : Nat) (k : Crew) :
    (s.setCrew c x k).core c = { s.core c with crews := (s.core c).crews.put x k } :=
  core_mapCore_self ..

@[simp] theorem core_setCrew_ne (s : State) {c d : Nat} (x : Nat) (k : Crew) (h : d ≠ c) :
    (s.setCrew c x k).core d = s.core d := core_mapCore_ne _ _ h

theorem crew?_setCrew (s : State) (c x : Nat) (k : Crew) (d y : Nat) :
    (s.setCrew c x k).crew? d y = if d = c ∧ y = x then some k else s.crew? d y := by
  unfold crew?
  by_cases hd : d = c
  · subst hd; simp [Tab.get?_put]
  · simp [hd]

/-- A crew changed by a function: that crew reads changed, every other as before. -/
theorem crew?_mapCrew (s : State) (c x : Nat) (f : Crew → Crew) (d y : Nat) :
    (s.mapCrew c x f).crew? d y =
      if d = c ∧ y = x then (s.crew? c x).map f else s.crew? d y := by
  unfold mapCrew
  split
  · next k hk => rw [crew?_setCrew]; simp [hk]
  · next hk =>
    split
    · next h => obtain ⟨rfl, rfl⟩ := h; simp [hk]
    · rfl

/-- Of a core, a change of a crew changes the crews alone. -/
theorem core_mapCrew (s : State) (c x : Nat) (f : Crew → Crew) (d : Nat) :
    { (s.mapCrew c x f).core d with crews := (s.core d).crews } = s.core d := by
  unfold mapCrew
  split
  · by_cases hd : d = c
    · subst hd; simp
    · simp [hd]
  · rfl

theorem core_mapCrew_ne (s : State) {c d : Nat} (x : Nat) (f : Crew → Crew) (h : d ≠ c) :
    (s.mapCrew c x f).core d = s.core d := by
  unfold mapCrew
  split <;> simp [h]

end Sys2Proof.Machine.State
end

