-- ==== Sys2Proof/Laws/Memory.lean ====
section
/-! SUPPORT. The bytes of physical memory: every operation keeps the canonical form, a byte
written is the byte read, and every other byte reads as before. -/
namespace Sys2Proof.Machine
set_option linter.unusedSimpArgs false

/-! ### The canonical form -/

/-- Every address of a list lies above a bound. -/
def aboveAll (k : Nat) (l : List Host.Cell) : Prop := ∀ c ∈ l, k < c.1

theorem wf_cons {a : Nat} {b : Byte} {r : List Host.Cell} :
    Memory.wf ((a, b) :: r) = true ↔ b ≠ Memory.blank ∧ aboveAll a r ∧ Memory.wf r = true := by
  induction r generalizing a b with
  | nil => simp [Memory.wf, aboveAll]
  | cons c r ih =>
    obtain ⟨a', b'⟩ := c
    rw [Memory.wf]
    simp only [Bool.and_eq_true, bne_iff_ne, decide_eq_true_eq]
    constructor
    · rintro ⟨⟨hb, ha⟩, hr⟩
      refine ⟨hb, ?_, hr⟩
      intro c hc
      rcases List.mem_cons.1 hc with rfl | hc
      · exact ha
      · exact Nat.lt_trans ha ((ih.1 hr).2.1 c hc)
    · rintro ⟨hb, ha, hr⟩
      exact ⟨⟨hb, ha (a', b') (by simp)⟩, hr⟩

theorem aboveAll_memPut {j k : Nat} {v : Byte} {l : List Host.Cell} (h : aboveAll j l)
    (hk : j < k) : aboveAll j (memPut l k v) := by
  induction l with
  | nil =>
    simp only [memPut]
    split
    · exact h
    · intro c hc; simp only [List.mem_singleton] at hc; subst hc; exact hk
  | cons c r ih =>
    obtain ⟨a, b⟩ := c
    have hr : aboveAll j r := fun c hc => h c (List.mem_cons_of_mem _ hc)
    have ha : j < a := h (a, b) (by simp)
    simp only [memPut]
    split
    · split
      · exact h
      · intro c hc
        rcases List.mem_cons.1 hc with rfl | hc
        · exact hk
        · exact h c hc
    · split
      · split
        · exact hr
        · intro c hc
          rcases List.mem_cons.1 hc with rfl | hc
          · exact hk
          · exact hr c hc
      · intro c hc
        rcases List.mem_cons.1 hc with rfl | hc
        · exact ha
        · exact ih hr c hc

/-- A write keeps the canonical form. -/
theorem memPut_wf {l : List Host.Cell} (k : Nat) (v : Byte) (h : Memory.wf l = true) :
    Memory.wf (memPut l k v) = true := by
  induction l with
  | nil =>
    simp only [memPut]
    split
    · exact h
    · next hv => simp [Memory.wf, hv]
  | cons c r ih =>
    obtain ⟨a, b⟩ := c
    obtain ⟨hb, ha, hr⟩ := wf_cons.1 h
    simp only [memPut]
    split
    · next hk =>
      split
      · exact h
      · next hv =>
        refine wf_cons.2 ⟨hv, ?_, h⟩
        intro c hc
        rcases List.mem_cons.1 hc with rfl | hc
        · exact hk
        · exact Nat.lt_trans hk (ha c hc)
    · next hk =>
      split
      · next he =>
        subst he
        split
        · exact hr
        · next hv => exact wf_cons.2 ⟨hv, ha, hr⟩
      · next he => exact wf_cons.2 ⟨hb, aboveAll_memPut ha (by omega), ih hr⟩

/-- A sublist of a memory in canonical form is in canonical form. -/
theorem filter_wf {l : List Host.Cell} (p : Host.Cell → Bool) (h : Memory.wf l = true) :
    Memory.wf (l.filter p) = true := by
  induction l with
  | nil => exact h
  | cons c r ih =>
    obtain ⟨a, b⟩ := c
    obtain ⟨hb, ha, hr⟩ := wf_cons.1 h
    simp only [List.filter_cons]
    split
    · exact wf_cons.2 ⟨hb, fun c hc => ha c (List.mem_filter.1 hc).1, ih hr⟩
    · exact ih hr

/-- Many writes keep the canonical form. -/
theorem foldl_memPut_wf {l : List Host.Cell} (ps : List (Nat × Byte)) (h : Memory.wf l = true) :
    Memory.wf (ps.foldl (fun m p => memPut m p.1 p.2) l) = true := by
  induction ps generalizing l with
  | nil => exact h
  | cons p ps ih => exact ih (memPut_wf _ _ h)

/-! ### Reading after writing -/

theorem memGet_below {l : List Host.Cell} {k : Nat} (h : aboveAll k l) :
    memGet l k = Memory.blank := by
  cases l with
  | nil => rfl
  | cons c r =>
    obtain ⟨a, b⟩ := c
    have : k < a := h (a, b) (by simp)
    simp only [memGet]
    rw [if_neg (by omega), if_pos this]

/-- A byte read after a write: the byte written at its address, and the old byte elsewhere. -/
theorem memGet_memPut {l : List Host.Cell} (k j : Nat) (v : Byte) (h : Memory.wf l = true) :
    memGet (memPut l k v) j = if j = k then v else memGet l j := by
  induction l with
  | nil =>
    simp only [memPut]
    split
    · next hv => subst hv; simp [memGet]
    · by_cases hj : j = k
      · subst hj; simp [memGet]
      · simp [memGet, Ne.symm hj, hj]
  | cons c r ih =>
    obtain ⟨a, b⟩ := c
    obtain ⟨hb, ha, hr⟩ := wf_cons.1 h
    simp only [memPut]
    split
    · next hk =>
      split
      · next hv =>
        by_cases hj : j = k
        · subst hj; subst hv
          simp only [memGet, if_true]
          rw [if_neg (by omega), if_pos hk]
        · simp [hj]
      · by_cases hj : j = k
        · subst hj; simp [memGet]
        · by_cases hjk : j < k
          · simp only [memGet]
            rw [if_neg (by omega), if_pos hjk, if_neg hj, if_neg (by omega), if_pos (by omega)]
          · rw [memGet, if_neg (by omega), if_neg hjk, if_neg hj]
    · next hk =>
      split
      · next he =>
        subst he
        split
        · next hv =>
          subst hv
          by_cases hj : j = a
          · subst hj; simp only [if_true]; exact memGet_below ha
          · by_cases hja : j < a
            · rw [if_neg hj]
              simp only [memGet]
              rw [if_neg (by omega), if_pos hja]
              exact memGet_below fun c hc => Nat.lt_trans hja (ha c hc)
            · rw [if_neg hj, memGet, if_neg (by omega), if_neg hja]
        · by_cases hj : j = a
          · subst hj; simp [memGet]
          · simp [memGet, hj, Ne.symm hj]
      · next he =>
        simp only [memGet, ih hr]
        by_cases hja : a = j
        · subst hja; simp [he]
        · by_cases hj : j = k
          · subst hj; rw [if_neg hja, if_neg hk]; simp
          · simp [hja, hj]

/-! ### Bytes and bits of a word -/

theorem bit_setBit {n : Nat} (w : BitVec n) {i : Nat} (j : Nat) (b : Bool) (hi : i < n) :
    bit (setBit w i b) j = if j = i then b else bit w j := by
  unfold bit setBit setFld
  have e1 : i + 1 - i = 1 := by omega
  simp only [e1, BitVec.getLsbD_or, BitVec.getLsbD_and, BitVec.getLsbD_not, BitVec.getLsbD_ofNat,
    Nat.testBit_shiftLeft]
  by_cases hj : j = i
  · subst hj
    cases b <;> simp [hi]
  · simp only [if_neg hj]
    by_cases hn : j < n
    · have hb : ∀ x : Nat, x < 2 → (decide (j ≥ i) && x.testBit (j - i)) = false := by
        intro x hx
        by_cases hji : j ≥ i
        · have h2 : 2 ^ 1 ≤ 2 ^ (j - i) := Nat.pow_le_pow_right (by decide) (by omega)
          have : x < 2 ^ (j - i) := by omega
          simp [Nat.testBit_lt_two_pow this]
        · simp [hji]
      have h1 := hb (2 ^ 1 - 1) (by decide)
      have h2 := hb (b.toNat % 2 ^ 1) (Nat.mod_lt _ (by decide))
      rw [h1, h2]
      simp [hn]
    · have : w.getLsbD j = false := BitVec.getLsbD_of_ge w j (by omega)
      simp [hn, this]

theorem getLsbD_byteOf {n : Nat} (w : BitVec n) (i : Nat) {k : Nat} (hk : k < 8) :
    (byteOf w i).getLsbD k = w.getLsbD (8 * i + k) := by
  unfold byteOf
  rw [BitVec.getLsbD_ofNat, Nat.testBit_shiftRight, decide_eq_true hk, Bool.true_and]
  rfl

/-- A byte of a word after one byte is replaced. -/
theorem byteOf_setByte {n : Nat} (w : BitVec n) {i : Nat} (j : Nat) (b : Byte) (hi : 8 * i + 8 ≤ n) :
    byteOf (setByte w i b) j = if j = i then b else byteOf w j := by
  have e1 : 8 * i + 7 + 1 - 8 * i = 8 := by omega
  apply BitVec.eq_of_getLsbD_eq
  intro k hk
  have hw : (8 * j + k < n) ∨ w.getLsbD (8 * j + k) = false := by
    rcases Nat.lt_or_ge (8 * j + k) n with q | q
    · exact .inl q
    · exact .inr (BitVec.getLsbD_of_ge w _ q)
  have hm : ∀ y, (2 ^ 8 - 1).testBit y = decide (y < 8) := fun y => Nat.testBit_two_pow_sub_one 8 y
  have hb : b.toNat % 2 ^ 8 = b.toNat := Nat.mod_eq_of_lt b.isLt
  rw [getLsbD_byteOf _ _ hk]
  unfold setByte setFld
  simp only [e1, BitVec.getLsbD_or, BitVec.getLsbD_and, BitVec.getLsbD_not, BitVec.getLsbD_ofNat,
    Nat.testBit_shiftLeft, hm, hb]
  by_cases h : j = i
  · subst h
    have h1 : 8 * j + k < n := by omega
    have h2 : 8 * j + k - 8 * j = k := by omega
    rw [if_pos rfl, h2]
    simp only [h1, hk, decide_true, ge_iff_le, Nat.le_add_right, Bool.true_and, Bool.and_true,
      Bool.not_true, Bool.and_false, Bool.false_or]
    rfl
  · rw [if_neg h, getLsbD_byteOf _ _ hk]
    have h3 : (decide (8 * j + k ≥ 8 * i) && decide (8 * j + k - 8 * i < 8)) = false := by
      rw [Bool.and_eq_false_iff, decide_eq_false_iff_not, decide_eq_false_iff_not]; omega
    have h4 : (decide (8 * j + k ≥ 8 * i) && b.toNat.testBit (8 * j + k - 8 * i)) = false := by
      rw [Bool.and_eq_false_iff, decide_eq_false_iff_not]
      rcases Nat.lt_or_ge (8 * j + k) (8 * i) with q | q
      · exact .inl (by omega)
      · exact .inr (Nat.testBit_lt_two_pow
          (Nat.lt_of_lt_of_le b.isLt (Nat.pow_le_pow_right (by decide) (by omega))))
    rw [h3, h4]
    rcases hw with q | q <;> simp [q]

/-! ### The home of an address -/

/-- A line written back keeps the memory in canonical form. -/
theorem llcBack_wf {m : List Host.Cell} (line : Nat) (x : LLine) (h : Memory.wf m = true) :
    Memory.wf (llcBack m line x) = true := by
  unfold llcBack
  generalize List.range 256 = l
  induction l generalizing m with
  | nil => exact h
  | cons i l ih =>
    simp only [List.foldl_cons]
    split
    · exact ih (memPut_wf _ _ h)
    · exact ih h

/-- A byte of memory after a line is written back: the line's where it is marked. -/
theorem memGet_llcBack {m : List Host.Cell} (line j : Nat) (x : LLine) (h : Memory.wf m = true) :
    memGet (llcBack m line x) j =
      if j / 256 = line ∧ bit x.mask (j % 256) = true then byteOf x.data (j % 256) else memGet m j := by
  have key : ∀ n, n ≤ 256 → ∃ m', (List.range n).foldl (fun m i =>
        if bit x.mask i then memPut m (line * 256 + i) (byteOf x.data i) else m) m = m' ∧
      Memory.wf m' = true ∧ memGet m' j =
        if j / 256 = line ∧ j % 256 < n ∧ bit x.mask (j % 256) = true then byteOf x.data (j % 256)
        else memGet m j := by
    intro n hn
    induction n with
    | zero => exact ⟨m, rfl, h, by simp⟩
    | succ n ih =>
      obtain ⟨m', e, w, g⟩ := ih (by omega)
      simp only [List.range_succ, List.foldl_append, e, List.foldl_cons, List.foldl_nil]
      split
      · next hb =>
        refine ⟨_, rfl, memPut_wf _ _ w, ?_⟩
        rw [memGet_memPut _ _ _ w, g]
        by_cases hj : j = line * 256 + n
        · have h1 : j / 256 = line := by omega
          have h2 : j % 256 = n := by omega
          rw [if_pos hj, if_pos ⟨h1, by omega, by rw [h2]; exact hb⟩, h2]
        · rw [if_neg hj]
          by_cases hc : j / 256 = line ∧ j % 256 < n ∧ bit x.mask (j % 256) = true
          · rw [if_pos hc, if_pos ⟨hc.1, by omega, hc.2.2⟩]
          · rw [if_neg hc, if_neg fun e => hc ⟨e.1, by omega, e.2.2⟩]
      · next hb =>
        refine ⟨_, rfl, w, ?_⟩
        rw [g]
        by_cases hc : j / 256 = line ∧ j % 256 < n ∧ bit x.mask (j % 256) = true
        · rw [if_pos hc, if_pos ⟨hc.1, by omega, hc.2.2⟩]
        · rw [if_neg hc, if_neg fun e => hc ⟨e.1, by
            rcases Nat.lt_or_ge (j % 256) n with hl | hl
            · exact hl
            · exact absurd ((by omega : j % 256 = n) ▸ e.2.2) hb, e.2.2⟩]
  obtain ⟨m', e, -, g⟩ := key 256 (Nat.le_refl _)
  unfold llcBack
  rw [e, g]
  have : j % 256 < 256 := Nat.mod_lt _ (by decide)
  simp [this]

/-- What is picked from a list stands in it. -/
theorem pickBy_mem {α : Type} {lt : α → α → Bool} {l : List α} {v : α} (h : pickBy lt l = some v) :
    v ∈ l := by
  induction l generalizing v with
  | nil => cases h
  | cons x r ih =>
    simp only [pickBy] at h
    split at h
    · cases h; simp
    · next y hy =>
      split at h
      · cases h; exact List.mem_cons_of_mem _ (ih hy)
      · cases h; simp

/-- The ways in which a line stands in its last-level cache after a use (R165): it was there, or it
enters, and then another may leave it. -/
theorem llcUse_cases (s : State) (line : Nat) :
    (∃ x, s.llc.get? line = some x ∧
      (llcUse s line = s ∨ ∃ n, llcUse s line = { s with llc := s.llc.put line { x with stamp := n } })) ∨
    (s.llc.get? line = none ∧ ∃ n p,
      llcUse s line = { s with llc := s.llc.put line ⟨0, 0, 0, n⟩ }.heal p ∨
      ∃ v ∈ s.llc.cells, llcUse s line =
        { s with mem := llcBack s.mem v.1 v.2, llc := (s.llc.del v.1).put line ⟨0, 0, 0, n⟩ }.heal p) := by
  unfold llcUse
  simp only
  cases hx : s.llc.get? line with
  | some x =>
    refine .inl ⟨x, rfl, ?_⟩
    simp only
    split
    · exact .inl rfl
    · exact .inr ⟨_, rfl⟩
  | none =>
    refine .inr ⟨rfl, ?_⟩
    simp only
    split
    · exact ⟨_, _, .inl rfl⟩
    · next v hv =>
      refine ⟨_, _, .inr ⟨v, ?_, rfl⟩⟩
      split at hv
      · cases hv
      · exact (List.mem_filter.1 (pickBy_mem hv)).1

/-- After a use of a line, it is there, the memory is in canonical form, and the module is as it was. -/
theorem llcUse_spec (s : State) (line : Nat) (h : Memory.wf s.mem = true) :
    (∃ x, (llcUse s line).llc.get? line = some x) ∧ Memory.wf (llcUse s line).mem = true ∧
      (llcUse s line).mod = s.mod := by
  obtain ⟨x, hx, e | ⟨n, e⟩⟩ | ⟨-, n, p, e | ⟨v, -, e⟩⟩ := llcUse_cases s line <;> rw [e]
  · exact ⟨⟨x, hx⟩, h, rfl⟩
  · exact ⟨⟨_, Tab.get?_put_self _ _ _⟩, h, rfl⟩
  · simp [h]
  · simp [llcBack_wf _ _ h]

/-- A home byte written keeps the memory in canonical form. -/
theorem homePut_wf (s : State) (pa : Nat) (b : Byte) (h : Memory.wf s.mem = true) :
    Memory.wf (homePut s pa b).mem = true := by
  unfold homePut
  simp only
  split
  · exact memPut_wf _ _ h
  · exact (llcUse_spec _ _ h).2.1

theorem homePuts_wf (l : List Byte) (s : State) (pa : Nat) (h : Memory.wf s.mem = true) :
    Memory.wf (homePuts s pa l).mem = true := by
  induction l generalizing s pa with
  | nil => exact h
  | cons b r ih => exact ih _ _ (homePut_wf _ _ _ h)

/-- A write-back of a last-level cache keeps the memory in canonical form. -/
theorem llcWriteBack_wf (s : State) (line : Nat) (h : Memory.wf s.mem = true) :
    Memory.wf (llcWriteBack s line).mem = true := by
  unfold llcWriteBack
  split
  · exact h
  · simpa using llcBack_wf _ _ h

theorem mod_homePut (s : State) (pa : Nat) (b : Byte) (h : Memory.wf s.mem = true) :
    (homePut s pa b).mod = s.mod := by
  unfold homePut
  simp only
  split
  · rfl
  · exact (llcUse_spec _ _ h).2.2

theorem canonPa_homePut (s : State) (pa : Nat) (b : Byte) (a : Nat) (h : Memory.wf s.mem = true) :
    canonPa (homePut s pa b) a = canonPa s a := by
  unfold canonPa ownModule; rw [mod_homePut _ _ _ h]

/-- A byte of a line: where it is marked, that of the line. -/
theorem homeGet_eq (s : State) (pa : Nat) :
    homeGet s pa = match s.llc.get? (canonPa s pa / 256) with
      | some x => if bit x.mask (canonPa s pa % 256) = true then byteOf x.data (canonPa s pa % 256)
          else memGet s.mem (canonPa s pa)
      | none => memGet s.mem (canonPa s pa) := rfl

/-- A line that enters a last-level cache, and the one that it evicts, change no byte (R165). -/
theorem homeGet_llcUse (s : State) (line a : Nat) (h : Memory.wf s.mem = true)
    (hk : ∀ p ∈ s.llc.cells, s.llc.get? p.1 = some p.2) : homeGet (llcUse s line) a = homeGet s a := by
  have hc : canonPa (llcUse s line) a = canonPa s a := by
    unfold canonPa ownModule; rw [(llcUse_spec s line h).2.2]
  simp only [homeGet_eq, hc]
  generalize canonPa s a = j
  obtain ⟨x, hx, e | ⟨n, e⟩⟩ | ⟨hn, n, p, e | ⟨v, hv, e⟩⟩ := llcUse_cases s line <;> rw [e]
  · simp only [Tab.get?_put]
    by_cases q : j / 256 = line
    · simp [q, hx]
    · simp [q]
  · simp only [State.llc_heal, State.mem_heal, Tab.get?_put]
    by_cases q : j / 256 = line
    · simp [q, hn, bit]
    · simp [q]
  · simp only [State.llc_heal, State.mem_heal, Tab.get?_put, Tab.get?_del, memGet_llcBack _ _ _ h]
    have hg := hk v hv
    by_cases q : j / 256 = line
    · have : line ≠ v.1 := fun q => by rw [← q, hn] at hg; cases hg
      simp [q, hn, bit, this]
    · by_cases f : j / 256 = v.1
      · simp [q, f, hg]; simp [← f, q]
      · simp [q, f]

/-- A home byte read after a home byte is written. -/
theorem homeGet_homePut (s : State) (pa a : Nat) (b : Byte) (h : Memory.wf s.mem = true)
    (hk : ∀ p ∈ s.llc.cells, s.llc.get? p.1 = some p.2)
    (hl : ∀ x, zoneOf x ≠ .device → s.llc.get? (x / 256) = none) :
    homeGet (homePut s pa b) a = if canonPa s a = canonPa s pa then b else homeGet s a := by
  rw [homeGet_eq, canonPa_homePut s pa b a h]
  unfold homePut
  simp only
  by_cases hz : zoneOf (canonPa s pa) = .device
  · rw [if_neg (by simp [hz])]
    have hu := homeGet_llcUse s (canonPa s pa / 256) a h hk
    have hc : canonPa (llcUse s (canonPa s pa / 256)) a = canonPa s a := by
      unfold canonPa ownModule; rw [(llcUse_spec s _ h).2.2]
    rw [← hu, homeGet_eq, hc]
    generalize llcUse s (canonPa s pa / 256) = t
    generalize canonPa s a = j
    generalize canonPa s pa = i
    simp only [Tab.get?_put, Tab.getD]
    have hi : i % 256 < 256 := Nat.mod_lt _ (by decide)
    by_cases e : j / 256 = i / 256
    · rw [if_pos e, e]
      by_cases f : j % 256 = i % 256
      · have : j = i := by omega
        subst this
        simp [bit_setBit _ _ _ hi, byteOf_setByte _ _ _ (by omega : 8 * (j % 256) + 8 ≤ 2048)]
      · have : j ≠ i := fun q => f (by rw [q])
        have hj : j % 256 < 256 := Nat.mod_lt _ (by decide)
        simp only [bit_setBit _ _ _ hi, if_neg f, if_neg this,
          byteOf_setByte _ _ _ (by omega : 8 * (i % 256) + 8 ≤ 2048), if_neg f]
        cases t.llc.get? (i / 256) <;> simp [bit]
    · have : j ≠ i := fun q => e (by rw [q])
      rw [if_neg e, if_neg this]
  · rw [if_pos hz]
    simp only [memGet_memPut _ _ _ h]
    by_cases ha : canonPa s a = canonPa s pa
    · simp [ha, hl _ hz]
    · simp [ha, homeGet_eq]

end Sys2Proof.Machine
end

