-- ==== Sys2Proof/Laws/Regs.lean ====
section
/-! SUPPORT. Register windows (R96 to R103): what a register reads as after a granule is renamed,
after a write and after writes of several registers; renaming alone changes no register. -/
namespace Sys2Proof.Machine
set_option linter.unusedSimpArgs false

/-! ### Renaming a granule -/

theorem get?_copyGranule (src dst : Tab W32) (g i : Nat) :
    (copyGranule src dst g).get? i =
      if i / 512 = g then src.get? i else dst.get? i := by
  unfold copyGranule
  simp only [Tab.get?, Tab.keep, Tab.findIn_append]
  rw [Tab.findIn_filter (fun i => decide (i < g * 512)),
    Tab.findIn_filter (fun i => decide (g * 512 ≤ i) && decide (i < g * 512 + 512)),
    Tab.findIn_filter (fun i => decide (g * 512 + 512 ≤ i))]
  by_cases h : i / 512 = g
  · have h1 : ¬ i < g * 512 := by omega
    have h2 : g * 512 ≤ i := by omega
    have h3 : i < g * 512 + 512 := by omega
    have h4 : ¬ g * 512 + 512 ≤ i := by omega
    simp only [h, h1, h2, h3, h4, decide_true, decide_false, Bool.and_true, Bool.true_and, Bool.and_false, Bool.false_and, Bool.false_eq_true, if_true, if_false,
      Option.none_or, Option.or_none]
  · by_cases hl : i < g * 512
    · have h2 : ¬ g * 512 ≤ i := Nat.not_le.2 hl
      have h4 : ¬ g * 512 + 512 ≤ i := fun e => h2 (Nat.le_trans (Nat.le_add_right _ _) e)
      simp only [h, hl, h2, h4, decide_true, decide_false, Bool.and_true, Bool.true_and, Bool.and_false, Bool.false_and, Bool.false_eq_true, if_true, if_false,
      Option.none_or, Option.or_none]
    · have h4 : g * 512 + 512 ≤ i := by
        have h5 : g ≤ i / 512 := (Nat.le_div_iff_mul_le (by decide)).2 (Nat.not_lt.1 hl)
        have h6 : g + 1 ≤ i / 512 := Nat.lt_of_le_of_ne h5 (Ne.symm h)
        have h7 := (Nat.le_div_iff_mul_le (by decide)).1 h6
        rwa [Nat.add_mul, Nat.one_mul] at h7
      have h3 : ¬ i < g * 512 + 512 := Nat.not_lt.2 h4
      simp only [h, hl, h3, h4, decide_true, decide_false, Bool.and_true, Bool.true_and, Bool.and_false, Bool.false_and, Bool.false_eq_true, if_true, if_false,
      Option.none_or, Option.or_none]

theorem regKey_granule {v lane : Nat} (hl : lane < 64) : regKey v lane / 512 = v / 8 := by
  unfold regKey; omega

theorem regKey_inj {v w lane m : Nat} (hl : lane < 64) (hm : m < 64)
    (h : regKey v lane = regKey w m) : v = w ∧ lane = m := by
  unfold regKey at h; omega

/-- What renaming a granule writes (R102, R112). -/
theorem renameGranule_eq (k : Crew) (g : Nat) : renameGranule k g =
    if bit k.dirty g then k
    else if bit k.cur g then
      { k with reg0 := copyGranule k.reg1 k.reg0 g, cur := setBit k.cur g false
               dirty := setBit k.dirty g true, upsets := (k.carry (granuleSites (bit k.cur g) g)).upsets }
    else
      { k with reg1 := copyGranule k.reg0 k.reg1 g, cur := setBit k.cur g true
               dirty := setBit k.dirty g true, upsets := (k.carry (granuleSites (bit k.cur g) g)).upsets } :=
  rfl

/-- What a write into the current copy changes (R96, R112). -/
theorem regPutCur_eq (k : Crew) (v lane : Nat) (w : W32) : regPutCur k v lane w =
    let l := (k.heal (· == .reg (bit k.cur (v / 8)) v lane)).upsets
    if bit k.cur (v / 8) then { k with reg1 := k.reg1.put (regKey v lane) w, upsets := l }
    else { k with reg0 := k.reg0.put (regKey v lane) w, upsets := l } := rfl

/-- Renaming a granule changes no register (R102). -/
theorem regGet_renameGranule (k : Crew) {g : Nat} (v lane : Nat) (hg : g < 32) (hl : lane < 64) :
    regGet (renameGranule k g) v lane = regGet k v lane := by
  rw [renameGranule_eq]
  split
  · rfl
  · have hk := regKey_granule (v := v) hl
    split
    · next hc =>
      by_cases h : v / 8 = g
      · subst h
        simp [regGet, regCopy, bit_setBit _ _ _ hg, hc, Tab.getD, get?_copyGranule, hk]
      · simp only [regGet, regCopy, bit_setBit _ _ _ hg, if_neg h, Tab.getD]
        split <;> simp [get?_copyGranule, hk, h]
    · next hc =>
      by_cases h : v / 8 = g
      · subst h
        simp [regGet, regCopy, bit_setBit _ _ _ hg, hc, Tab.getD, get?_copyGranule, hk]
      · simp only [regGet, regCopy, bit_setBit _ _ _ hg, if_neg h, Tab.getD]
        split <;> simp [get?_copyGranule, hk, h]

/-- A renamed granule is dirty. -/
theorem dirty_renameGranule (k : Crew) {g : Nat} (hg : g < 32) :
    bit (renameGranule k g).dirty g = true := by
  rw [renameGranule_eq]
  split
  · assumption
  · split <;> simp [bit_setBit _ _ _ hg]

/-! ### Writing a register -/

theorem regGet_regPutCur (k : Crew) (v lane u m : Nat) (w : W32) (hl : lane < 64) (hm : m < 64) :
    regGet (regPutCur k v lane w) u m = if u = v ∧ m = lane then w else regGet k u m := by
  rw [regPutCur_eq]
  by_cases h : u = v ∧ m = lane
  · obtain ⟨rfl, rfl⟩ := h
    split <;> simp_all [regGet, regCopy]
  · have hk : regKey u m ≠ regKey v lane := fun e => h (regKey_inj hm hl e)
    rw [if_neg h]
    split
    · simp only [regGet, regCopy]; split <;> simp [hk]
    · simp only [regGet, regCopy]; split <;> simp [hk]

/-- A register read after a register write by the crew: the value written at its place, and the
old value elsewhere (R96, R102). -/
theorem regGet_regPut (k : Crew) (v lane u m : Nat) (w : W32) (hv : v < 256) (hl : lane < 64)
    (hm : m < 64) :
    regGet (regPut k v lane w) u m = if u = v ∧ m = lane then w else regGet k u m := by
  unfold regPut
  rw [regGet_regPutCur _ _ _ _ _ _ hl hm, regGet_renameGranule _ _ _ (by omega) hm]

@[simp] theorem sansRegs_renameGranule (k : Crew) (g : Nat) :
    (renameGranule k g).sansRegs = k.sansRegs := by
  rw [renameGranule_eq]; split
  · rfl
  · split <;> rfl

@[simp] theorem sansRegs_regPut (k : Crew) (v lane : Nat) (w : W32) :
    (regPut k v lane w).sansRegs = k.sansRegs := by
  rw [regPut, regPutCur_eq]
  split
  · exact sansRegs_renameGranule k (v / 8)
  · exact sansRegs_renameGranule k (v / 8)

@[simp] theorem sansRegs_regPuts (k : Crew) (v lane : Nat) (l : List W32) :
    (regPuts k v lane l).sansRegs = k.sansRegs := by
  induction l generalizing k v with
  | nil => rfl
  | cons w r ih => rw [regPuts, ih, sansRegs_regPut]

@[simp] theorem sansRegs_regWrite (k : Crew) (v lane n x : Nat) :
    (regWrite k v lane n x).sansRegs = k.sansRegs := sansRegs_regPuts ..

/-- Registers written from a list (R99). -/
theorem regGet_regPuts (l : List W32) (k : Crew) (v lane u m : Nat) (hv : v + l.length ≤ 256)
    (hl : lane < 64) (hm : m < 64) :
    regGet (regPuts k v lane l) u m =
      if m = lane ∧ v ≤ u ∧ u < v + l.length then l.getD (u - v) 0 else regGet k u m := by
  induction l generalizing k v with
  | nil => simp only [List.length_nil]; rw [if_neg (by omega)]; rfl
  | cons w r ih =>
    simp only [List.length_cons] at hv
    rw [regPuts, ih _ _ (by omega), regGet_regPut _ _ _ _ _ _ (by omega) hl hm]
    by_cases hml : m = lane
    · subst hml
      by_cases h1 : u = v
      · subst h1
        rw [if_neg (fun e => absurd e.2.1 (by omega)), if_pos ⟨rfl, rfl⟩,
          if_pos ⟨rfl, Nat.le_refl _, by simp⟩]
        simp
      · by_cases h2 : v + 1 ≤ u ∧ u < v + 1 + r.length
        · have h3 : v ≤ u ∧ u < v + (r.length + 1) := by omega
          have h4 : u - v = (u - (v + 1)) + 1 := by omega
          simp [h2, h3, h4]
        · have h3 : ¬ (v ≤ u ∧ u < v + (r.length + 1)) := by omega
          rw [if_neg (fun e => h2 e.2), if_neg (fun e => h1 e.1), if_neg (fun e => h3 e.2)]
    · simp [hml]

theorem length_splitRegs (n x : Nat) : (splitRegs n x).length = n := by
  induction n generalizing x with
  | zero => rfl
  | succ n ih => simp [splitRegs, ih]

/-- A number of n registers read after it is written (R99). -/
theorem regGet_regWrite (k : Crew) (v lane n x u m : Nat) (hv : v + n ≤ 256) (hl : lane < 64)
    (hm : m < 64) :
    regGet (regWrite k v lane n x) u m =
      if m = lane ∧ v ≤ u ∧ u < v + n then (splitRegs n x).getD (u - v) 0 else regGet k u m := by
  unfold regWrite
  rw [regGet_regPuts _ _ _ _ _ _ (by rw [length_splitRegs]; exact hv) hl hm, length_splitRegs]

/-! ### A write from outside, and a restart (R102, R103) -/

/-- The register values that a restart brings back: of a dirty granule the checkpoint copy. -/
theorem regGet_regRestore (k : Crew) (v lane : Nat) (hv : v < 256) :
    regGet (regRestore k) v lane =
      (if bit k.cur (v / 8) = bit k.dirty (v / 8) then k.reg0 else k.reg1).getD (regKey v lane) 0 := by
  have hg : v / 8 < 32 := by omega
  unfold regGet regCopy regRestore bit
  simp only [BitVec.getLsbD_xor]
  cases k.cur.getLsbD (v / 8) <;> cases k.dirty.getLsbD (v / 8) <;> simp

end Sys2Proof.Machine
end

