-- ==== Sys2Proof/Laws/Ops.lean ====
section
/-! SUPPORT. The shared operations of a batch: what an issue, a register write of several lanes and
the end of a position can do to the state, and from these the effect of an instruction that computes
one result for each fibre, which the statements about such instructions cite. -/
namespace Sys2Proof.Machine
open Sys2Proof
set_option linter.unusedSimpArgs false

/-! ### What stays as it was -/

theorem sameBut_refl (c : Nat) (s : State) : SameBut c s s := ⟨rfl, fun _ _ => rfl, rfl⟩

theorem sameBut_trans {c : Nat} {s t u : State} (h : SameBut c s t) (h' : SameBut c t u) :
    SameBut c s u := by
  obtain ⟨a, b, d⟩ := h
  obtain ⟨a', b', d'⟩ := h'
  refine ⟨?_, fun e he => (b' e he).trans (b e he), ?_⟩
  · rw [← a, ← a']
  · rw [← d, ← d']

theorem sameBut_runs (c : Nat) (s : State) (l : List Run) : SameBut c s { s with runs := l } :=
  ⟨rfl, fun _ _ => rfl, rfl⟩

theorem sameBut_setCrew (c x : Nat) (s : State) (k : Crew) : SameBut c s (s.setCrew c x k) := by
  refine ⟨rfl, fun d hd => State.core_setCrew_ne s x k hd, ?_⟩
  rw [State.core_setCrew_self]

theorem sameBut_mapCrew (c x : Nat) (s : State) (f : Crew → Crew) :
    SameBut c s (s.mapCrew c x f) := by
  unfold State.mapCrew
  split
  · exact sameBut_setCrew ..
  · exact sameBut_refl ..

theorem sameBut_foldl {α : Type} (c : Nat) (f : State → α → State)
    (h : ∀ s a, SameBut c s (f s a)) (l : List α) (s : State) : SameBut c s (l.foldl f s) := by
  induction l generalizing s with
  | nil => exact sameBut_refl ..
  | cons a l ih => exact sameBut_trans (h s a) (ih _)

theorem sameBytes_of {s t : State} (hm : t.mem = s.mem) (hl : t.llc = s.llc) (hd : t.mod = s.mod) :
    SameBytes s t := by
  intro a
  unfold homeGet canonPa ownModule
  simp only [hm, hl, hd]

theorem sameBytes_sameBut {c : Nat} {s t : State} (h : SameBut c s t) : SameBytes s t := by
  have e := h.1
  apply sameBytes_of
  · rw [← e]
  · rw [← e]
  · rw [← e]

/-! ### Crews related one by one -/

theorem atCrew_refl {s : State} {c slot : Nat} {R : Crew → Crew → Prop} (h : ∀ k, R k k) :
    AtCrew s s c slot R := by
  unfold AtCrew
  cases s.crew? c slot <;> simp [h]

theorem atCrew_trans {s t u : State} {c slot : Nat} {R S T : Crew → Crew → Prop}
    (h : ∀ k k' k'', R k k' → S k' k'' → T k k'') (hst : AtCrew s t c slot R)
    (htu : AtCrew t u c slot S) : AtCrew s u c slot T := by
  unfold AtCrew at *
  cases hs : s.crew? c slot <;> cases ht : t.crew? c slot <;> cases hu : u.crew? c slot <;>
    simp_all
  exact h _ _ _ hst htu

theorem atCrew_mono {s t : State} {c slot : Nat} {R S : Crew → Crew → Prop}
    (h : ∀ k k', R k k' → S k k') (hst : AtCrew s t c slot R) : AtCrew s t c slot S := by
  unfold AtCrew at *
  cases hs : s.crew? c slot <;> cases ht : t.crew? c slot <;> simp_all

theorem atCrew_congr {s t t' : State} {c slot : Nat} {R : Crew → Crew → Prop}
    (h : t'.crew? c slot = t.crew? c slot) (hst : AtCrew s t c slot R) : AtCrew s t' c slot R := by
  unfold AtCrew at *
  rwa [h]

theorem atCrew_mapCrew (s : State) (c x slot : Nat) (f : Crew → Crew) :
    AtCrew s (s.mapCrew c x f) c slot fun k k' => k' = if slot = x then f k else k := by
  unfold AtCrew
  rw [State.crew?_mapCrew]
  by_cases h : slot = x
  · subst h; cases s.crew? c slot <;> simp
  · simp only [h, and_false, if_false]; cases s.crew? c slot <;> simp

/-- A relation that every step of a fold keeps holds across the fold. -/
theorem atCrew_foldl {α : Type} {c slot : Nat} {R : Crew → Crew → Prop} (hr : ∀ k, R k k)
    (ht : ∀ k k' k'', R k k' → R k' k'' → R k k'') (f : State → α → State) (l : List α)
    (h : ∀ s a, a ∈ l → AtCrew s (f s a) c slot R) (s : State) :
    AtCrew s (l.foldl f s) c slot R := by
  induction l generalizing s with
  | nil => exact atCrew_refl hr
  | cons a l ih =>
    exact atCrew_trans ht (h s a (by simp)) (ih (fun s b hb => h s b (by simp [hb])) _)

/-! ### The issue and the landing of a result touch only the open region's close point -/

theorem calmed_refl (p : Prop) (k : Crew) : Calmed p k k := ⟨rfl, rfl, rfl, rfl, rfl, fun _ => rfl⟩

theorem calmed_trans {p : Prop} {k k' k'' : Crew} (h : Calmed p k k') (h' : Calmed p k' k'') :
    Calmed p k k'' := by
  obtain ⟨a1, a2, a3, a4, a5, a6⟩ := h
  obtain ⟨b1, b2, b3, b4, b5, b6⟩ := h'
  exact ⟨b1.trans a1, b2.trans a2, b3.trans a3, b4.trans a4, b5.trans a5,
    fun h => (b6 h).trans (a6 h)⟩

theorem Calmed.fibres {p : Prop} {k k' : Crew} (h : Calmed p k k') : k'.fibres = k.fibres :=
  (congrArg Crew.fibres h.1 : k'.calm.fibres = k.calm.fibres)

theorem Calmed.foot {p : Prop} {k k' : Crew} (h : Calmed p k k') : k'.foot = k.foot :=
  (congrArg Crew.foot h.1 : k'.calm.foot = k.calm.foot)

theorem Calmed.regGet {p : Prop} {k k' : Crew} (h : Calmed p k k') (v lane : Nat) :
    Machine.regGet k' v lane = Machine.regGet k v lane := by
  obtain ⟨_, a2, a3, a4, _⟩ := h
  simp only [Machine.regGet, regCopy, a2, a3, a4]

theorem calmed_touch (s : State) (c x slot : Nat) (p : Prop) (hp : slot = x → p) :
    AtCrew s (touchRegion s c x) c slot (Calmed p) := by
  refine atCrew_mono (fun k k' h => ?_) (atCrew_mapCrew s c x slot _)
  by_cases e : slot = x
  · subst h; rw [if_pos e]
    refine ⟨?_, rfl, rfl, rfl, rfl, fun h => absurd (hp e) h⟩
    simp only [Crew.calm, Crew.sansRegs]
    cases k.region <;> rfl
  · subst h; rw [if_neg e]; exact calmed_refl ..

theorem calmed_land (s : State) (c x slot cc : Nat) (p : Prop) (hp : slot = x → p) :
    AtCrew s (landAt s c x cc) c slot (Calmed p) := by
  refine atCrew_mono (fun k k' h => ?_) (atCrew_mapCrew s c x slot _)
  by_cases e : slot = x
  · subst h; rw [if_pos e]
    refine ⟨?_, rfl, rfl, rfl, rfl, fun h => absurd (hp e) h⟩
    simp only [Crew.calm, Crew.sansRegs]
    cases k.region <;> rfl
  · subst h; rw [if_neg e]; exact calmed_refl ..

theorem sameBut_touchRun (s : State) (r : Run) : SameBut r.core s (touchRun s r) :=
  sameBut_foldl _ _ (fun _ _ => sameBut_mapCrew ..) _ _

theorem sameBut_landRun (s : State) (r : Run) (cc : Nat) : SameBut r.core s (landRun s r cc) :=
  sameBut_foldl _ _ (fun _ _ => sameBut_mapCrew ..) _ _

theorem calmed_touchRun (s : State) (r : Run) (slot : Nat) :
    AtCrew s (touchRun s r) r.core slot (Calmed (slot ∈ r.slots)) :=
  atCrew_foldl (calmed_refl _) (fun _ _ _ => calmed_trans) _ _
    (fun s x hx => calmed_touch s r.core x slot _ (fun e => e ▸ hx)) s

theorem calmed_landRun (s : State) (r : Run) (cc slot : Nat) :
    AtCrew s (landRun s r cc) r.core slot (Calmed (slot ∈ r.slots)) :=
  atCrew_foldl (calmed_refl _) (fun _ _ _ => calmed_trans) _ _
    (fun s x hx => calmed_land s r.core x slot cc _ (fun e => e ▸ hx)) s

theorem runs_foldl {α : Type} (f : State → α → State) (h : ∀ s a, (f s a).runs = s.runs)
    (l : List α) (s : State) : (l.foldl f s).runs = s.runs := by
  induction l generalizing s with
  | nil => rfl
  | cons a l ih => exact (ih _).trans (h s a)

theorem now_foldl {α : Type} (f : State → α → State) (h : ∀ s a, (f s a).now = s.now)
    (l : List α) (s : State) : (l.foldl f s).now = s.now := by
  induction l generalizing s with
  | nil => rfl
  | cons a l ih => exact (ih _).trans (h s a)

@[simp] theorem runs_touchRun (s : State) (r : Run) : (touchRun s r).runs = s.runs :=
  runs_foldl _ (fun _ _ => State.runs_mapCrew ..) ..

@[simp] theorem now_touchRun (s : State) (r : Run) : (touchRun s r).now = s.now :=
  now_foldl _ (fun _ _ => State.now_mapCrew ..) ..

@[simp] theorem runs_landRun (s : State) (r : Run) (cc : Nat) : (landRun s r cc).runs = s.runs :=
  runs_foldl _ (fun _ _ => State.runs_mapCrew ..) ..

@[simp] theorem now_landRun (s : State) (r : Run) (cc : Nat) : (landRun s r cc).now = s.now :=
  now_foldl _ (fun _ _ => State.now_mapCrew ..) ..

/-! ### Registers written for several lanes (R62, R102) -/

/-- The register u of lane m of a crew slot after a list of writes of n registers from v. -/
def afterWrites (v n : Nat) (l : List (LaneCtx × Nat)) (slot u m : Nat) (w : W32) : W32 :=
  l.foldl (fun w p => if p.1.slot = slot ∧ m = p.1.lane ∧ v ≤ u ∧ u < v + n
    then (splitRegs n p.2).getD (u - v) 0 else w) w

theorem writeLanes_spec (s : State) (c v n : Nat) (l : List (LaneCtx × Nat)) (slot : Nat)
    (hv : v + n ≤ 256) (hl : ∀ p ∈ l, p.1.lane < 64) :
    AtCrew s (writeLanes s c v n l) c slot fun k k' =>
      k'.sansRegs = k.sansRegs ∧ ((∀ p ∈ l, p.1.slot ≠ slot) → k' = k) ∧
      ∀ u m, m < 64 → regGet k' u m = afterWrites v n l slot u m (regGet k u m) := by
  induction l generalizing s with
  | nil => exact atCrew_refl fun k => ⟨rfl, fun _ => rfl, fun _ _ _ => rfl⟩
  | cons p l ih =>
    refine atCrew_trans ?_ (atCrew_mapCrew s c p.1.slot slot fun k => regWrite k v p.1.lane n p.2)
      (ih _ fun q hq => hl q (by simp [hq]))
    intro k k' k'' h h'
    obtain ⟨h1, h2, h3⟩ := h'
    by_cases e : slot = p.1.slot
    · rw [if_pos e] at h
      subst h
      refine ⟨by rw [h1, sansRegs_regWrite], fun h => absurd e.symm (h p (by simp)), ?_⟩
      intro u m hm
      rw [h3 u m hm, regGet_regWrite _ _ _ _ _ _ _ hv (hl p (by simp)) hm]
      simp only [afterWrites, List.foldl_cons, e, true_and]
    · rw [if_neg e] at h
      subst h
      refine ⟨h1, fun h => h2 fun q hq => h q (by simp [hq]), ?_⟩
      intro u m hm
      rw [h3 u m hm]
      have e' : ¬ p.1.slot = slot := fun h => e h.symm
      simp only [afterWrites, List.foldl_cons, e', false_and, if_false]

theorem runs_writeLanes (s : State) (c v n : Nat) (l : List (LaneCtx × Nat)) :
    (writeLanes s c v n l).runs = s.runs := runs_foldl _ (fun _ _ => State.runs_mapCrew ..) ..

theorem now_writeLanes (s : State) (c v n : Nat) (l : List (LaneCtx × Nat)) :
    (writeLanes s c v n l).now = s.now := now_foldl _ (fun _ _ => State.now_mapCrew ..) ..

theorem sameBut_writeLanes (s : State) (c v n : Nat) (l : List (LaneCtx × Nat)) :
    SameBut c s (writeLanes s c v n l) := sameBut_foldl _ _ (fun _ _ => sameBut_mapCrew ..) _ _

theorem afterWrites_none {v n : Nat} {l : List (LaneCtx × Nat)} {slot u m : Nat} (w : W32)
    (h : ∀ p ∈ l, ¬ (p.1.slot = slot ∧ m = p.1.lane ∧ v ≤ u ∧ u < v + n)) :
    afterWrites v n l slot u m w = w := by
  induction l generalizing w with
  | nil => rfl
  | cons p l ih =>
    simp only [afterWrites, List.foldl_cons, if_neg (h p (by simp))]
    exact ih w fun q hq => h q (by simp [hq])

theorem afterWrites_some {v n : Nat} {l : List (LaneCtx × Nat)} {slot u m x : Nat} (w : W32)
    (h1 : v ≤ u) (h2 : u < v + n)
    (hp : (∃ p ∈ l, p.1.slot = slot ∧ p.1.lane = m) ∨ w = (splitRegs n x).getD (u - v) 0)
    (huniq : ∀ q ∈ l, q.1.slot = slot → q.1.lane = m → q.2 = x) :
    afterWrites v n l slot u m w = (splitRegs n x).getD (u - v) 0 := by
  induction l generalizing w with
  | nil => exact hp.resolve_left (by simp)
  | cons q l ih =>
    refine ih _ ?_ fun q' hq' => huniq q' (by simp [hq'])
    by_cases hq : q.1.slot = slot ∧ q.1.lane = m
    · right
      dsimp only
      rw [if_pos ⟨hq.1, hq.2.symm, h1, h2⟩, huniq q (by simp) hq.1 hq.2]
    · rcases hp with ⟨p, hp, hps⟩ | hp
      · left
        rcases List.mem_cons.1 hp with e | e
        · exact absurd (e ▸ hps) hq
        · exact ⟨p, e, hps⟩
      · right
        dsimp only
        rw [if_neg fun h => hq ⟨h.1, h.2.1.symm⟩, hp]

/-! ### The fibres of a batch -/

/-- A fibre of the batch seen under a guard: it is one of the batch, and its crew and record are
those of the state. -/
theorem mem_lanesUnder {s : State} {r : Run} {g : Guard} {x : LaneCtx} :
    x ∈ lanesUnder s r g ↔ (x.lane, x.slot) ∈ r.fibres ∧ s.crew? r.core x.slot = some x.crew ∧
      x.crew.fibres.get? x.lane = some x.fib ∧ x.act = g.holds x.fib.pred := by
  unfold lanesUnder
  rw [List.mem_filterMap]
  constructor
  · rintro ⟨⟨lane, slot⟩, hm, h⟩
    dsimp only at h
    cases hk : s.crew? r.core slot with
    | none => simp [hk] at h
    | some k =>
      cases hf : k.fibres.get? lane with
      | none => simp [hk, hf] at h
      | some f =>
        simp only [hk, hf, Option.some.injEq] at h
        subst h
        exact ⟨hm, hk, hf, rfl⟩
  · rintro ⟨hm, hk, hf, ha⟩
    refine ⟨(x.lane, x.slot), hm, ?_⟩
    simp only [hk, hf]
    cases x; simp_all

theorem mem_dedup {α : Type} [BEq α] [LawfulBEq α] {x : α} {l : List α} :
    x ∈ dedup l ↔ x ∈ l := by
  induction l with
  | nil => rfl
  | cons a l ih =>
    simp only [dedup, List.mem_cons, List.mem_filter, ih, Bool.not_eq_true', beq_eq_false_iff_ne]
    constructor
    · rintro (h | ⟨h, _⟩)
      · exact .inl h
      · exact .inr h
    · rintro (h | h)
      · exact .inl h
      · by_cases e : x = a
        · exact .inl e
        · exact .inr ⟨h, e⟩

theorem mem_slots {r : Run} {slot : Nat} : slot ∈ r.slots ↔ ∃ lane, (lane, slot) ∈ r.fibres := by
  unfold Run.slots
  rw [mem_dedup, List.mem_map]
  constructor
  · rintro ⟨⟨a, b⟩, h, rfl⟩; exact ⟨a, h⟩
  · rintro ⟨a, h⟩; exact ⟨_, h, rfl⟩

/-- Two fibres of a batch in the same lane are the same (R36). -/
theorem Run.Placed.slot_eq {r : Run} (h : r.Placed) {lane a b : Nat} (ha : (lane, a) ∈ r.fibres)
    (hb : (lane, b) ∈ r.fibres) : a = b := by
  have hn := h.2.1
  revert ha hb hn
  generalize r.fibres = l
  intro ha hb hn
  induction l with
  | nil => simp at ha
  | cons p l ih =>
    simp only [List.map_cons, List.nodup_cons, List.mem_map, not_exists, not_and] at hn
    rcases List.mem_cons.1 ha with ea | ea <;> rcases List.mem_cons.1 hb with eb | eb
    · rw [← ea] at eb; exact (Prod.ext_iff.1 eb).2.symm
    · exact absurd (by rw [← ea]) (hn.1 _ eb)
    · exact absurd (by rw [← eb]) (hn.1 _ ea)
    · exact ih ea eb hn.2

/-! ### Latches (R64) -/

theorem latKey_inj {a b i j : Nat} (hi : i < 4) (hj : j < 4) (h : latKey a i = latKey b j) :
    a = b ∧ i = j := by
  unfold latKey at h; omega

theorem foldl_put_some {α β : Type} {f : β → Nat} {val : β → α} {l : List β} {j : Nat} {v : α}
    (t : Tab α) (hp : (∃ p ∈ l, f p = j) ∨ t.get? j = some v)
    (hu : ∀ p ∈ l, f p = j → val p = v) :
    (l.foldl (fun t p => t.put (f p) (val p)) t).get? j = some v := by
  induction l generalizing t with
  | nil => exact hp.resolve_left (by simp)
  | cons q l ih =>
    refine ih _ ?_ fun p hp => hu p (by simp [hp])
    by_cases hq : f q = j
    · right; rw [← hq, Tab.get?_put_self, hu q (by simp) hq]
    · rcases hp with ⟨p, hp, e⟩ | hp
      · left
        rcases List.mem_cons.1 hp with h | h
        · exact absurd (h ▸ e) hq
        · exact ⟨p, h, e⟩
      · right; rw [Tab.get?_put_ne _ _ (fun e => hq e.symm), hp]

theorem foldl_put_none {α β : Type} {f : β → Nat} {val : β → α} {l : List β} {j : Nat}
    (t : Tab α) (hp : ∀ p ∈ l, f p ≠ j) :
    (l.foldl (fun t p => t.put (f p) (val p)) t).get? j = t.get? j := by
  induction l generalizing t with
  | nil => rfl
  | cons q l ih =>
    refine (ih _ fun p h => hp p (by simp [h])).trans ?_
    rw [Tab.get?_put_ne _ _ (fun e => hp q (by simp) e.symm)]

/-! ### Ending a position -/

theorem finish_eq (s : State) (r : Run) (extra : Nat) (h : r.fibres ≠ []) :
    finish s r extra = { s with runs := s.runs.tail ++ [r.passed s extra] } := by
  unfold finish
  rw [if_neg fun e => h e.1]
  rfl

theorem issue_eq {ops : State → Run → List (Nat × Nat)} {body : State → Run → State} {s : State}
    {r : Run} (h : s.runs.head? = some r) (hi : interlocked s r (ops s r) = false) :
    issue ops body s = .next (body (touchRun s r) r) := by
  unfold issue
  cases hr : s.runs with
  | nil => simp [hr] at h
  | cons a l =>
    have : a = r := by simpa [hr] using h
    subst this
    simp [hi]

/-- The predicate-independent reading of sources does not see the close point. -/
theorem Calmed.srcVal {p : Prop} {k k' : Crew} (h : Calmed p k k') (r : Run) (lane : Nat) :
    Machine.srcVal k' r lane = Machine.srcVal k r lane := by
  funext w x
  cases x <;> simp only [Machine.srcVal, h.regGet]

theorem atCrew_trans_eq {s t u : State} {c slot : Nat} {R S T : Crew → Crew → Prop}
    (h : ∀ k k' k'', s.crew? c slot = some k → t.crew? c slot = some k' →
      u.crew? c slot = some k'' → R k k' → S k' k'' → T k k'')
    (hst : AtCrew s t c slot R) (htu : AtCrew t u c slot S) : AtCrew s u c slot T := by
  unfold AtCrew at *
  cases hs : s.crew? c slot <;> cases ht : t.crew? c slot <;> cases hu : u.crew? c slot <;>
    simp_all

/-! ### The granule copies of one register or one pair (R102) -/

theorem renameCc_le (l : List LaneCtx) (v n : Nat) (hn : n = 1 ∨ n = 2 ∧ v % 2 = 0) :
    renameCc l v n = 0 ∨ renameCc l v n = 2 ∨ renameCc l v n = 4 := by
  have hg : dedup ((List.range n).map fun i => (v + i) / 8) = [v / 8] := by
    rcases hn with rfl | ⟨rfl, h⟩
    · rfl
    · have e : (v + 1) / 8 = v / 8 := by omega
      have : (List.range 2).map (fun i => (v + i) / 8) = [v / 8, v / 8] := by
        simp [List.range_succ, e]
      rw [this]; simp [dedup]
  unfold renameCc
  simp only [hg]
  have key : ∀ m : Nat, (m = 0 ∨ m = 2 ∨ m = 4) → (l.foldl (fun m x => max m (copyCc x.crew *
      ([v / 8].filter fun g => !bit x.crew.dirty g).length)) m) = 0 ∨ (l.foldl (fun m x => max m
      (copyCc x.crew * ([v / 8].filter fun g => !bit x.crew.dirty g).length)) m) = 2 ∨
      (l.foldl (fun m x => max m (copyCc x.crew *
      ([v / 8].filter fun g => !bit x.crew.dirty g).length)) m) = 4 := by
    induction l with
    | nil => exact fun m h => h
    | cons x l ih =>
      intro m hm
      refine ih _ ?_
      unfold copyCc
      by_cases h1 : footNarrow x.crew.foot = true <;> by_cases h2 : bit x.crew.dirty (v / 8) = true <;>
        simp [h1, h2] <;> omega
  exact key 0 (.inl rfl)

/-! ### One result for each fibre -/

theorem splitRegs_low (w : W64) (n : Nat) (hn : 0 < n) :
    (splitRegs n w.toNat).getD 0 0 = w.setWidth 32 := by
  cases n with
  | zero => simp at hn
  | succ n => exact BitVec.eq_of_toNat_eq (by simp [splitRegs])

theorem splitRegs_high (w : W64) : (splitRegs 2 w.toNat).getD 1 0 = (w >>> 32).setWidth 32 := by
  exact BitVec.eq_of_toNat_eq (by simp [splitRegs, Nat.shiftRight_eq_div_pow])

theorem activeIn_iff {r : Run} {g : Guard} {slot : Nat} {k : Crew} {lane : Nat} :
    activeIn r g slot k lane = true ↔
      (lane, slot) ∈ r.fibres ∧ ∃ x, k.fibres.get? lane = some x ∧ g.holds x.pred = true := by
  unfold activeIn
  rw [Bool.and_eq_true, List.contains_iff_mem]
  cases k.fibres.get? lane <;> simp

/-- The results that an instruction writes, one for each active fibre. -/
def results (s : State) (r : Run) (g : Guard) (f : BitVec 16 → (Bool → Src → W64) → W64) :
    List (LaneCtx × Nat) :=
  ((lanesUnder s r g).filter (·.act)).map fun x =>
    (x, (f x.fib.pred (srcVal x.crew r x.lane)).toNat)

theorem mem_results {s : State} {r : Run} {g : Guard} {f} {p : LaneCtx × Nat} :
    p ∈ results s r g f ↔ p.1 ∈ lanesUnder s r g ∧ p.1.act = true ∧
      p.2 = (f p.1.fib.pred (srcVal p.1.crew r p.1.lane)).toNat := by
  unfold results
  simp only [List.mem_map, List.mem_filter]
  constructor
  · rintro ⟨x, ⟨h1, h2⟩, rfl⟩; exact ⟨h1, h2, rfl⟩
  · rintro ⟨h1, h2, h3⟩; exact ⟨p.1, ⟨h1, h2⟩, Prod.ext rfl h3.symm⟩

theorem afterWrites_results {s : State} {r : Run} {g : Guard} {f} {b slot v lane : Nat} {k : Crew}
    {wide : Bool} (hk : s.crew? r.core slot = some k) (hb : b < 256) :
    afterWrites b (if wide then 2 else 1) (results s r g f) slot v lane (regGet k v lane) =
      regAfter r g (.reg (BitVec.ofNat 8 b)) wide f slot k v lane := by
  have hb' : (BitVec.ofNat 8 b).toNat = b := by
    simp; omega
  unfold regAfter
  simp only [hb']
  by_cases ha : activeIn r g slot k lane = true
  · obtain ⟨hm, x, hx, hgx⟩ := activeIn_iff.1 ha
    have hmem : (⟨⟨lane, slot, k, x, true⟩, (f x.pred (srcVal k r lane)).toNat⟩ : LaneCtx × Nat) ∈
        results s r g f :=
      mem_results.2 ⟨mem_lanesUnder.2 ⟨hm, hk, hx, hgx.symm⟩, rfl, rfl⟩
    have hu : ∀ q ∈ results s r g f, q.1.slot = slot → q.1.lane = lane →
        q.2 = (f x.pred (srcVal k r lane)).toNat := by
      intro q hq hs hl
      obtain ⟨h1, _, h3⟩ := mem_results.1 hq
      obtain ⟨_, h5, h6, _⟩ := mem_lanesUnder.1 h1
      rw [hs, hk] at h5
      obtain rfl : k = q.1.crew := by simpa using h5
      rw [hl, hx] at h6
      obtain rfl : x = q.1.fib := by simpa using h6
      rw [h3, hl]
    have hpo : predOf k lane = x.pred := by unfold predOf; rw [hx]
    simp only [ha, if_true, hpo]
    by_cases hv : v = b
    · subst hv
      rw [if_pos rfl, afterWrites_some _ (Nat.le_refl _) (by split <;> omega)
        (.inl ⟨_, hmem, rfl, rfl⟩) hu, Nat.sub_self, splitRegs_low _ _ (by split <;> omega)]
    · rw [if_neg hv]
      by_cases hw : wide = true ∧ v = b + 1
      · obtain ⟨rfl, rfl⟩ := hw
        rw [if_pos (show true = true ∧ b + 1 = b + 1 from ⟨rfl, rfl⟩),
          afterWrites_some _ (by omega) (by simp) (.inl ⟨_, hmem, rfl, rfl⟩) hu]
        simp only [if_true, Nat.add_sub_cancel_left]
        exact splitRegs_high _
      · rw [if_neg hw]
        refine afterWrites_none _ fun q hq hh => ?_
        replace hh := hh.2.2
        cases wide
        · simp only [Bool.false_eq_true, if_false] at hh; omega
        · simp only [if_true] at hh
          simp only [true_and] at hw
          omega
  · simp only [ha, Bool.false_eq_true, if_false]
    refine afterWrites_none _ fun q hq hh => ha ?_
    obtain ⟨h1, h2, _⟩ := mem_results.1 hq
    obtain ⟨h4, h5, h6, h7⟩ := mem_lanesUnder.1 h1
    rw [hh.1, hk] at h5
    obtain rfl : k = q.1.crew := by simpa using h5
    rw [← hh.2.1] at h6
    exact activeIn_iff.2 ⟨by rw [← hh.1, hh.2.1]; exact h4, _, h6, by rw [← h7, h2]⟩

theorem lanesUnder_calm {s s1 : State} {r : Run} {g : Guard}
    (h : ∀ slot, AtCrew s s1 r.core slot (Calmed (slot ∈ r.slots))) {x : LaneCtx}
    (hx : x ∈ lanesUnder s1 r g) :
    ∃ k, s.crew? r.core x.slot = some k ∧ Calmed (x.slot ∈ r.slots) k x.crew := by
  obtain ⟨_, h2, _⟩ := mem_lanesUnder.1 hx
  have := h x.slot
  unfold AtCrew at this
  rw [h2] at this
  cases hk : s.crew? r.core x.slot with
  | none => simp [hk] at this
  | some k => rw [hk] at this; exact ⟨k, rfl, this⟩

theorem Calmed.activeIn {p : Prop} {k k' : Crew} (h : Calmed p k k') (r : Run) (g : Guard)
    (slot lane : Nat) : Machine.activeIn r g slot k' lane = Machine.activeIn r g slot k lane := by
  unfold Machine.activeIn; rw [h.fibres]

theorem Calmed.predOf {p : Prop} {k k' : Crew} (h : Calmed p k k') (lane : Nat) :
    Machine.predOf k' lane = Machine.predOf k lane := by
  unfold Machine.predOf; rw [h.fibres]

theorem Calmed.regAfter {p : Prop} {k k' : Crew} (h : Calmed p k k') (r : Run) (g : Guard) (d : Dst)
    (wide : Bool) (f) (slot v lane : Nat) :
    Machine.regAfter r g d wide f slot k' v lane = Machine.regAfter r g d wide f slot k v lane := by
  cases d <;> simp only [Machine.regAfter, h.activeIn, h.predOf, h.srcVal, h.regGet]

theorem Calmed.latchAfter {p : Prop} {k k' : Crew} (h : Calmed p k k') (r : Run) (g : Guard) (d : Dst)
    (wide : Bool) (f) (slot lane : Nat) :
    Machine.latchAfter r g d wide f slot k' lane = Machine.latchAfter r g d wide f slot k lane := by
  cases d <;> simp only [Machine.latchAfter, h.activeIn, h.predOf, pairAt, h.srcVal, h.regGet, h.foot]

theorem latchVal_eq {s : State} {r : Run} {g : Guard} {x : LaneCtx} (hx : x ∈ lanesUnder s r g)
    (d : Dst) (wide : Bool) (f : BitVec 16 → (Bool → Src → W64) → W64) :
    latchVal x wide d (f x.fib.pred (srcVal x.crew r x.lane)) =
      latchAfter r g d wide f x.slot x.crew x.lane := by
  obtain ⟨h1, _, h3, h4⟩ := mem_lanesUnder.1 hx
  have ha : activeIn r g x.slot x.crew x.lane = x.act := by
    rw [Bool.eq_iff_iff, activeIn_iff, h4]
    constructor
    · rintro ⟨_, y, hy, hg⟩; rw [h3] at hy; obtain rfl : x.fib = y := by simpa using hy
      exact hg
    · exact fun h => ⟨h1, _, h3, h⟩
  have hp : predOf x.crew x.lane = x.fib.pred := by unfold predOf; rw [h3]
  unfold latchVal latchAfter
  rw [ha, hp]
  split
  · rfl
  · cases d <;> simp [pairAt]

theorem fillLatches_some {s : State} {r : Run} {g : Guard} (hp : r.Placed) {v : LaneCtx → W64}
    {x : LaneCtx} (hx : x ∈ lanesUnder s r g) :
    (fillLatches r ((lanesUnder s r g).map fun x => (x, v x))).get? (latKey x.lane (r.pos % 4)) =
      some (v x) := by
  unfold fillLatches
  refine foldl_put_some (f := fun p : LaneCtx × W64 => latKey p.1.lane (r.pos % 4))
    (val := fun p => p.2) _ (.inl ⟨(x, v x), List.mem_map.2 ⟨x, hx, rfl⟩, rfl⟩) ?_
  intro q hq he
  obtain ⟨y, hy, rfl⟩ := List.mem_map.1 hq
  have hl : y.lane = x.lane := (latKey_inj (by omega) (by omega) he).1
  obtain ⟨a1, a2, a3, a4⟩ := mem_lanesUnder.1 hx
  obtain ⟨b1, b2, b3, b4⟩ := mem_lanesUnder.1 hy
  have hs : y.slot = x.slot := hp.slot_eq (hl ▸ b1) a1
  rw [hs, a2] at b2
  have hk : x.crew = y.crew := by simpa using b2
  rw [hl, ← hk, a3] at b3
  have hf : x.fib = y.fib := by simpa using b3
  have : y = x := by
    cases x; cases y; simp_all
  rw [this]

theorem fillLatches_none {s : State} {r : Run} {g : Guard} {v : LaneCtx → W64} {j : Nat}
    (h : ∀ p ∈ r.fibres, j ≠ latKey p.1 (r.pos % 4)) :
    (fillLatches r ((lanesUnder s r g).map fun x => (x, v x))).get? j = r.lat.get? j := by
  unfold fillLatches
  refine foldl_put_none (f := fun p : LaneCtx × W64 => latKey p.1.lane (r.pos % 4))
    (val := fun p => p.2) _ ?_
  intro q hq
  obtain ⟨y, hy, rfl⟩ := List.mem_map.1 hq
  exact fun e => h _ (mem_lanesUnder.1 hy).1 e.symm

/-- The clock of a core is as it was where only crews and batches have changed. -/
theorem SameBut.clockDiv {c : Nat} {s t : State} (h : SameBut c s t) : clockDiv t c = clockDiv s c := by
  have h1 : t.clusters = s.clusters := by simpa using congrArg State.clusters h.1
  have h2 : (t.core c).slow = (s.core c).slow := by simpa using congrArg Core.slow h.2.2
  unfold Machine.clockDiv State.cluster
  rw [h1, h2]

theorem passed_sameBut {s t : State} {r : Run} (h : SameBut r.core s t) (extra : Nat) :
    r.passed t extra = r.passed s extra := by
  have h1 : t.now = s.now := by simpa using congrArg State.now h.1
  simp only [Run.passed, h.clockDiv, h1]

/-- The end of a position whose result lands with its last extra cycle. -/
theorem finishLate_spec (u : State) (r : Run) (extra : Nat) (h : r.fibres ≠ []) :
    (finishLate u r extra).runs = u.runs.tail ++ [r.passed u extra] ∧
    SameBut r.core u (finishLate u r extra) ∧
    ∀ slot, AtCrew u (finishLate u r extra) r.core slot (Calmed (slot ∈ r.slots)) := by
  unfold finishLate
  rw [finish_eq _ _ _ h]
  exact ⟨by rw [passed_sameBut (sameBut_landRun u r extra), runs_landRun], sameBut_trans (sameBut_landRun u r extra) (sameBut_runs ..),
    fun slot => atCrew_congr rfl (calmed_landRun u r extra slot)⟩

/-- THE SPEC LEMMA of `compute`: where the batch issues, the instruction completes with the effect
of `Computes`. -/
theorem computes_of_compute {i : Instr} {g : Guard} {d : Dst} {wide : Bool} {extra : Nat}
    {f : BitVec 16 → (Bool → Src → W64) → W64}
    (h : ∀ s, exec i s = compute i g d wide extra (fun x rd => f x.fib.pred rd) s) :
    Computes i g d wide extra f := by
  intro s r ⟨hh, hi⟩ hp hd
  rw [h s]
  unfold compute
  rw [issue_eq hh hi]
  have hT := calmed_touchRun s r
  have e1 : (touchRun s r).runs = s.runs := runs_touchRun s r
  have e2 : (touchRun s r).now = s.now := now_touchRun s r
  have e3 := sameBut_touchRun s r
  revert hT e1 e2 e3
  generalize touchRun s r = s1
  intro hT e1 e2 e3
  have hlat1 : ∀ lane slot k x, (lane, slot) ∈ r.fibres → s.crew? r.core slot = some k →
      k.fibres.get? lane = some x →
      (fillLatches r ((lanesUnder s1 r g).map fun x => (x, latchVal x wide d
        (f x.fib.pred (srcVal x.crew r x.lane))))).get? (latKey lane (r.pos % 4)) =
        some (latchAfter r g d wide f slot k lane) := by
    intro lane slot k x hm hk hx
    have ht := hT slot
    unfold AtCrew at ht
    rw [hk] at ht
    cases hk1 : s1.crew? r.core slot with
    | none => simp [hk1] at ht
    | some k1 =>
      rw [hk1] at ht
      have hc : Calmed (slot ∈ r.slots) k k1 := ht
      have hx1 : (⟨lane, slot, k1, x, g.holds x.pred⟩ : LaneCtx) ∈ lanesUnder s1 r g :=
        mem_lanesUnder.2 ⟨hm, hk1, by rw [hc.fibres, hx], rfl⟩
      rw [fillLatches_some hp hx1 (v := fun x => latchVal x wide d
        (f x.fib.pred (srcVal x.crew r x.lane))), latchVal_eq hx1, hc.latchAfter]
  have hlat2 : ∀ j, (∀ p ∈ r.fibres, j ≠ latKey p.1 (r.pos % 4)) →
      (fillLatches r ((lanesUnder s1 r g).map fun x => (x, latchVal x wide d
        (f x.fib.pred (srcVal x.crew r x.lane))))).get? j = r.lat.get? j :=
    fun j hj => fillLatches_none hj
  revert hlat1 hlat2
  generalize hL : (fillLatches r ((lanesUnder s1 r g).map fun x => (x, latchVal x wide d
        (f x.fib.pred (srcVal x.crew r x.lane))))) = lat
  intro hlat1 hlat2
  -- what follows the writes, if any, is the same in every form of the destination
  have close : ∀ (u : State) (cc : Nat), u.runs = s.runs → u.now = s.now → SameBut r.core s u →
      (∀ slot, AtCrew s u r.core slot fun k k' => k'.calm = k.calm ∧ (slot ∉ r.slots → k' = k) ∧
        ∀ v lane, v < 256 → lane < 64 → regGet k' v lane = regAfter r g d wide f slot k v lane) →
      (cc = 0 ∨ cc = 2 ∨ cc = 4) →
      ∃ (t : State) (lat' : Tab W64) (copies : Nat),
      (Host.Outcome.next (finishLate u { r with lat := lat } (extra + cc)) : Out) = .next t ∧
      t.runs = s.runs.tail ++ [{ r.passed s (extra + copies) with lat := lat' }] ∧
      SameBut r.core s t ∧ SameBytes s t ∧
      (∀ slot, AtCrew s t r.core slot fun k k' =>
        k'.calm = k.calm ∧ (slot ∉ r.slots → k' = k) ∧
        ∀ v lane, v < 256 → lane < 64 → regGet k' v lane = regAfter r g d wide f slot k v lane) ∧
      (∀ lane slot k x, (lane, slot) ∈ r.fibres → s.crew? r.core slot = some k →
        k.fibres.get? lane = some x →
        lat'.get? (latKey lane (r.pos % 4)) = some (latchAfter r g d wide f slot k lane)) ∧
      (∀ j, (∀ p ∈ r.fibres, j ≠ latKey p.1 (r.pos % 4)) → lat'.get? j = r.lat.get? j) ∧
      (copies = 0 ∨ copies = 2 ∨ copies = 4) := by
    intro u cc hr hn hsb hcr hc
    obtain ⟨a1, a2, a3⟩ := finishLate_spec u { r with lat := lat } (extra + cc) hp.1
    have hs : SameBut r.core s (finishLate u { r with lat := lat } (extra + cc)) :=
      sameBut_trans hsb a2
    refine ⟨_, lat, cc, rfl, ?_, hs, sameBytes_sameBut hs, fun slot => ?_, hlat1, hlat2, hc⟩
    · rw [a1, hr, passed_sameBut (r := { r with lat := lat }) hsb]; rfl
    · refine atCrew_trans ?_ (hcr slot) (a3 slot)
      intro k k' k'' ⟨h1, h2, h3⟩ h4
      refine ⟨h4.1.trans h1, fun hn => (h4.2.2.2.2.2 hn).trans (h2 hn), fun v lane hv hl => ?_⟩
      rw [h4.regGet, h3 v lane hv hl]
  have plain : (∀ b, d ≠ .reg b) → ∀ slot, AtCrew s s1 r.core slot fun k k' =>
      k'.calm = k.calm ∧ (slot ∉ r.slots → k' = k) ∧
        ∀ v lane, v < 256 → lane < 64 → regGet k' v lane = regAfter r g d wide f slot k v lane := by
    intro hd' slot
    refine atCrew_mono ?_ (hT slot)
    intro k k' h3
    refine ⟨h3.1, h3.2.2.2.2.2, fun v lane _ _ => ?_⟩
    rw [h3.regGet]
    cases d with
    | reg b => exact absurd rfl (hd' b)
    | sup b => rfl
    | none => rfl
  cases d with
  | sup b =>
    dsimp only
    rw [hL]
    exact close s1 0 e1 e2 e3 (plain (by simp)) (.inl rfl)
  | none =>
    dsimp only
    rw [hL]
    exact close s1 0 e1 e2 e3 (plain (by simp)) (.inl rfl)
  | reg b =>
    dsimp only
    rw [hL]
    have hn : (if wide then 2 else 1) = 1 ∨ (if wide then 2 else 1) = 2 ∧ b.toNat % 2 = 0 := by
      cases wide
      · exact .inl rfl
      · exact .inr ⟨rfl, hd rfl⟩
    have hb := b.isLt
    have hv : b.toNat + (if wide then 2 else 1) ≤ 256 := by
      rcases hn with h | ⟨h, h'⟩ <;> rw [h] <;> omega
    have hW : ((((lanesUnder s1 r g).map fun x => (x, latchVal x wide (.reg b)
        (f x.fib.pred (srcVal x.crew r x.lane)))).filter fun p => p.1.act).map
        fun p => (p.1, p.2.toNat)) = results s1 r g f := by
      unfold results
      rw [List.filter_map, List.map_map]
      apply List.map_congr_left
      intro x hx
      simp only [Function.comp_def, List.mem_filter] at hx ⊢
      simp [latchVal, hx.2]
    rw [hW]
    refine close _ _ ((runs_writeLanes ..).trans e1) ((now_writeLanes ..).trans e2)
      (sameBut_trans e3 (sameBut_writeLanes ..)) ?_ (renameCc_le _ _ _ hn)
    intro slot
    have hw := writeLanes_spec s1 r.core b.toNat (if wide then 2 else 1) (results s1 r g f) slot hv
      (fun p hp' => hp.2.2 _ (mem_lanesUnder.1 (mem_results.1 hp').1).1)
    refine atCrew_trans_eq ?_ (hT slot) hw
    intro k k' k'' _ hk' _ h1 ⟨h2, h3, h4⟩
    refine ⟨?_, fun hns => ?_, fun v lane _ hl => ?_⟩
    · rw [← h1.1]
      unfold Crew.calm
      rw [h2]
      have := congrArg Crew.region h2
      simp only [Crew.sansRegs] at this
      rw [this]
    · rw [h3 fun p hp' e => hns ?_, h1.2.2.2.2.2 hns]
      exact mem_slots.2 ⟨_, e ▸ (mem_lanesUnder.1 (mem_results.1 hp').1).1⟩
    · rw [h4 v lane hl, afterWrites_results hk' hb, h1.regAfter]
      simp

/-! ### One predicate for each fibre -/

theorem sameBut_mapFibre (c x lane : Nat) (s : State) (f : Fibre → Fibre) :
    SameBut c s (s.mapFibre c x lane f) := sameBut_mapCrew ..

/-- A crew with one fibre changed. -/
theorem atCrew_mapFibre (s : State) (c x lane slot : Nat) (f : Fibre → Fibre) :
    AtCrew s (s.mapFibre c x lane f) c slot fun k k' =>
      { k' with fibres := k.fibres } = k ∧ (slot ≠ x → k' = k) ∧
      ∀ m, k'.fibres.get? m =
        if slot = x ∧ m = lane then (k.fibres.get? m).map f else k.fibres.get? m := by
  refine atCrew_mono ?_ (atCrew_mapCrew s c x slot _)
  intro k k' h
  by_cases e : slot = x
  · rw [if_pos e] at h
    subst h
    cases hk : k.fibres.get? lane with
    | none =>
      refine ⟨rfl, fun h => absurd e h, fun m => ?_⟩
      by_cases hm : m = lane
      · subst hm; simp [hk]
      · simp [hm]
    | some y =>
      refine ⟨rfl, fun h => absurd e h, fun m => ?_⟩
      by_cases hm : m = lane
      · subst hm; simp [hk, e]
      · simp [hm]
  · rw [if_neg e] at h
    subst h
    exact ⟨rfl, fun _ => rfl, fun m => by simp [e]⟩

/-- Fibres changed one after another, each by a function of its own. -/
theorem mapFibres_spec {α : Type} (s : State) (c slot : Nat) (l : List α) (sl la : α → Nat)
    (f : α → Fibre → Fibre) :
    AtCrew s (l.foldl (fun s a => s.mapFibre c (sl a) (la a) (f a)) s) c slot fun k k' =>
      { k' with fibres := k.fibres } = k ∧ ((∀ a ∈ l, sl a ≠ slot) → k' = k) ∧
      ∀ m, k'.fibres.get? m = l.foldl (fun o a =>
        if slot = sl a ∧ m = la a then o.map (f a) else o) (k.fibres.get? m) := by
  induction l generalizing s with
  | nil => exact atCrew_refl fun k => ⟨rfl, fun _ => rfl, fun _ => rfl⟩
  | cons a l ih =>
    refine atCrew_trans ?_ (atCrew_mapFibre s c (sl a) (la a) slot (f a)) (ih _)
    intro k k' k'' ⟨h1, h2, h3⟩ ⟨h4, h5, h6⟩
    refine ⟨?_, fun h => ?_, fun m => ?_⟩
    · rw [← h1]
      have := congrArg (fun q : Crew => { q with fibres := k.fibres }) h4
      simpa using this
    · rw [h5 fun b hb => h b (by simp [hb]), h2 fun e => h a (by simp) e.symm]
    · rw [h6 m, h3 m]; rfl

/-- THE SPEC LEMMA of `onPreds`. -/
theorem setsPreds_of_onPreds {i : Instr} {g : Guard}
    {f : BitVec 16 → (Bool → Src → W64) → BitVec 16}
    (h : ∀ s, exec i s = onPreds i g (fun x rd => f x.fib.pred rd) s) : SetsPreds i g f := by
  intro s r ⟨hh, hi⟩ hp
  rw [h s]
  unfold onPreds
  rw [issue_eq hh hi]
  have hT := calmed_touchRun s r
  have e1 : (touchRun s r).runs = s.runs := runs_touchRun s r
  have e2 : (touchRun s r).now = s.now := now_touchRun s r
  have e3 := sameBut_touchRun s r
  revert hT e1 e2 e3
  generalize touchRun s r = s1
  intro hT e1 e2 e3
  dsimp only
  rw [finish_eq _ _ _ hp.1, List.foldl_map]
  have hr : ∀ (l : List LaneCtx) (s : State), (l.foldl (fun s x => s.mapFibre r.core x.slot x.lane
      fun fb => { fb with pred := f x.fib.pred (srcVal x.crew r x.lane) }) s).runs = s.runs :=
    fun l s => runs_foldl _ (fun _ _ => State.runs_mapFibre ..) ..
  have hb : ∀ (l : List LaneCtx) (s : State), SameBut r.core s (l.foldl (fun s x =>
      s.mapFibre r.core x.slot x.lane
        fun fb => { fb with pred := f x.fib.pred (srcVal x.crew r x.lane) }) s) :=
    fun l s => sameBut_foldl _ _ (fun _ _ => sameBut_mapFibre ..) _ _
  have hs := sameBut_trans e3 (hb (activeLanes s1 r g) s1)
  refine ⟨_, rfl, ?_, sameBut_trans hs (sameBut_runs ..),
    sameBytes_sameBut (sameBut_trans hs (sameBut_runs ..)), fun slot => atCrew_congr rfl ?_⟩
  · rw [passed_sameBut hs]; simp only [hr, e1]
  · have hm := mapFibres_spec s1 r.core slot (activeLanes s1 r g) (·.slot) (·.lane)
      fun x fb => { fb with pred := f x.fib.pred (srcVal x.crew r x.lane) }
    refine atCrew_trans_eq ?_ (hT slot) hm
    intro k k' k'' _ hk' _ h1 ⟨h2, h3, h4⟩
    have hmem : ∀ {x}, x ∈ activeLanes s1 r g → x ∈ lanesUnder s1 r g ∧ x.act = true := by
      intro x hx; simpa [activeLanes] using hx
    refine ⟨?_, fun hns => ?_, fun v lane _ _ => ?_, fun lane => ?_⟩
    · rw [← h1.1]
      have := congrArg Crew.calm h2
      rw [← this, ← h1.fibres]
      rfl
    · rw [h3 fun x hx e => hns ?_, h1.2.2.2.2.2 hns]
      exact mem_slots.2 ⟨_, e ▸ (mem_lanesUnder.1 (hmem hx).1).1⟩
    · rw [← h1.regGet]
      have := congrArg (fun q => regGet q v lane) h2
      exact this
    · rw [h4 lane, ← h1.fibres]
      cases hx : k'.fibres.get? lane with
      | none =>
        have : ∀ l : List LaneCtx, l.foldl (fun (o : Option Fibre) a =>
            if slot = a.slot ∧ lane = a.lane then
              o.map (fun fb => { fb with pred := f a.fib.pred (srcVal a.crew r a.lane) })
            else o) none = none := by
          intro l
          induction l with
          | nil => rfl
          | cons a l ih => rw [List.foldl_cons]; split <;> exact ih
        exact this _
      | some x =>
        rw [← h1.activeIn, ← h1.srcVal, Option.map_some]
        have hq : ∀ q ∈ activeLanes s1 r g, slot = q.slot → lane = q.lane →
            q.crew = k' ∧ q.fib = x := by
          intro q hq e1 e2
          obtain ⟨_, b2, b3, _⟩ := mem_lanesUnder.1 (hmem hq).1
          rw [← e1, hk'] at b2
          have hk : k' = q.crew := by simpa using b2
          rw [← e2, ← hk, hx] at b3
          exact ⟨hk.symm, by simpa using b3.symm⟩
        by_cases ha : activeIn r g slot k' lane = true
        · rw [if_pos ha]
          obtain ⟨a1, y, a2, a3⟩ := activeIn_iff.1 ha
          rw [hx] at a2
          obtain rfl : x = y := by simpa using a2
          have hin : ∃ q ∈ activeLanes s1 r g, slot = q.slot ∧ lane = q.lane :=
            ⟨⟨lane, slot, k', x, true⟩, by
              simp only [activeLanes, List.mem_filter, and_true]
              exact mem_lanesUnder.2 ⟨a1, hk', hx, a3.symm⟩, rfl, rfl⟩
          have key : ∀ (l : List LaneCtx) (p : BitVec 16),
              (∀ q ∈ l, slot = q.slot → lane = q.lane → q.crew = k' ∧ q.fib = x) →
              ((∃ q ∈ l, slot = q.slot ∧ lane = q.lane) ∨ p = f x.pred (srcVal k' r lane)) →
              l.foldl (fun (o : Option Fibre) a =>
              if slot = a.slot ∧ lane = a.lane then
                o.map (fun fb => { fb with pred := f a.fib.pred (srcVal a.crew r a.lane) })
              else o) (some { x with pred := p }) =
                some { x with pred := f x.pred (srcVal k' r lane) } := by
            intro l
            induction l with
            | nil => intro p _ h; rw [h.resolve_left (by simp)]; rfl
            | cons a l ih =>
              intro p hu h
              rw [List.foldl_cons]
              by_cases e : slot = a.slot ∧ lane = a.lane
              · rw [if_pos e]
                obtain ⟨u1, u2⟩ := hu a (by simp) e.1 e.2
                rw [Option.map_some, u1, u2, ← e.2]
                exact ih _ (fun q hq => hu q (by simp [hq])) (.inr rfl)
              · rw [if_neg e]
                refine ih _ (fun q hq => hu q (by simp [hq])) ?_
                rcases h with ⟨q, hq, hh⟩ | h
                · rcases List.mem_cons.1 hq with e' | e'
                  · exact absurd (e' ▸ hh) e
                  · exact .inl ⟨q, e', hh⟩
                · exact .inr h
          exact key _ x.pred hq (.inl hin)
        · rw [if_neg ha]
          have key : ∀ l : List LaneCtx, (∀ q ∈ l, ¬ (slot = q.slot ∧ lane = q.lane)) →
              l.foldl (fun (o : Option Fibre) a =>
              if slot = a.slot ∧ lane = a.lane then
                o.map (fun fb => { fb with pred := f a.fib.pred (srcVal a.crew r a.lane) })
              else o) (some x) = some x := by
            intro l
            induction l with
            | nil => intro _; rfl
            | cons a l ih =>
              intro h
              rw [List.foldl_cons, if_neg (h a (by simp))]
              exact ih fun q hq => h q (by simp [hq])
          refine key _ fun q hq' hh => ha ?_
          obtain ⟨u1, u2⟩ := hq q hq' hh.1 hh.2
          obtain ⟨b1, b2, b3, b4⟩ := mem_lanesUnder.1 (hmem hq').1
          exact activeIn_iff.2 ⟨by rw [hh.1, hh.2]; exact b1, x, hx, by
            rw [← u2, ← b4, (hmem hq').2]⟩

end Sys2Proof.Machine
end

