-- ==== Sys2Proof/Laws/PerInstr.lean ====
section
/-! SUPPORT. Facts for every constructor of Instr. Guarded: an instruction form carries a guard or a
format C condition, and an event neither (R61, R63). -/
namespace Sys2Proof.Laws.Guarded
open Sys2Proof

/-- An instruction has a word just where it carries a guard or a condition. -/
def Statement (i : Instr) : Prop := (encode i).isSome = (i.guard?.isSome || i.ccond?.isSome)

theorem iadd (g : Guard) (t : ITy) (sat : Bool) (d : Dst) (a b : Src) :
    Statement (.iadd g t sat d a b) := rfl
theorem isub (g : Guard) (t : ITy) (sat : Bool) (d : Dst) (a b : Src) :
    Statement (.isub g t sat d a b) := rfl
theorem imul (g : Guard) (t : ITy) (d : Dst) (a b : Src) : Statement (.imul g t d a b) := rfl
theorem imulh (g : Guard) (t : ITy) (d : Dst) (a b : Src) : Statement (.imulh g t d a b) := rfl
theorem imad (g : Guard) (t : ITy) (d : Dst) (a b c : Src) : Statement (.imad g t d a b c) := rfl
theorem idiv (g : Guard) (t : ITy) (d : Dst) (a b : Src) : Statement (.idiv g t d a b) := rfl
theorem irem (g : Guard) (t : ITy) (d : Dst) (a b : Src) : Statement (.irem g t d a b) := rfl
theorem ineg (g : Guard) (t : ITy) (sat : Bool) (d : Dst) (a : Src) :
    Statement (.ineg g t sat d a) := rfl
theorem iabs (g : Guard) (t : ITy) (sat : Bool) (d : Dst) (a : Src) :
    Statement (.iabs g t sat d a) := rfl
theorem imin (g : Guard) (t : ITy) (d : Dst) (a b : Src) : Statement (.imin g t d a b) := rfl
theorem imax (g : Guard) (t : ITy) (d : Dst) (a b : Src) : Statement (.imax g t d a b) := rfl
theorem icmp (g : Guard) (c : Cond) (t : ITy) (d : Dst) (a b : Src) :
    Statement (.icmp g c t d a b) := rfl
theorem and (g : Guard) (t : ITy) (d : Dst) (a b : Src) : Statement (.and g t d a b) := rfl
theorem or (g : Guard) (t : ITy) (d : Dst) (a b : Src) : Statement (.or g t d a b) := rfl
theorem xor (g : Guard) (t : ITy) (d : Dst) (a b : Src) : Statement (.xor g t d a b) := rfl
theorem andn (g : Guard) (t : ITy) (d : Dst) (a b : Src) : Statement (.andn g t d a b) := rfl
theorem not (g : Guard) (t : ITy) (d : Dst) (a : Src) : Statement (.not g t d a) := rfl
theorem shl (g : Guard) (t : ITy) (d : Dst) (a b : Src) : Statement (.shl g t d a b) := rfl
theorem shr (g : Guard) (t : ITy) (d : Dst) (a b : Src) : Statement (.shr g t d a b) := rfl
theorem sar (g : Guard) (t : ITy) (d : Dst) (a b : Src) : Statement (.sar g t d a b) := rfl
theorem rot (g : Guard) (t : ITy) (d : Dst) (a b : Src) : Statement (.rot g t d a b) := rfl
theorem bfx (g : Guard) (t : ITy) (d : Dst) (a spec : Src) : Statement (.bfx g t d a spec) := rfl
theorem bfi (g : Guard) (t : ITy) (d : Dst) (a b spec : Src) :
    Statement (.bfi g t d a b spec) := rfl
theorem popc (g : Guard) (t : ITy) (d : Dst) (a : Src) : Statement (.popc g t d a) := rfl
theorem clz (g : Guard) (t : ITy) (d : Dst) (a : Src) : Statement (.clz g t d a) := rfl
theorem ctz (g : Guard) (t : ITy) (d : Dst) (a : Src) : Statement (.ctz g t d a) := rfl
theorem brev (g : Guard) (t : ITy) (d : Dst) (a : Src) : Statement (.brev g t d a) := rfl
theorem mov (g : Guard) (t : ITy) (d : Dst) (a : Src) : Statement (.mov g t d a) := rfl
theorem sel (g : Guard) (t : ITy) (p : BitVec 4) (d : Dst) (a b : Src) :
    Statement (.sel g t p d a b) := rfl
theorem lea (g : Guard) (wide : Bool) (sh : BitVec 4) (d : Dst) (a i : Src) :
    Statement (.lea g wide sh d a i) := rfl
theorem aadd (g : Guard) (wide : Bool) (d : Dst) (a b : Src) : Statement (.aadd g wide d a b) := rfl
theorem asub (g : Guard) (wide : Bool) (d : Dst) (a b : Src) : Statement (.asub g wide d a b) := rfl
theorem acmp (g : Guard) (c : Cond) (d : Dst) (a b : Src) : Statement (.acmp g c d a b) := rfl
theorem iaddImm32 (g : Guard) (d : Dst) (a : Src) (imm : BitVec 31) :
    Statement (.iaddImm32 g d a imm) := rfl
theorem isubImm32 (g : Guard) (d : Dst) (a : Src) (imm : BitVec 31) :
    Statement (.isubImm32 g d a imm) := rfl
theorem imulImm32 (g : Guard) (d : Dst) (a : Src) (imm : BitVec 31) :
    Statement (.imulImm32 g d a imm) := rfl
theorem andImm32 (g : Guard) (d : Dst) (a : Src) (imm : BitVec 31) :
    Statement (.andImm32 g d a imm) := rfl
theorem orImm32 (g : Guard) (d : Dst) (a : Src) (imm : BitVec 31) :
    Statement (.orImm32 g d a imm) := rfl
theorem xorImm32 (g : Guard) (d : Dst) (a : Src) (imm : BitVec 31) :
    Statement (.xorImm32 g d a imm) := rfl
theorem shlImm32 (g : Guard) (d : Dst) (a : Src) (n : BitVec 5) :
    Statement (.shlImm32 g d a n) := rfl
theorem shrImm32 (g : Guard) (d : Dst) (a : Src) (n : BitVec 5) :
    Statement (.shrImm32 g d a n) := rfl
theorem sarImm32 (g : Guard) (d : Dst) (a : Src) (n : BitVec 5) :
    Statement (.sarImm32 g d a n) := rfl
theorem aaddImm32 (g : Guard) (d : Dst) (a : Src) (imm : BitVec 31) :
    Statement (.aaddImm32 g d a imm) := rfl
theorem asubImm32 (g : Guard) (d : Dst) (a : Src) (imm : BitVec 31) :
    Statement (.asubImm32 g d a imm) := rfl
theorem movi (g : Guard) (d : Dst) (imm : BitVec 31) : Statement (.movi g d imm) := rfl
theorem iaddImm64 (g : Guard) (d : Dst) (a : Src) (imm : BitVec 31) :
    Statement (.iaddImm64 g d a imm) := rfl
theorem isubImm64 (g : Guard) (d : Dst) (a : Src) (imm : BitVec 31) :
    Statement (.isubImm64 g d a imm) := rfl
theorem imulImm64 (g : Guard) (d : Dst) (a : Src) (imm : BitVec 31) :
    Statement (.imulImm64 g d a imm) := rfl
theorem andImm64 (g : Guard) (d : Dst) (a : Src) (imm : BitVec 31) :
    Statement (.andImm64 g d a imm) := rfl
theorem orImm64 (g : Guard) (d : Dst) (a : Src) (imm : BitVec 31) :
    Statement (.orImm64 g d a imm) := rfl
theorem xorImm64 (g : Guard) (d : Dst) (a : Src) (imm : BitVec 31) :
    Statement (.xorImm64 g d a imm) := rfl
theorem shlImm64 (g : Guard) (d : Dst) (a : Src) (n : BitVec 6) :
    Statement (.shlImm64 g d a n) := rfl
theorem shrImm64 (g : Guard) (d : Dst) (a : Src) (n : BitVec 6) :
    Statement (.shrImm64 g d a n) := rfl
theorem sarImm64 (g : Guard) (d : Dst) (a : Src) (n : BitVec 6) :
    Statement (.sarImm64 g d a n) := rfl
theorem aaddImm64 (g : Guard) (d : Dst) (a : Src) (imm : BitVec 31) :
    Statement (.aaddImm64 g d a imm) := rfl
theorem asubImm64 (g : Guard) (d : Dst) (a : Src) (imm : BitVec 31) :
    Statement (.asubImm64 g d a imm) := rfl
theorem moviPair (g : Guard) (d : Dst) (imm : BitVec 31) : Statement (.moviPair g d imm) := rfl
theorem movw (g : Guard) (d : Dst) (imm : BitVec 32) : Statement (.movw g d imm) := rfl
theorem pset (g : Guard) (c : Cond) (t : ITy) (pd : BitVec 4) (a b : Src) :
    Statement (.pset g c t pd a b) := rfl
theorem pand (g : Guard) (pd pa pb : BitVec 4) (na nb : Bool) :
    Statement (.pand g pd pa pb na nb) := rfl
theorem por (g : Guard) (pd pa pb : BitVec 4) (na nb : Bool) :
    Statement (.por g pd pa pb na nb) := rfl
theorem pxor (g : Guard) (pd pa pb : BitVec 4) (na nb : Bool) :
    Statement (.pxor g pd pa pb na nb) := rfl
theorem pnot (g : Guard) (pd pa : BitVec 4) : Statement (.pnot g pd pa) := rfl
theorem br (c : CCond) (disp : BitVec 33) : Statement (.br c disp) := rfl
theorem brx (g : Guard) (a : Src) : Statement (.brx g a) := rfl
theorem call (c : CCond) (disp : BitVec 33) (link : BitVec 8) : Statement (.call c disp link) := rfl
theorem ret (g : Guard) (a : Src) : Statement (.ret g a) := rfl
theorem fork (c : CCond) (disp : BitVec 33) (d : Option (BitVec 8)) :
    Statement (.fork c disp d) := by
  cases d <;> rfl
theorem quit (g : Guard) : Statement (.quit g) := rfl
theorem yield (g : Guard) : Statement (.yield g) := rfl
theorem cont (c : CCond) (disp : BitVec 33) : Statement (.cont c disp) := rfl
theorem vote (g : Guard) (m : VoteMode) (cnt narrow : Bool) (p : BitVec 4) (d : Dst) (mask : Src) :
    Statement (.vote g m cnt narrow p d mask) := rfl
theorem shfl (g : Guard) (m : ShflMode) (t : ITy) (d : Dst) (a b mask : Src) :
    Statement (.shfl g m t d a b mask) := rfl
theorem red (g : Guard) (op : RedOp) (t : RedTy) (d : Dst) (a mask : Src) :
    Statement (.red g op t d a mask) := rfl
theorem bar (g : Guard) (grp : BitVec 8) : Statement (.bar g grp) := rfl
theorem arrive (g : Guard) (grp : BitVec 8) : Statement (.arrive g grp) := rfl
theorem await (g : Guard) (grp : BitVec 8) : Statement (.await g grp) := rfl
theorem nop (g : Guard) : Statement (.nop g) := rfl
theorem fadd (g : Guard) (rm : Rm) (t : FTy) (d : Dst) (a b : Src) :
    Statement (.fadd g rm t d a b) := rfl
theorem fsub (g : Guard) (rm : Rm) (t : FTy) (d : Dst) (a b : Src) :
    Statement (.fsub g rm t d a b) := rfl
theorem fmul (g : Guard) (rm : Rm) (t : FTy) (d : Dst) (a b : Src) :
    Statement (.fmul g rm t d a b) := rfl
theorem fma (g : Guard) (rm : Rm) (t : FTy) (d : Dst) (a b c : Src) :
    Statement (.fma g rm t d a b c) := rfl
theorem fmin (g : Guard) (t : FTy) (d : Dst) (a b : Src) : Statement (.fmin g t d a b) := rfl
theorem fmax (g : Guard) (t : FTy) (d : Dst) (a b : Src) : Statement (.fmax g t d a b) := rfl
theorem fabs (g : Guard) (t : FTy) (d : Dst) (a : Src) : Statement (.fabs g t d a) := rfl
theorem fneg (g : Guard) (t : FTy) (d : Dst) (a : Src) : Statement (.fneg g t d a) := rfl
theorem fcmp (g : Guard) (c : FCond) (t : FTy) (d : Dst) (a b : Src) :
    Statement (.fcmp g c t d a b) := rfl
theorem fclass (g : Guard) (t : FTy) (d : Dst) (a : Src) : Statement (.fclass g t d a) := rfl
theorem frcp (g : Guard) (rm : Rm) (t : FTy) (d : Dst) (a : Src) :
    Statement (.frcp g rm t d a) := rfl
theorem frsq (g : Guard) (rm : Rm) (t : FTy) (d : Dst) (a : Src) :
    Statement (.frsq g rm t d a) := rfl
theorem fsqrt (g : Guard) (rm : Rm) (t : FTy) (d : Dst) (a : Src) :
    Statement (.fsqrt g rm t d a) := rfl
theorem fexp2 (g : Guard) (rm : Rm) (d : Dst) (a : Src) : Statement (.fexp2 g rm d a) := rfl
theorem flog2 (g : Guard) (rm : Rm) (d : Dst) (a : Src) : Statement (.flog2 g rm d a) := rfl
theorem fsin (g : Guard) (rm : Rm) (d : Dst) (a : Src) : Statement (.fsin g rm d a) := rfl
theorem fcos (g : Guard) (rm : Rm) (d : Dst) (a : Src) : Statement (.fcos g rm d a) := rfl
theorem fround (g : Guard) (rm : Rm) (t : FTy) (d : Dst) (a : Src) :
    Statement (.fround g rm t d a) := rfl
theorem fdiv (g : Guard) (rm : Rm) (t : FTy) (d : Dst) (a b : Src) :
    Statement (.fdiv g rm t d a b) := rfl
theorem dp4 (g : Guard) (rm : Rm) (ta tb : NTy) (d : Dst) (a b c : Src) :
    Statement (.dp4 g rm ta tb d a b c) := rfl
theorem hfma2 (g : Guard) (rm : Rm) (t : FTy) (d : Dst) (a b c : Src) :
    Statement (.hfma2 g rm t d a b c) := rfl
theorem sclq (g : Guard) (near : Bool) (d : Dst) (a b : Src) : Statement (.sclq g near d a b) := rfl
theorem cvt (g : Guard) (rm : Rm) (sat : Bool) (td ts : NTy) (d : Dst) (a : Src) :
    Statement (.cvt g rm sat td ts d a) := rfl
theorem cvtEf (g : Guard) (sat : Bool) (td : FTy) (d : Dst) (a : Src) (comp : BitVec 8) :
    Statement (.cvtEf g sat td d a comp) := rfl
theorem cbenc (g : Guard) (nib : BitVec 3) (d : Dst) (a : Src) (scale : BitVec 8) (c : Src) :
    Statement (.cbenc g nib d a scale c) := rfl
theorem cbdec (g : Guard) (nib : BitVec 3) (d : Dst) (a : Src) (scale : BitVec 8) :
    Statement (.cbdec g nib d a scale) := rfl
theorem ldG (g : Guard) (d : Dst) (m : MAddr) (sz : Size) (sx ev : Bool) :
    Statement (.ldG g d m sz sx ev) := rfl
theorem ldS (g : Guard) (d : Dst) (m : MAddr) (sz : Size) (sx : Bool) :
    Statement (.ldS g d m sz sx) := rfl
theorem ldW (g : Guard) (d : Dst) (m : MAddr) (sz : Size) (sx : Bool) :
    Statement (.ldW g d m sz sx) := rfl
theorem ldP (g : Guard) (d : Dst) (m : MAddr) (sz : Size) (sx ev : Bool) :
    Statement (.ldP g d m sz sx ev) := rfl
theorem ldGIo (g : Guard) (d : Dst) (m : MAddr) (sz : Size) : Statement (.ldGIo g d m sz) := rfl
theorem stG (g : Guard) (a : Src) (m : MAddr) (sz : Size) (ev : Bool) :
    Statement (.stG g a m sz ev) := rfl
theorem stS (g : Guard) (a : Src) (m : MAddr) (sz : Size) : Statement (.stS g a m sz) := rfl
theorem stW (g : Guard) (a : Src) (m : MAddr) (sz : Size) : Statement (.stW g a m sz) := rfl
theorem stP (g : Guard) (a : Src) (m : MAddr) (sz : Size) (ev : Bool) :
    Statement (.stP g a m sz ev) := rfl
theorem ldAcq (g : Guard) (d : Dst) (m : MAddr) (sz : Size) (sc : Scope) :
    Statement (.ldAcq g d m sz sc) := rfl
theorem stRel (g : Guard) (a : Src) (m : MAddr) (sz : Size) (sc : Scope) :
    Statement (.stRel g a m sz sc) := rfl
theorem atomAdd (g : Guard) (d : BitVec 8) (m : MAddr) (sz : Size) (sc : Scope) (o : AOrd) :
    Statement (.atomAdd g d m sz sc o) := rfl
theorem atomMin (g : Guard) (d : BitVec 8) (m : MAddr) (sz : Size) (sc : Scope) (o : AOrd) (sgn : Bool) :
    Statement (.atomMin g d m sz sc o sgn) := rfl
theorem atomMax (g : Guard) (d : BitVec 8) (m : MAddr) (sz : Size) (sc : Scope) (o : AOrd) (sgn : Bool) :
    Statement (.atomMax g d m sz sc o sgn) := rfl
theorem atomAnd (g : Guard) (d : BitVec 8) (m : MAddr) (sz : Size) (sc : Scope) (o : AOrd) :
    Statement (.atomAnd g d m sz sc o) := rfl
theorem atomOr (g : Guard) (d : BitVec 8) (m : MAddr) (sz : Size) (sc : Scope) (o : AOrd) :
    Statement (.atomOr g d m sz sc o) := rfl
theorem atomXor (g : Guard) (d : BitVec 8) (m : MAddr) (sz : Size) (sc : Scope) (o : AOrd) :
    Statement (.atomXor g d m sz sc o) := rfl
theorem atomXchg (g : Guard) (d : BitVec 8) (m : MAddr) (sz : Size) (sc : Scope) (o : AOrd) :
    Statement (.atomXchg g d m sz sc o) := rfl
theorem atomCas (g : Guard) (d : BitVec 8) (m : MAddr) (sz : Size) (sc : Scope) (o : AOrd) :
    Statement (.atomCas g d m sz sc o) := rfl
theorem atomFireAndForget (g : Guard) (op : AtomOp) (sgn : Bool) (d : BitVec 8) (m : MAddr) (sz : Size) :
    Statement (.atomFireAndForget g op sgn d m sz) := rfl
theorem ared (g : Guard) (op : AredOp) (a : Src) (m : MAddr) (sz : Size) :
    Statement (.ared g op a m sz) := rfl
theorem phase (g : Guard) (sc : Scope) : Statement (.phase g sc) := rfl
theorem fence (g : Guard) : Statement (.fence g) := rfl
theorem prfD (g : Guard) (lvl : PrfLevel) (m : MAddr) : Statement (.prfD g lvl m) := rfl
theorem prfI (g : Guard) (m : MAddr) : Statement (.prfI g m) := rfl
theorem invD (g : Guard) (sc : Scope) (m : MAddr) : Statement (.invD g sc m) := rfl
theorem invI (g : Guard) (sc : Scope) (m : MAddr) : Statement (.invI g sc m) := rfl
theorem invIall (g : Guard) (sc : Scope) : Statement (.invIall g sc) := rfl
theorem invTlb (g : Guard) (sc : Scope) (m : MAddr) : Statement (.invTlb g sc m) := rfl
theorem wbk (g : Guard) (mem : Bool) (m : MAddr) : Statement (.wbk g mem m) := rfl
theorem orsv (g : Guard) (k : BitVec 4) (q mask : Src) (pl : PlaceOp) :
    Statement (.orsv g k q mask pl) := rfl
theorem orel (g : Guard) (k : BitVec 4) (mask : Src) : Statement (.orel g k mask) := rfl
theorem omap (g : Guard) (k : BitVec 4) (m mask : Src) (pl : PlaceOp) :
    Statement (.omap g k m mask pl) := rfl
theorem mma (g : Guard) (ra rb : BitVec 4) (spec mask : Src) :
    Statement (.mma g ra rb spec mask) := rfl
theorem mmaJoint (g : Guard) (ra rb : BitVec 4) (spec mask : Src) :
    Statement (.mmaJoint g ra rb spec mask) := rfl
theorem mmaz (g : Guard) (ra rb : BitVec 4) (spec mask : Src) :
    Statement (.mmaz g ra rb spec mask) := rfl
theorem aclr (g : Guard) (spec mask : Src) : Statement (.aclr g spec mask) := rfl
theorem ard (g : Guard) (lg : BitVec 3) (d : Dst) (spec mask : Src) :
    Statement (.ard g lg d spec mask) := rfl
theorem awr (g : Guard) (lg : BitVec 3) (spec mask a : Src) :
    Statement (.awr g lg spec mask a) := rfl
theorem ascl (g : Guard) (spec mask a : Src) : Statement (.ascl g spec mask a) := rfl
theorem gang (g : Guard) (c : BitVec 3) (key mask : Src) : Statement (.gang g c key mask) := rfl
theorem gangLeave (g : Guard) (key mask : Src) : Statement (.gangLeave g key mask) := rfl
theorem cpy (g : Guard) (nw : Bool) (d : Dst) (off mask : Src) (pl : PlaceOp) :
    Statement (.cpy g nw d off mask pl) := rfl
theorem cpyT (g : Guard) (nw : Bool) (d : Dst) (off mask : Src) (pl : PlaceOp) :
    Statement (.cpyT g nw d off mask pl) := rfl
theorem cwait (g : Guard) (poll : Bool) (d : Dst) (h mask : Src) :
    Statement (.cwait g poll d h mask) := rfl
theorem node (g : Guard) (kind : BitVec 2) (keep : Bool) (d : Dst) (off mask : Src) :
    Statement (.node g kind keep d off mask) := rfl
theorem nlink (g : Guard) (from_ mask to_ : Src) : Statement (.nlink g from_ mask to_) := rfl
theorem narm (g : Guard) (h mask : Src) : Statement (.narm g h mask) := rfl
theorem sbind (g : Guard) (store : Bool) (q : BitVec 2) (d : Dst) (off mask : Src) (pl : PlaceOp) :
    Statement (.sbind g store q d off mask pl) := rfl
theorem srun (g : Guard) (h mask : Src) : Statement (.srun g h mask) := rfl
theorem sstop (g : Guard) (h mask : Src) : Statement (.sstop g h mask) := rfl
theorem rfill (g : Guard) (ring : Bool) (r : BitVec 4) (d : Dst) (a mask : Src) :
    Statement (.rfill g ring r d a mask) := rfl
theorem rdrain (g : Guard) (r : BitVec 4) (d : Dst) (a mask : Src) :
    Statement (.rdrain g r d a mask) := rfl
theorem spawn (g : Guard) (f : BitVec 5) (t arg : Src) : Statement (.spawn g f t arg) := rfl
theorem launch (g : Guard) (p : Src) : Statement (.launch g p) := rfl
theorem qbind (g : Guard) (q : BitVec 2) (d : BitVec 8) (spec : Src) :
    Statement (.qbind g q d spec) := rfl
theorem qpop (g : Guard) (q : BitVec 2) : Statement (.qpop g q) := rfl
theorem qpush (g : Guard) (q : BitVec 2) : Statement (.qpush g q) := rfl
theorem sigPut (g : Guard) (r : BitVec 4) (n : Src) : Statement (.sigPut g r n) := rfl
theorem sigTake (g : Guard) (r : BitVec 4) (n : Src) : Statement (.sigTake g r n) := rfl
theorem sigFill (g : Guard) (w : Bool) (r : BitVec 4) (d : Dst) (n : Src) :
    Statement (.sigFill g w r d n) := rfl
theorem sigRoom (g : Guard) (w : Bool) (r : BitVec 4) (d : Dst) (n : Src) :
    Statement (.sigRoom g w r d n) := rfl
theorem gate (g : Guard) (k : BitVec 4) : Statement (.gate g k) := rfl
theorem rel (g : Guard) (k : BitVec 4) : Statement (.rel g k) := rfl
theorem tbrd (g : Guard) (n : BitVec 3) (d : Dst) (i : Src) : Statement (.tbrd g n d i) := rfl
theorem tbwr (g : Guard) (n : BitVec 3) (i w : Src) : Statement (.tbwr g n i w) := rfl
theorem tbwrSwap (g : Guard) (i j : Src) : Statement (.tbwrSwap g i j) := rfl
theorem ccreq (g : Guard) (z f : Src) : Statement (.ccreq g z f) := rfl
theorem ccrel (g : Guard) (z : Src) : Statement (.ccrel g z) := rfl
theorem bread (g : Guard) (mb : Bool) (d : Dst) : Statement (.bread g mb d) := rfl
theorem bgive (g : Guard) (mb : Bool) (c a : Src) : Statement (.bgive g mb c a) := rfl
theorem btopAdd (g : Guard) (mb : Bool) (c a : Src) : Statement (.btopAdd g mb c a) := rfl
theorem btopSet (g : Guard) (mb : Bool) (c a : Src) : Statement (.btopSet g mb c a) := rfl
theorem tick (g : Guard) (d : Dst) : Statement (.tick g d) := rfl
theorem tkt (g : Guard) (k : BitVec 5) (d : Dst) : Statement (.tkt g k d) := rfl
theorem wdogSet (g : Guard) (a : Src) : Statement (.wdogSet g a) := rfl
theorem wdogPet (g : Guard) : Statement (.wdogPet g) := rfl
theorem wdogBeat (g : Guard) : Statement (.wdogBeat g) := rfl
theorem pcr (g : Guard) (k : BitVec 4) (d : Dst) : Statement (.pcr g k d) := rfl
theorem crsv (g : Guard) (k : BitVec 4) (a : Src) : Statement (.crsv g k a) := rfl
theorem trap (g : Guard) (code : BitVec 16) : Statement (.trap g code) := rfl
theorem brk (g : Guard) (code : BitVec 16) : Statement (.brk g code) := rfl
theorem eretRetry (g : Guard) (slot mask : Src) : Statement (.eretRetry g slot mask) := rfl
theorem eretNext (g : Guard) (slot mask : Src) : Statement (.eretNext g slot mask) := rfl
theorem eretCont (g : Guard) (slot mask : Src) : Statement (.eretCont g slot mask) := rfl
theorem eretQuit (g : Guard) (slot mask : Src) : Statement (.eretQuit g slot mask) := rfl
theorem halt (g : Guard) (code : Src) : Statement (.halt g code) := rfl
theorem haltLaunch (g : Guard) (idx : Src) : Statement (.haltLaunch g idx) := rfl
theorem sysrd (g : Guard) (n : BitVec 16) (sel : BitVec 7) (d : Dst) :
    Statement (.sysrd g n sel d) := rfl
theorem syswr (g : Guard) (n : BitVec 16) (sel : BitVec 7) (a : Src) :
    Statement (.syswr g n sel a) := rfl
theorem migMove (g : Guard) (pl : PlaceOp) : Statement (.migMove g pl) := rfl
theorem migSave (g : Guard) (slot addr : Src) : Statement (.migSave g slot addr) := rfl
theorem migLoad (g : Guard) (addr : Src) (pl : PlaceOp) : Statement (.migLoad g addr pl) := rfl
theorem migLsave (g : Guard) (idx addr : Src) : Statement (.migLsave g idx addr) := rfl
theorem migLload (g : Guard) (org addr : Src) : Statement (.migLload g org addr) := rfl
theorem moduleReset (failed : List (BitVec 16)) (badKeys : List Nat) (trained : Bool) :
    Statement (.moduleReset failed badKeys trained) := rfl
theorem bootGoTimeout : Statement (.bootGoTimeout) := rfl
theorem bootctlGo (stage : BitVec 24) (src : Bool) : Statement (.bootctlGo stage src) := rfl
theorem bootctlProg : Statement (.bootctlProg) := rfl
theorem bootctlLock : Statement (.bootctlLock) := rfl
theorem attctlGo : Statement (.attctlGo) := rfl
theorem attestationDone : Statement (.attestationDone) := rfl
theorem bistctlRun : Statement (.bistctlRun) := rfl
theorem bistDone (failed : List (BitVec 16)) : Statement (.bistDone failed) := rfl
theorem qdoorWrite (size : Nat) (w : W64) : Statement (.qdoorWrite size w) := rfl
theorem controlBlockReread (walker : Nat) : Statement (.controlBlockReread walker) := rfl
theorem walkerSlotAssign : Statement (.walkerSlotAssign) := rfl
theorem packetRead (walker : Nat) : Statement (.packetRead walker) := rfl
theorem packetBarRelease (walker : Nat) : Statement (.packetBarRelease walker) := rfl
theorem launchPost (walker : Nat) : Statement (.launchPost walker) := rfl
theorem waitPacketPoll (walker : Nat) : Statement (.waitPacketPoll walker) := rfl
theorem pendingFaultServed (queue : Nat) : Statement (.pendingFaultServed queue) := rfl
theorem launchCheck (core : Nat) (ticket : Nat) : Statement (.launchCheck core ticket) := rfl
theorem activeLaunchEntry : Statement (.activeLaunchEntry) := rfl
theorem crewPlace (core : Nat) : Statement (.crewPlace core) := rfl
theorem launchComplete (idx : Nat) : Statement (.launchComplete idx) := rfl
theorem dependantEviction (core : Nat) : Statement (.dependantEviction core) := rfl
theorem binAgeReady (core bin : Nat) : Statement (.binAgeReady core bin) := rfl
theorem gatherTimeout (core bin : Nat) : Statement (.gatherTimeout core bin) := rfl
theorem batchIssue (core : Nat) : Statement (.batchIssue core) := rfl
theorem instructionFillDone (core : Nat) : Statement (.instructionFillDone core) := rfl
theorem clauseEnd : Statement (.clauseEnd) := rfl
theorem regionOpenAtIssue (core : Nat) (idx : Nat) : Statement (.regionOpenAtIssue core idx) := rfl
theorem quietRegionOpen (core : Nat) (idx : Nat) : Statement (.quietRegionOpen core idx) := rfl
theorem resultWriteback (core slot flight : Nat) :
    Statement (.resultWriteback core slot flight) := rfl
theorem rendezvousComplete (core slot idx : Nat) :
    Statement (.rendezvousComplete core slot idx) := rfl
theorem regionClear (core slot : Nat) : Statement (.regionClear core slot) := rfl
theorem sensorReport (sensor : Nat) : Statement (.sensorReport sensor) := rfl
theorem restartReissue (core slot : Nat) : Statement (.restartReissue core slot) := rfl
theorem lodgeGrant (core : Nat) : Statement (.lodgeGrant core) := rfl
theorem lodgeStallBreak (core : Nat) : Statement (.lodgeStallBreak core) := rfl
theorem stagingArrival (core die : Nat) : Statement (.stagingArrival core die) := rfl
theorem stagingSpaceFree (core die : Nat) : Statement (.stagingSpaceFree core die) := rfl
theorem stagingAck (core : Nat) (entry : Nat) : Statement (.stagingAck core entry) := rfl
theorem clearMessage (core die : Nat) : Statement (.clearMessage core die) := rfl
theorem squashMessage (core die : Nat) : Statement (.squashMessage core die) := rfl
theorem passSensorReport (sensor : Nat) : Statement (.passSensorReport sensor) := rfl
theorem translationWalk (cluster : Nat) : Statement (.translationWalk cluster) := rfl
theorem homeAccessArrival (core die : Nat) : Statement (.homeAccessArrival core die) := rfl
theorem loadDataReturn (core slot flight : Nat) (reply : Reply) :
    Statement (.loadDataReturn core slot flight reply) := rfl
theorem barrierArrivalMessage (launch group level unit : Nat) :
    Statement (.barrierArrivalMessage launch group level unit) := rfl
theorem barrierRelease (launch group : Nat) : Statement (.barrierRelease launch group) := rfl
theorem barrierDeparture (launch group level unit : Nat) :
    Statement (.barrierDeparture launch group level unit) := rfl
theorem dequeReserve (core : Nat) : Statement (.dequeReserve core) := rfl
theorem dequeOwnerTake (core : Nat) : Statement (.dequeOwnerTake core) := rfl
theorem droverProbe (core : Nat) : Statement (.droverProbe core) := rfl
theorem registerCompaction (core : Nat) : Statement (.registerCompaction core) := rfl
theorem operandBufferCompaction (core : Nat) : Statement (.operandBufferCompaction core) := rfl
theorem operandFill (core : Nat) : Statement (.operandFill core) := rfl
theorem matrixQueueEntry (core : Nat) : Statement (.matrixQueueEntry core) := rfl
theorem currentGrant (cluster : Nat) : Statement (.currentGrant cluster) := rfl
theorem matrixEntryExecute (core : Nat) : Statement (.matrixEntryExecute core) := rfl
theorem matrixEntryComplete (core : Nat) : Statement (.matrixEntryComplete core) := rfl
theorem gangForm (core : Nat) : Statement (.gangForm core) := rfl
theorem gangTimeout (core : Nat) (slot : Nat) : Statement (.gangTimeout core slot) := rfl
theorem jointLatchRelease (core : Nat) : Statement (.jointLatchRelease core) := rfl
theorem linkedRegionClear (core : Nat) (slot : Nat) :
    Statement (.linkedRegionClear core slot) := rfl
theorem contextAllocate (core : Nat) : Statement (.contextAllocate core) := rfl
theorem engineChunk (core : Nat) : Statement (.engineChunk core) := rfl
theorem engineUnitRelease (core : Nat) : Statement (.engineUnitRelease core) := rfl
theorem copyRelease (core ctx : Nat) : Statement (.copyRelease core ctx) := rfl
theorem contextFault (core : Nat) (isStream : Bool) (idx : Nat) :
    Statement (.contextFault core isStream idx) := rfl
theorem contextResume (core : Nat) (isStream : Bool) (idx : Nat) (served : Bool) :
    Statement (.contextResume core isStream idx served) := rfl
theorem streamStep (core idx : Nat) : Statement (.streamStep core idx) := rfl
theorem ringStreamStep (core idx : Nat) : Statement (.ringStreamStep core idx) := rfl
theorem nodeStart (core node : Nat) : Statement (.nodeStart core node) := rfl
theorem nodeComplete (core node : Nat) : Statement (.nodeComplete core node) := rfl
theorem budgetYieldEnter (core slot : Nat) : Statement (.budgetYieldEnter core slot) := rfl
theorem budgetYieldLeave (core slot : Nat) : Statement (.budgetYieldLeave core slot) := rfl
theorem heartbeatMissed (core : Nat) : Statement (.heartbeatMissed core) := rfl
theorem watchdog (core slot : Nat) : Statement (.watchdog core slot) := rfl
theorem trapDelivery (core : Nat) : Statement (.trapDelivery core) := rfl
theorem trappopWrite (core : Nat) : Statement (.trappopWrite core) := rfl
theorem wakeableRestore (core : Nat) (idx : Nat) : Statement (.wakeableRestore core idx) := rfl
theorem thermalSample (core : Nat) (temp : BitVec 8) : Statement (.thermalSample core temp) := rfl
theorem emergencySave (core : Nat) : Statement (.emergencySave core) := rfl
theorem moveForce (core slot : Nat) : Statement (.moveForce core slot) := rfl
theorem moveTransfer (core : Nat) : Statement (.moveTransfer core) := rfl
theorem coolantLowFlow (zone : Nat) : Statement (.coolantLowFlow zone) := rfl
theorem coolantHighDt (zone : Nat) : Statement (.coolantHighDt zone) := rfl
theorem coolantGas (zone : Nat) : Statement (.coolantGas zone) := rfl
theorem evacuationStep (zone : Nat) : Statement (.evacuationStep zone) := rfl
theorem flowMeasure (zone : Nat) (flow tin tout : BitVec 16) :
    Statement (.flowMeasure zone flow tin tout) := rfl
theorem hostCxlMemWrite (pa : Nat) (bytes : List Byte) :
    Statement (.hostCxlMemWrite pa bytes) := rfl
theorem hostCxlMemRead (pa len : Nat) : Statement (.hostCxlMemRead pa len) := rfl
theorem hostAtsInvalidation (pasid : BitVec 20) (va len : Nat) :
    Statement (.hostAtsInvalidation pasid va len) := rfl
theorem prqWrite (core : Nat) (w : W64) : Statement (.prqWrite core w) := rfl
theorem pageRequestResult (core : Nat) (res : PrqResult) :
    Statement (.pageRequestResult core res) := rfl
theorem cxlLinkChange (up : Bool) (speed : BitVec 4) (width : BitVec 8) :
    Statement (.cxlLinkChange up speed width) := rfl
theorem cxlLinkDownTimeout : Statement (.cxlLinkDownTimeout) := rfl
theorem caravanPortTrain (port : Nat) (up : Bool) : Statement (.caravanPortTrain port up) := rfl
theorem cvcfgWrite (w : W64) : Statement (.cvcfgWrite w) := rfl
theorem msgtxWrite (w : W64) : Statement (.msgtxWrite w) := rfl
theorem messageArrival (bytes : List Byte) : Statement (.messageArrival bytes) := rfl
theorem messageSendDone (res : MsgResult) : Statement (.messageSendDone res) := rfl
theorem pwrctlWrite (by_ : Requester) (w : W64) : Statement (.pwrctlWrite by_ w) := rfl
theorem powerStateChange (cluster : Nat) (state : BitVec 3) :
    Statement (.powerStateChange cluster state) := rfl
theorem nearThresholdEntry (cluster : Nat) : Statement (.nearThresholdEntry cluster) := rfl
theorem quiescePoint (cluster : Nat) : Statement (.quiescePoint cluster) := rfl
theorem quiesceTimeout (cluster : Nat) : Statement (.quiesceTimeout cluster) := rfl
theorem powerStaggerStep : Statement (.powerStaggerStep) := rfl
theorem manifoldLeak : Statement (.manifoldLeak) := rfl
theorem fectlWrite (core : Nat) (w : W64) : Statement (.fectlWrite core w) := rfl
theorem trmodeWrite (core : Nat) (w : W64) : Statement (.trmodeWrite core w) := rfl
theorem l2quotaWrite (core : Nat) (w : W64) : Statement (.l2quotaWrite core w) := rfl
theorem qwinWrite (core : Nat) (w : W64) : Statement (.qwinWrite core w) := rfl
theorem qstormWrite (core : Nat) (w : W64) : Statement (.qstormWrite core w) := rfl
theorem curcapWrite (core : Nat) (w : W64) : Statement (.curcapWrite core w) := rfl
theorem coolctlWrite (core : Nat) (w : W64) : Statement (.coolctlWrite core w) := rfl
theorem hbctlWrite (core : Nat) (w : W64) : Statement (.hbctlWrite core w) := rfl
theorem thctlWrite (core : Nat) (w : W64) : Statement (.thctlWrite core w) := rfl
theorem esctlWrite (core : Nat) (w : W64) : Statement (.esctlWrite core w) := rfl
theorem dbgctlWrite (core slot : Nat) (w : W64) : Statement (.dbgctlWrite core slot w) := rfl
theorem dbgkillWrite (core slot : Nat) (w : W64) : Statement (.dbgkillWrite core slot w) := rfl
theorem tblstatClear (core : Nat) (w : W64) : Statement (.tblstatClear core w) := rfl
theorem systemRegisterWrite (core : Nat) (n : BitVec 16) (sel : Nat) (w : W64) :
    Statement (.systemRegisterWrite core n sel w) := rfl
theorem leakValveClose : Statement (.leakValveClose) := rfl
theorem modcoolHot (hot : Bool) : Statement (.modcoolHot hot) := rfl
theorem cxlCacheSnoop (line : Nat) (inval : Bool) : Statement (.cxlCacheSnoop line inval) := rfl
theorem nodeTableEntry (core : Nat) : Statement (.nodeTableEntry core) := rfl

end Sys2Proof.Laws.Guarded
end

