-- ==== Sys2Proof/Laws/Values.lean ====
section
/-! SUPPORT. Values of operands and immediates: what a single register reads as, and the immediates
of R63 as sign extensions. -/
namespace Sys2Proof.Machine
open Sys2Proof
set_option linter.unusedSimpArgs false

/-- Results that agree on every crew's sources give the same effect. -/
theorem Computes.congr {i g d wide extra f f'} (h : Computes i g d wide extra f)
    (e : ∀ p k r lane, f p (srcVal k r lane) = f' p (srcVal k r lane)) : Computes i g d wide extra f' := by
  have e1 : ∀ r slot k v lane, regAfter r g d wide f slot k v lane = regAfter r g d wide f' slot k v lane := by
    intro r slot k v lane; cases d <;> simp only [regAfter, e]
  have e2 : ∀ r slot k lane, latchAfter r g d wide f slot k lane = latchAfter r g d wide f' slot k lane := by
    intro r slot k lane; cases d <;> simp only [latchAfter, e]
  intro s r hi hp hd
  simpa only [e1, e2] using h s r hi hp hd
/-- A single register or latch reads zero-extended (R99, R113). -/
theorem srcVal_narrow (k : Crew) (r : Run) (lane : Nat) (a : Src) :
    srcVal k r lane false a = ((srcVal k r lane false a).setWidth 32).setWidth 64 := by
  cases a <;> simp [srcVal]
/-- An immediate of a 32-bit form (R63). -/
theorem immVal_narrow (imm : BitVec 31) : immVal false imm = (imm.signExtend 32).setWidth 64 := by
  apply BitVec.eq_of_toNat_eq
  simp [immVal, wrap, sextNat, BitVec.toNat_signExtend, BitVec.msb_eq_decide]
  split <;> split <;> omega
/-- An immediate of a 64-bit form (R63). -/
theorem immVal_wide (imm : BitVec 31) : immVal true imm = (imm.signExtend 64) := by
  apply BitVec.eq_of_toNat_eq
  simp [immVal, wrap, sextNat, BitVec.toNat_signExtend, BitVec.msb_eq_decide]
  split <;> split <;> omega

end Sys2Proof.Machine
end

