-- ==== Sys2Proof/Tests/Slice0.lean ====
section
/-! SUPPORT. Tests of the model: words of the manual and what they stand for, terms that stand for
no word, a concrete state for the hypotheses of every statement, and single steps with the results
that the manual's own examples and rules give. -/
namespace Sys2Proof.Tests
open Sys2Proof Sys2Proof.Machine
set_option Elab.async false

/-- No guard (R61). -/
def g0 : Guard := ⟨false, false, 0⟩

/-- The place operand of the own core (R26). -/
def here : PlaceOp := ⟨0, 0, 0⟩

/-! ### Words written in the manual -/

/-- Integer words (R117 to R123, the listings of chapters 03 and 05). -/
theorem test_words_integer :
    decode 0x0000030080BFE000 = some (.iadd g0 .s32 false (.reg 3) (.reg 1) (.reg 2)) ∧
    decode 0x08810080013FE100 = some (.shl g0 .n32 (.sup 0) (.latch 0) (.reg 4)) ∧
    decode 0x0A800402FFC0C000 = some (.bfx g0 .s32 (.reg 4) (.reg 5) (.reg 6)) ∧
    decode 0x2044058080000010 = some (.iaddImm32 ⟨true, false, 2⟩ (.reg 5) (.latch 1) 16) ∧
    decode 0x3201FF0180BFE120 = some (.pset g0 .eq .n32 2 (.reg 3) (.reg 2)) := by decide

/-- Control words: `br !p1` forward by 16 words, `call`, `vote.none`, `quit`, `nop`. -/
theorem test_words_control :
    decode 0x3500000000101C00 = some (.br ⟨true, true, 1⟩ 16) ∧
    decode 0x3600000000080014 = some (.call ⟨false, false, 0⟩ 8 20) ∧
    decode 0x3A000A037FFFE321 = some (.vote g0 .none false false 2 (.reg 10) (.reg 6)) ∧
    decode 0x3781FFFFFFFFE000 = some (.quit g0) ∧
    decode 0x3F81FFFFFFFFE000 = some (.nop g0) := by decide

/-- Floating-point and conversion words (R136 to R152). -/
theorem test_words_float :
    decode 0x4100100802FFE800 = some (.fmul g0 .rn .f32 (.reg 16) (.reg 16) (.reg 11)) ∧
    decode 0x4180040080806800 = some (.fma g0 .rn .f32 (.reg 4) (.reg 1) (.reg 2) (.reg 3)) ∧
    decode 0x500008017FC12A84 = some (.cvtEf g0 false .bf16 (.reg 8) (.reg 2) 9) ∧
    decode 0x50800C0081418D20 = some (.cbenc g0 2 (.reg 12) (.reg 1) 5 (.reg 12)) := by decide

/-- Memory words (R179 to R202). -/
theorem test_words_memory :
    decode 0x800002037FC08080 = some (.ldG g0 (.reg 2) ⟨.reg 6, .zero, 64⟩ .b4 false false) ∧
    decode 0x8200100403000080 = some (.stG g0 (.reg 16) ⟨.reg 8, .reg 12, 0⟩ .b4 false) ∧
    decode 0x880105037FC01080 = some (.atomFireAndForget g0 .add false 5 ⟨.reg 6, .zero, 8⟩ .b4) ∧
    decode 0x8B8008027FC00126 = some (.atomCas g0 8 ⟨.reg 4, .zero, 0⟩ .b16 .package .acqrel) ∧
    decode 0x9001FFFFFFC00020 = some (.phase g0 .package) ∧
    decode 0x9481FF037FC00000 = some (.prfI g0 ⟨.reg 6, .zero, 0⟩) := by decide

/-- Matrix and gang words (R246 to R252). -/
theorem test_words_matrix :
    decode 0xB001FF0400000300 = some (.orsv g0 0 (.reg 8) (.reg 6) here) ∧
    decode 0xB481FF0101BFE010 = some (.mmaz g0 0 1 (.reg 2) (.reg 6)) ∧
    decode 0xB401FF0D063FE110 = some (.mmaJoint g0 0 1 (.reg 26) (.reg 24)) ∧
    decode 0xB5800C0101BFE200 = some (.ard g0 2 (.reg 12) (.reg 2) (.reg 6)) ∧
    decode 0xB801FF0D863FE002 = some (.gang g0 2 (.reg 27) (.reg 24)) := by decide

/-- Copy, spawn, queue and gate words (R276, R277, R308, R311, R314, R315). -/
theorem test_words_queue :
    decode 0xC000040100000300 = some (.cpy g0 false (.reg 4) (.reg 2) (.reg 6) here) ∧
    decode 0xC100050201BFE000 = some (.cwait g0 false (.reg 5) (.reg 4) (.reg 6)) ∧
    decode 0xD801FF0201BFE008 = some (.spawn g0 8 (.reg 4) (.reg 6)) ∧
    decode 0xDC81FFFFFFFFE001 = some (.qpop g0 1) ∧
    decode 0xE081FFFF80000002 = some (.gate g0 2) ∧
    decode 0xE101FFFF80000002 = some (.rel g0 2) := by decide

/-- Table, budget and counter words (R328 to R334, R355 to R358). -/
theorem test_words_table :
    decode 0xE8000A017FFFE004 = some (.tbrd g0 4 (.reg 10) (.reg 2)) ∧
    decode 0xE881FF01813FE102 = some (.tbwrSwap g0 (.reg 3) (.reg 4)) ∧
    decode 0xEC01FF02017FE000 = some (.ccreq g0 (.reg 4) (.reg 5)) ∧
    decode 0xF0000AFFFFFFE000 = some (.bread g0 false (.reg 10)) ∧
    decode 0xF081FF01813FE000 = some (.bgive g0 false (.reg 3) (.reg 4)) ∧
    decode 0xF101FF03023FE002 = some (.btopSet g0 false (.reg 6) (.reg 8)) ∧
    decode 0xF40004FFFFFFE000 = some (.tick g0 (.reg 4)) ∧
    decode 0xF48005FFFFFFE010 = some (.tkt g0 16 (.reg 5)) := by decide

/-- Trap, register and migration words (R385 to R390). -/
theorem test_words_system :
    decode 0xF801FFFF80000012 = some (.trap g0 0x12) ∧
    decode 0xF901FFFF80000001 = some (.brk g0 1) ∧
    decode 0xF881FF0181BFE001 = some (.eretNext g0 (.reg 3) (.reg 6)) ∧
    decode 0xF981FFFFFFFFE000 = some (.halt g0 .zero) ∧
    decode 0xFC000AFF807F0059 = some (.sysrd g0 0x59 0x7F (.reg 10)) ∧
    decode 0xFC81FF02007F005E = some (.syswr g0 0x5E 0x7F (.reg 4)) ∧
    decode 0xFD01FFFF8400FF80 = some (.migMove g0 ⟨2, 0, 0⟩) := by decide

/-- R68, R70: an opcode that no entry has, a field that an entry fixes, a guard field without
its enable and a register outside the encoding are refused. -/
theorem test_words_refused :
    decode 0xFFFFFFFFFFFFFFFF = none ∧ decode 0x3F81FFFFFFFFE001 = none ∧
    decode 0x3F80FFFFFFFFE000 = none ∧ decode 0x0002030080BFE000 = none ∧
    decode 0xF48005FFFFFFE011 = none ∧ decode 0xE8000A017FFFE007 = none := by decide

/-! ### Terms that stand for no word -/

/-- Each check of a guard, a condition and a destination refuses what breaks it (R61, R63, R64). -/
theorem test_wf_operands :
    Guard.wf ⟨false, true, 0⟩ = false ∧ Guard.wf ⟨false, false, 1⟩ = false ∧
    CCond.wf ⟨false, true, 0⟩ = false ∧ Dst.wf (.sup 255) = false ∧
    Instr.wf (.nop ⟨false, false, 3⟩) = false ∧
    Instr.wf (.mov g0 .s32 (.sup 255) .zero) = false ∧
    Instr.wf (.br ⟨false, false, 1⟩ 0) = false := by decide

/-- Each check of the types (R132, R133, R136, R139, R145 to R149). -/
theorem test_wf_types :
    Instr.wf (.red g0 .and (.flt .f32) .none .zero .zero) = false ∧
    Instr.wf (.red g0 .add (.flt .f8e4) .none .zero .zero) = false ∧
    Instr.wf (.shfl g0 .rot .s8 .none .zero .zero .zero) = false ∧
    Instr.wf (.fadd g0 .rn .f8e4 .none .zero .zero) = false ∧
    Instr.wf (.hfma2 g0 .rn .f32 .none .zero .zero .zero) = false ∧
    Instr.wf (.dp4 g0 .rz (.int .s8) (.int .s8) .none .zero .zero .zero) = false ∧
    Instr.wf (.dp4 g0 .rn (.int .s8) (.flt .f8e4) .none .zero .zero .zero) = false ∧
    Instr.wf (.cvtEf g0 false .f32 .none .zero 1) = false ∧
    Instr.wf (.cvtEf g0 false .bf16 (.reg 1) .zero 1) = false ∧
    Instr.wf (.cvtEf g0 false .bf16 .none (.reg 1) 1) = false := by decide

/-- Each check of the sizes and scopes (R179, R180, R192, R198, R201). -/
theorem test_wf_memory :
    Instr.wf (.ldG g0 .none ⟨.zero, .zero, 0⟩ .b4 true false) = false ∧
    Instr.wf (.ldGIo g0 .none ⟨.zero, .zero, 0⟩ .b2) = false ∧
    Instr.wf (.ldAcq g0 .none ⟨.zero, .zero, 0⟩ .b4 .crew) = false ∧
    Instr.wf (.stRel g0 .zero ⟨.zero, .zero, 0⟩ .b16 .die) = false ∧
    Instr.wf (.atomAdd g0 0 ⟨.zero, .zero, 0⟩ .b2 .crew .relaxed) = false ∧
    Instr.wf (.atomAdd g0 0 ⟨.zero, .zero, 0⟩ .b4 .die .relaxed) = false ∧
    Instr.wf (.atomCas g0 0 ⟨.zero, .zero, 0⟩ .b4 .crew .acq) = false ∧
    Instr.wf (.atomFireAndForget g0 .add true 0 ⟨.zero, .zero, 0⟩ .b4) = false ∧
    Instr.wf (.ared g0 .fadd .zero ⟨.zero, .zero, 0⟩ .b8) = false ∧
    Instr.wf (.invD g0 .crew ⟨.zero, .zero, 0⟩) = false ∧
    Instr.wf (.invTlb g0 .domain ⟨.zero, .zero, 0⟩) = false := by decide

/-- Each check of the other entries (R250, R251, R276, R308, R313, R316, R355, R362, R388). -/
theorem test_wf_others :
    Instr.wf (.ard g0 5 .none .zero .zero) = false ∧ Instr.wf (.awr g0 7 .zero .zero .zero) = false ∧
    Instr.wf (.gang g0 1 .zero .zero) = false ∧ Instr.wf (.gang g0 7 .zero .zero) = false ∧
    Instr.wf (.cpy g0 false .none .zero .zero here) = false ∧
    Instr.wf (.spawn g0 17 .zero .zero) = false ∧
    Instr.wf (.sigFill g0 false 0 .none (.reg 1)) = false ∧
    Instr.wf (.tbrd g0 6 .none .zero) = false ∧ Instr.wf (.tbwr g0 7 .zero .zero) = false ∧
    Instr.wf (.tkt g0 17 .none) = false ∧ Instr.wf (.crsv g0 8 .zero) = false ∧
    Instr.wf (.sysrd g0 0x00FF 0x7F .none) = false ∧ Instr.wf (.sysrd g0 0x0008 0 .none) = false ∧
    Instr.wf (.syswr g0 0x0001 0x7F .zero) = false := by decide

/-! ### Concrete states -/

/-- A state in which the next step issues a word: a crew of one fibre in slot 0 of core 0. -/
def st0 : State := placeWord State.reset 0x3F81FFFFFFFFE000

/-- The batch of that state. -/
def rn0 : Run := probeRun 0 0x3F81FFFFFFFFE000

/-- A register of lane 0. -/
def setReg (v : Nat) (w : W32) (k : Crew) : Crew := { k with reg0 := k.reg0.put (regKey v 0) w }

/-- A crew with every resource: 256 registers, 4 KiB of scratchpad, four accumulator blocks, two
records, one group; v10:v11 name lane 0 as the one member. The scratchpad holds a copy of 64 bytes
at 0, a tensor copy of 64 elements at 64 and an affine program of one step at 128; v4 and v5 hold
the offsets of the last two. -/
def rich (k : Crew) : Crew :=
  setReg 10 1 (setReg 5 128 (setReg 4 64
    { k with
      foot := 0x0800F80401054000, groups := [0]
      scratch := ⟨[(1, 1), (7, 1), (9, 0x20), (16, 64), (65, 1), (71, 1), (73, 0x20), (96, 64),
        (129, 0x20), (135, 8), (136, 1), (138, 1), (140, 1)]⟩ }))

/-- A launch of one crew on place 0, with ring 0 of four entries of 16 bytes, and 4 KiB of private
space for each fibre. -/
def launch0 : Launch :=
  { post := { packet := [0x100000000, 0, 0xFFFF, 0xFFFF, 0, 4096, 0, 0], pasid := 0, qnum := 0, cb := 0
              recent := 0, tno := 0, pred := none, node := none, fromCrew := none, va := 0 }
    foot := 0x0800F80401054000, image := 0, entry := 0x1000, contA := 0x1000
    groups := ⟨[(0, { v := true, first := 0, count := 1, stride := 1, episode := 0, departed := 0
                      arrived := 0 })]⟩
    rings := ⟨[(0, { base := 0x8000, count := 4, size := 16 })]⟩
    stages := 0, taken := 1, childs := 0, alive := [0], given := [], grants := [], gate := 0
    tk := ⟨[]⟩, tctx := 0, top := 0, bup := ⟨[]⟩, bdep := ⟨[]⟩ }

/-- The page of 64 KiB at virtual address 0, readable, writable and executable, at 0x10000. -/
def page0 : TlbE := { pasid := 0, level := 4, page := 0, leaf := 0x1001D, at_ := 0 }

/-- The launch active, place 0 on core 0, and the page in its TLB. -/
def ground (s : State) : State :=
  (s.mapMod fun m => { m with launches := ⟨[(0, launch0)]⟩, places := ⟨[(0, 0x8000)]⟩
                              placesNow := ⟨[(0, 0x8000)]⟩ }).mapCore 0 fun co => { co with tlb := [page0] }

/-- The state with that crew, further changed. -/
def stBy (f : Crew → Crew) : State := (ground st0).mapCrew 0 0 fun k => f (rich k)

/-- The same with the crew of a Keeper in slot 32 beside it, and a batch of that crew. -/
def stKeep (f : Crew → Crew) : State :=
  let s := (ground st0).mapCore 0 fun co => { co with crews := co.crews.put 32 ((co.crews.getD 0 probeCrew)) }
  { (s.mapCrew 0 32 fun k => f (rich k)) with runs := [{ rn0 with fibres := [(0, 32)] }] }

/-- The state with the rich crew and core 0 further changed. -/
def stCore (h : Core → Core) : State := (stBy id).mapCore 0 h

/-- The batch of the Keeper. -/
def rnK : Run := { rn0 with fibres := [(0, 32)] }

/-- A batch that issues whatever it holds. -/
def Ready (s : State) (r : Run) : Prop := r.Placed ∧ ∀ i, Issues s r i

/-- A batch at the head of the list whose crews have nothing in flight. -/
def readyB (s : State) (r : Run) : Bool :=
  decide (s.runs.head? = some r) && decide (r.fibres ≠ []) &&
    decide ((r.fibres.map (·.1)).Nodup) && (r.fibres.all fun p => decide (p.1 < 64)) &&
    r.fibres.all fun p => match s.crew? r.core p.2 with
      | some k => k.flights.isEmpty
      | none => true

theorem ready_of {s : State} {r : Run} (h : readyB s r = true) : Ready s r := by
  simp only [readyB, Bool.and_eq_true, decide_eq_true_eq, List.all_eq_true] at h
  obtain ⟨⟨⟨⟨h1, h2⟩, h3⟩, h4⟩, h5⟩ := h
  refine ⟨⟨h2, h3, h4⟩, fun i => ⟨h1, ?_⟩⟩
  rw [interlocked, List.any_eq_false]
  rintro ⟨lane, slot⟩ hp
  have := h5 _ hp
  cases hk : s.crew? r.core slot with
  | none => simp [hk]
  | some k =>
    rw [hk] at this
    have hf : k.flights = [] := by simpa using this
    simp [hk, regPending, hf]

/-- The one crew that a batch brings to a crew-wide instruction, with its leader and a further
condition on the two. -/
def wholeB (s : State) (r : Run) (g : Guard) (mask : Src) (P : CrewCtx → LaneCtx → Bool) : Bool :=
  readyB s r && match crewsOf (touchRun s r) r g mask with
    | [x] => match x.named.head? with
      | some a => x.cause.isNone && P x a
      | none => false
    | _ => false

theorem whole_of {s : State} {r : Run} {g : Guard} {mask : Src} {P : CrewCtx → LaneCtx → Bool}
    (i : Instr) (h : wholeB s r g mask P = true) :
    ∃ x a, Whole s r i g mask x a ∧ P x a = true := by
  rw [wholeB, Bool.and_eq_true] at h
  have hr := ready_of h.1
  have h2 := h.2
  match hc : crewsOf (touchRun s r) r g mask with
  | [] => rw [hc] at h2; simp at h2
  | _ :: _ :: _ => rw [hc] at h2; simp at h2
  | [x] =>
    rw [hc] at h2
    match ha : x.named.head? with
    | none => simp [ha] at h2
    | some a =>
      simp only [ha, Bool.and_eq_true] at h2
      exact ⟨x, a, ⟨hr.2 i, hr.1, hc, by simpa using h2.1, ha⟩, h2.2⟩

/-- Whether every access of a list passes. -/
def allPassB (l : List (LaneCtx × AccRes)) : Bool :=
  l.all fun p => match p.2 with | .ok .. => true | _ => false

theorem allPass_of {l : List (LaneCtx × AccRes)} (h : allPassB l = true) : AllPass l := by
  intro p hp
  have := List.all_eq_true.1 h p hp
  match hq : p.2 with
  | .ok a b => exact ⟨a, b, rfl⟩
  | .fault .. => simp [hq] at this
  | .miss .. => simp [hq] at this

/-- The crew and the fibre that an active fibre of `rn0` stands for. -/
theorem active_rn0 {g : Guard} {slot lane : Nat} {k : Crew} (h : activeIn rn0 g slot k lane = true) :
    lane = 0 ∧ slot = 0 := by
  have h1 : rn0.fibres = [(0, 0)] := by decide
  rw [activeIn, h1, Bool.and_eq_true] at h
  simpa using h.1

/-- Memory as reset leaves it, with no line in a last-level cache. -/
theorem plain0 {s : State} (h1 : s.mem = []) (h2 : s.llc = .empty) : HomesPlain s := by
  refine ⟨by rw [h1]; decide, ?_, ?_⟩ <;> rw [h2]
  · intro p hp; simp [Tab.empty] at hp
  · intro a _; rfl

/-- LodgeFree as a Bool. -/
def lodgeFreeB (s : State) (r : Run) (n : Nat) : Bool :=
  decide (lodgeTaken s r.core s.runs.tail + n ≤ 1024) &&
    s.runs.tail.all fun y => y.core != r.core || y.hold != some .lodge

theorem lodgeFree_of {s : State} {r : Run} {n : Nat} (h : lodgeFreeB s r n = true) : LodgeFree s r n := by
  simp only [lodgeFreeB, Bool.and_eq_true, decide_eq_true_eq, List.all_eq_true, Bool.or_eq_true,
    bne_iff_ne] at h
  exact ⟨h.1, fun y hy hc => (h.2 y hy).resolve_left (not_not_intro hc)⟩

/-! ### The hypotheses of the statements can be met -/

theorem ready0 : Ready st0 rn0 := ready_of (by decide)

/-- IntegerArithmetic, IntegerLogic, MovesAndAddresses, Immediates, FloatResults and
ConversionResults: a batch issues, and a destination fits at each end of the register file. -/
theorem witness_Computes : Ready st0 rn0 ∧ DstFits (.reg 254) true ∧ DstFits (.reg 0) true ∧
    DstFits (.sup 255) false ∧ DstFits .none true ∧
    activeIn rn0 g0 0 ((st0.crew? 0 0).getD probeCrew) 0 = true :=
  ⟨ready0, by simp [DstFits], by simp [DstFits], by simp [DstFits], trivial, by decide⟩

/-- IntegerResults: the ends of a type, and the first and the last bit of a word. -/
theorem witness_IntegerResults :
    (ITy.lowest .s32 ≤ -(2 ^ 31 : Int) ∧ -(2 ^ 31 : Int) ≤ ITy.highest .s32) ∧
    (ITy.lowest .n64 ≤ (2 ^ 64 - 1 : Int) ∧ (2 ^ 64 - 1 : Int) ≤ ITy.highest .n64) ∧
    ITy.wide .s8 = false ∧ 31 < ITy.width .n32 ∧ 0 < ITy.width .n8 ∧ 63 < ITy.width .s64 := by decide

/-- Predicates, NopEffect: a batch issues. -/
theorem witness_Predicates : Ready st0 rn0 := ready0

/-- RoundingBrackets: a word that is a number, and bounds that are numbers. -/
theorem witness_RoundingBrackets : (FTy.f32.value 0x3F800000).isNan = false ∧
    (FTy.f8e4.value 0x7E).isNan = false ∧
    (FTy.f16.decode (FTy.f16.round .rd false (.fin false 1 0))).isNan = false ∧
    (FTy.f16.decode (FTy.f16.round .ru false (.fin true 3 40))).isNan = false := by decide

/-- Transfers, `br` and `call`: every link register that is even, the last pair among them. -/
theorem witness_Transfers : Ready st0 rn0 ∧ (∀ l, some (254 : BitVec 8) = some l → l.toNat % 2 = 0) :=
  ⟨ready0, fun l h => by cases h; decide⟩

/-- Transfers, `brx` and `ret` that are taken: v2:v3 holds the last aligned address below 2^56. -/
theorem witness_Transfers_aligned :
    let s := stBy fun k => setReg 2 0xFFFFFFF8 (setReg 3 0x00FFFFFF k)
    Ready s rn0 ∧ ∀ lane slot k, activeIn rn0 g0 slot k lane = true → s.crew? rn0.core slot = some k →
      fld (srcVal k rn0 lane true (.reg 2)) 2 0 = 0 ∧
        fld (srcVal k rn0 lane true (.reg 2)) 63 56 = 0 := by
  refine ⟨ready_of (by decide), fun lane slot k h hk => ?_⟩
  obtain ⟨rfl, rfl⟩ := active_rn0 h
  have : ((stBy fun k => setReg 2 0xFFFFFFF8 (setReg 3 0x00FFFFFF k)).crew? rn0.core 0).all (fun k =>
    fld (srcVal k rn0 0 true (.reg 2)) 2 0 == 0 && fld (srcVal k rn0 0 true (.reg 2)) 63 56 == 0) = true := by
    decide
  rw [hk] at this
  simpa using this

/-- Transfers, `brx` and `ret` that trap: an address that is odd, and one of 2^56. -/
theorem witness_Transfers_trap :
    (∃ k x, (stBy (setReg 2 4)).crew? 0 0 = some k ∧ activeIn rn0 g0 0 k 0 = true ∧
      k.fibres.get? 0 = some x ∧ fld (srcVal k rn0 0 true (.reg 2)) 2 0 ≠ 0) ∧
    ∃ k x, (stBy (setReg 3 0x01000000)).crew? 0 0 = some k ∧ activeIn rn0 g0 0 k 0 = true ∧
      k.fibres.get? 0 = some x ∧ fld (srcVal k rn0 0 true (.reg 2)) 63 56 ≠ 0 :=
  ⟨⟨_, _, rfl, by decide, rfl, by decide⟩, ⟨_, _, rfl, by decide, rfl, by decide⟩⟩

/-- A crew whose 64 lane slots all hold a running fibre. -/
def crowded (k : Crew) : Crew :=
  { k with fibres := ⟨(List.range 64).map fun i => (i, { newFibre 0x1000 with st := .running })⟩ }

/-- Transfers, `fork`: with a lane slot free, the lowest of them lane 1, and with none. -/
theorem witness_Transfers_fork : Ready st0 rn0 ∧ (∀ p ∈ rn0.fibres, p = (0, 0)) ∧
    (∃ k x, (stBy id).crew? 0 0 = some k ∧ k.fibres.get? 0 = some x ∧
      CCond.takes ⟨false, false, 0⟩ x.pred = true ∧ freeLane k = some 1) ∧
    ∃ k x, (stBy crowded).crew? 0 0 = some k ∧ k.fibres.get? 0 = some x ∧
      CCond.takes ⟨false, false, 0⟩ x.pred = true ∧ freeLane k = none :=
  ⟨ready0, by decide, ⟨_, _, rfl, rfl, by decide, by decide⟩, ⟨_, _, rfl, rfl, by decide, by decide⟩⟩

/-- ClauseEnds, `cont` with a fibre that takes it and with none, and `quit`. -/
theorem witness_ClauseEnds : Ready (stBy id) rn0 ∧ (∀ p ∈ rn0.fibres, p.2 = 0) ∧
    (∃ k, (stBy id).crew? 0 0 = some k ∧ activeIn rn0 g0 0 k 0 = true ∧ k.rdvs = [] ∧
      ((stBy id).core 0).lodge.length + k.groups.length ≤ 1024) ∧
    (∀ lane, activeIn rn0 ⟨true, false, 1⟩ 0 (((stBy id).crew? 0 0).getD probeCrew) lane = false) ∧
    ∀ x ∈ (stBy id).runs.tail, x.core = rn0.core → x.hold ≠ some .lodge := by
  refine ⟨ready_of (by decide), by decide, ⟨_, rfl, by decide, by decide, by decide⟩, fun lane => ?_,
    by decide⟩
  by_cases h : lane = 0
  · subst h; decide
  · rw [activeIn, show rn0.fibres = [(0, 0)] by decide]; simp [h]

/-- Arrivals, `vote`, `shfl` and `red`: the pair v10:v11 names lane 0 alone. -/
theorem witness_Arrivals : Ready (stBy id) rn0 ∧ rn0.forks = [] ∧ (∀ p ∈ rn0.fibres, p.2 = 0) ∧
    ∃ k, (stBy id).crew? rn0.core 0 = some k ∧ k.rdvs = [] ∧
      (∀ p ∈ rn0.fibres, (k.fibres.get? p.1).isSome ∧ p.1 < footLanes k.foot ∧
        (1 : W64).getLsbD p.1 = true ∧ srcVal k rn0 p.1 (!footNarrow k.foot) (.reg 10) = 1) ∧
      ∀ l, l < footLanes k.foot → (1 : W64).getLsbD l = true →
        ∃ x, k.fibres.get? l = some x ∧ x.st ≠ .quitting := by
  refine ⟨ready_of (by decide), by decide, by decide, _, rfl, by decide, by decide, fun l hl hm => ?_⟩
  have h64 : l < 64 := hl
  have : l = 0 := by
    have : ∀ l < 64, (1 : W64).getLsbD l = true → l = 0 := by decide
    exact this l h64 hm
  subst this
  exact ⟨_, rfl, by decide⟩

/-- Arrivals, `bar` and `arrive` with a clear bit, and `await` with a set one. -/
theorem witness_Arrivals_barrier :
    (Ready (stBy id) rn0 ∧ ((stBy id).core rn0.core).lodge.length + rn0.slots.length ≤ 1024 ∧
      ∃ k x, (stBy id).crew? 0 0 = some k ∧ k.fibres.get? 0 = some x ∧ x.st = .running ∧
        groupIdx k 0 = some 0 ∧ bit x.arr 0 = false) ∧
    let s := stBy fun k => { k with fibres := k.fibres.mapKV fun _ f => { f with arr := 1 } }
    Ready s rn0 ∧ ∀ lane slot k x, activeIn rn0 g0 slot k lane = true →
      s.crew? rn0.core slot = some k → k.fibres.get? lane = some x →
      ∃ j, groupIdx k (0 : BitVec 8).toNat = some j ∧ bit x.arr j = true := by
  refine ⟨⟨ready_of (by decide), by decide, _, _, rfl, rfl, by decide, by decide, by decide⟩,
    ready_of (by decide), fun lane slot k x h hk hx => ?_⟩
  obtain ⟨rfl, rfl⟩ := active_rn0 h
  have hk' := hk.symm.trans (rfl : (stBy fun k =>
    { k with fibres := k.fibres.mapKV fun _ f => { f with arr := 1 } }).crew? rn0.core 0 = some _)
  cases hk'
  cases hx.symm.trans (rfl : _ = some _)
  exact ⟨0, by decide, by decide⟩

/-- LoadsAndStores: in every space an access of 4 bytes at its first address passes, as a load and
as a store. -/
theorem witness_LoadsAndStores : Ready (stBy id) rn0 ∧
    (∀ sp ∈ [Space.g, .s, .w, .p], ∀ wr ∈ [false, true],
      let p := accessed (stBy id) rn0 g0 sp ⟨.zero, .zero, 0⟩ ⟨4, wr, false, false, decide (sp = .g)⟩
      allPassB p.2.2 = true ∧ p.2.2.length = 1 ∧ sbFull p.1 p.2.1 = false ∧
        lodgeFreeB p.1 p.2.1 (4 * p.2.2.length) = true) ∧
    (∃ k, (stBy id).crew? 0 0 = some k) :=
  ⟨ready_of (by decide), by decide, ⟨_, rfl⟩⟩

/-- One access that passes, with the further conditions of a commit point. -/
def commitB (s : State) (r : Run) (m : MAddr) (kind : AccKind)
    (P : State → Run → LaneCtx → List (BitVec 3 × BitVec 2) → Bool) : Bool :=
  readyB s r && match accessed s r g0 .g m kind with
    | (u, r1, [(x, .ok pas tags)]) => !netBusy u r.core && !sbFull u r1 && (replayed x).isNone &&
        !pas.any (hostAway u) && (pas.all fun pa => zoneOf (canonPa u pa) != .domain) && P u r1 x tags
    | _ => false

theorem commit_of {s : State} {r : Run} {m : MAddr} {kind : AccKind}
    {P : State → Run → LaneCtx → List (BitVec 3 × BitVec 2) → Bool} (h : commitB s r m kind P = true) :
    Ready s r ∧ ∃ u r1 x pas tags, accessed s r g0 .g m kind = (u, r1, [(x, .ok pas tags)]) ∧
      netBusy u r.core = false ∧ sbFull u r1 = false ∧ replayed x = none ∧
      pas.any (hostAway u) = false ∧ (∀ pa ∈ pas, zoneOf (canonPa u pa) ≠ .domain) ∧
      P u r1 x tags = true := by
  rw [commitB, Bool.and_eq_true] at h
  refine ⟨ready_of h.1, ?_⟩
  have h2 := h.2
  match hc : accessed s r g0 .g m kind with
  | (u, r1, []) => rw [hc] at h2; simp at h2
  | (u, r1, (_, .fault ..) :: _) => rw [hc] at h2; simp at h2
  | (u, r1, (_, .miss ..) :: _) => rw [hc] at h2; simp at h2
  | (u, r1, (_, .ok ..) :: _ :: _) => rw [hc] at h2; simp at h2
  | (u, r1, [(x, .ok pas tags)]) =>
    rw [hc] at h2
    simp only [Bool.and_eq_true, Bool.not_eq_true', Option.isNone_iff_eq_none, List.all_eq_true,
      bne_iff_ne] at h2
    exact ⟨u, r1, x, pas, tags, rfl, h2.1.1.1.1.1, h2.1.1.1.1.2, h2.1.1.1.2, h2.1.1.2, h2.1.2, h2.2⟩

/-- CommitAccesses and Atomics: `ld.g.io`, `ld.acq`, `st.rel` without a part that it still owes, and the
atomics of 4 bytes, the widest compare of 16 bytes, and a held atomic whose entry is free. -/
theorem witness_CommitAccesses :
    commitB (stBy id) rn0 ⟨.zero, .zero, 0⟩ ⟨4, false, false, true, true⟩ (fun _ _ _ _ => true) = true ∧
    commitB (stBy id) rn0 ⟨.zero, .zero, 0⟩ ⟨4, false, false, false, false⟩ (fun _ _ _ _ => true) = true ∧
    commitB (stBy id) rn0 ⟨.zero, .zero, 0⟩ ⟨8, true, false, false, false⟩ (fun u r1 x _ =>
      (u.crew? 0 x.slot).all fun k => !owesPart k r1) = true ∧
    commitB (stBy id) rn0 ⟨.zero, .zero, 0⟩ ⟨16, true, true, false, false⟩
      (fun u r1 x _ => lodgeFreeB u r1 1 && decide (x.lane < 64)) = true := by decide

/-- Atomics: an aligned word inside a line of memory at each end of it. -/
theorem witness_Atomics : HomesPlain (stBy id) ∧ 0 + 4 ≤ 2 ^ 40 ∧
    0 / 256 = (0 + 4 - 1) / 256 ∧ (2 ^ 40 - 16) + 16 ≤ 2 ^ 40 ∧
    (2 ^ 40 - 16) / 256 = ((2 ^ 40 - 16) + 16 - 1) / 256 ∧ (2 ^ 32 - 1 : Nat) < 2 ^ 32 :=
  ⟨plain0 rfl rfl, by decide⟩

/-- A line-wise instruction of one active fibre whose translation is at hand. -/
def lineB (s : State) (r : Run) (m : MAddr) (lvl : Option PrfLevel) : Bool :=
  let u := touchRun s r
  readyB s r && match oncePerLine r m (activeLanes u r g0) with
    | [x] =>
      (match unitXlate u (tctxOf s x.slot x.crew)
          { core := r.core, kind := .prefetch x.crew.tenant lvl, keeper := isKeeper x.slot
            write := false, fetch := lvl.isNone, va := vaOf x.crew r x.lane m } with
        | .hit v e => v.upsets.isEmpty && leafAttr e.leaf == 0 && l1Ways (v.core r.core) != 0 &&
            zoneOf (canonPa v (leafPa e.leaf e.level (vaOf x.crew r x.lane m))) == .device
        | _ => false) &&
      match lineXlate u r m x with
        | (v, .ok [pa] [(attr, _)]) => attr != 2 && zoneOf (canonPa v pa) == .device && Memory.wf v.mem
        | _ => false
    | _ => false

/-- CacheFormsComplete and CachesAndFences, `fence`, `phase`, the prefetches, `inv` and `wbk`: an active
fibre without an earlier result, whose address translates as data and as code. -/
theorem witness_CachesAndFences : Ready (stBy id) rn0 ∧ netBusy (stBy id) rn0.core = false ∧
    ((activeLanes (stBy id) rn0 g0).any fun x => (replayed x).isNone) = true ∧
    (∃ k, (stBy id).crew? rn0.core 0 = some k ∧ activeIn rn0 g0 0 k 0 = true) ∧
    ((lineXlates (stBy id) rn0 g0 ⟨.zero, .zero, 0⟩).2.all fun p =>
      match p.2 with | .miss _ => false | _ => true) = true ∧
    ∀ lvl ∈ [none, some PrfLevel.l1, some .l2, some .llc],
      lineB (stBy id) rn0 ⟨.zero, .zero, 0⟩ lvl = true :=
  ⟨ready_of (by decide), by decide, by decide, ⟨_, rfl, by decide⟩, by decide +kernel, by decide +kernel⟩

/-- CachesAndFences, a prefetch for whose walk there is no room: no TLB holds the page, and 64 walks of
others fill the queue. -/
theorem witness_CachesAndFences_full :
    let m : Miss := { pasid := 1, root := 0, va := 0, askers := [] }
    let s := ((stBy id).mapCore 0 fun co => { co with tlb := [] }).mapCluster 0 fun k =>
      { k with misses := (List.range 64).map fun i => { m with va := i * 0x10000 } }
    Ready s rn0 ∧ (match oncePerLine rn0 ⟨.zero, .zero, 0⟩ (activeLanes (touchRun s rn0) rn0 g0) with
      | [x] => match unitXlate (touchRun s rn0) (tctxOf s x.slot x.crew)
          { core := 0, kind := .prefetch x.crew.tenant (some .l1), keeper := isKeeper x.slot
            write := false, fetch := false, va := vaOf x.crew rn0 x.lane ⟨.zero, .zero, 0⟩ } with
        | .full => true
        | _ => false
      | _ => false) = true :=
  ⟨ready_of (by decide +kernel), by decide +kernel⟩

/-- CacheFormsComplete and CachesAndFences, `inv.iall` and `inv.tlb` by the Keeper. -/
theorem witness_CachesAndFences_keeper : Ready (stKeep id) rnK ∧
    (∀ p ∈ rnK.fibres, isKeeper p.2 = true) ∧
    (∃ k, (stKeep id).crew? rnK.core Config.keeperSlot = some k ∧
      activeIn rnK g0 Config.keeperSlot k 0 = true) ∧
    ∀ q ∈ clusterOf rnK.core :: touchedClusters (stKeep id) rnK.core .package,
      ((stKeep id).cluster q).misses = [] :=
  ⟨ready_of (by decide), by decide, ⟨_, rfl, by decide⟩, by decide⟩

/-- CacheFormsComplete: a fibre of another crew issues `inv.iall` or `inv.tlb`. -/
theorem witness_CacheFormsComplete : Ready (stBy id) rn0 ∧
    (∀ p ∈ rn0.fibres, isKeeper p.2 = false) ∧ isKeeper 0 = false ∧
    ∃ k, (stBy id).crew? rn0.core 0 = some k ∧ activeIn rn0 g0 0 k 0 = true :=
  ⟨ready_of (by decide), by decide, by decide, _, rfl, by decide⟩

/-- Two records in use: record 0 of role A, record 1 of role B with 16 rows, both filled. -/
def withRecs (k : Crew) : Crew :=
  { k with recs := ⟨[(0, { Rec.free with desc := 0x20000, count := 32 }),
      (1, { Rec.free with desc := 0x8000000000020000, first := 32, count := 8 })]⟩ }

/-- OperandRecords: a free record, a descriptor and a map of zeros, and lines that are free; and a
record in use. -/
theorem witness_OperandRecords :
    (∃ x a, Whole (stBy id) rn0 (.orsv g0 1 (.reg 20) (.reg 10) here) g0 (.reg 10) x a ∧
      (recState (recOf x.crew 1).desc == 0 && !descBad (orsvVals a rn0 (.reg 20)).1
          (trMode (stBy id) 0) &&
        !mapBad (orsvVals a rn0 (.reg 20)).1 (orsvVals a rn0 (.reg 20)).2 &&
        (recPlaceTrap (touchRun (stBy id) rn0) rn0 x here).isNone && decide (1 < footOrec x.crew.foot) &&
        (freeLines x.crew (recLines (orsvVals a rn0 (.reg 20)).1)).isSome) = true) ∧
    ∃ x a, Whole (stBy withRecs) rn0 (.omap g0 0 (.reg 20) (.reg 10) here) g0 (.reg 10) x a ∧
      (recState (recOf x.crew 0).desc == 1 && !recHeld 0 (stBy withRecs) &&
        !mapBad (omapVals 0 (.reg 20) a rn0).1 (omapVals 0 (.reg 20) a rn0).2 &&
        (recPlaceTrap (touchRun (stBy withRecs) rn0) rn0 x here).isNone) = true :=
  ⟨whole_of _ (by decide +kernel), whole_of _ (by decide +kernel)⟩

/-- MatrixWork: the queue has room; `mma` over two records, and a spec of one block, the first and
the last of the crew. -/
theorem witness_MatrixWork : ((stBy withRecs).core rn0.core).mq.length < 32 ∧
    sbFull (stBy withRecs) rn0 = false ∧
    (∃ x a, Whole (stBy withRecs) rn0 (.mma g0 0 1 (.reg 2) (.reg 10)) g0 (.reg 10) x a ∧
      ((mmaTrap (touchRun (stBy withRecs) rn0) 0 x.crew false 0 1 (leaderVal rn0 a (.reg 2))).isNone &&
        decide (specBlk (leaderVal rn0 a (.reg 2)) + 0 + 1 ≤ footAcc x.crew.foot) &&
        (colTrap x.crew (leaderVal rn0 a (.reg 2)) 4).isNone) = true) ∧
    ∃ x a, Whole (stBy (setReg 2 3)) rn0 (.aclr g0 (.reg 2) (.reg 10)) g0 (.reg 10) x a ∧
      decide (specBlk (leaderVal rn0 a (.reg 2)) + fld (leaderVal rn0 a (.reg 2)) 12 8 + 1 ≤
        footAcc x.crew.foot) = true :=
  ⟨by decide, by decide, whole_of _ (by decide +kernel), whole_of _ (by decide +kernel)⟩

/-- MatrixWork, gangs: a crew of no gang, one of a gang of two that has used the count and key, and a
joint `mma` of its two records. -/
theorem witness_MatrixWork_gang :
    (∃ x a, Whole (stBy id) rn0 (.gang g0 2 (.reg 2) (.reg 10)) g0 (.reg 10) x a ∧
      (fld x.crew.gang 34 32 == 0 && (((stBy id).core 0).gangQ.all fun b => b.slot != x.slot)) = true) ∧
    let s := stBy fun k => { withRecs k with gang := gangWord [0, 1], gkeys := [(2, 0)] }
    ∃ x a, Whole s rn0 (.mmaJoint g0 0 1 (.reg 2) (.reg 10)) g0 (.reg 10) x a ∧
      (fld x.crew.gang 34 32 != 0 && x.crew.gkeys.contains (2, leaderVal rn0 a (.reg 2)) &&
        (mmaTrap (touchRun s rn0) 0 x.crew true 0 1 (leaderVal rn0 a (.reg 2))).isNone &&
        ((s.core 0).latchQ.all fun b => b.slot != x.slot)) = true :=
  ⟨whole_of _ (by decide +kernel), whole_of _ (by decide +kernel)⟩

/-- CopyAndGraph, `cpy` and `cpy.t`: a good record at v2 = 0 and at v4 = 64, with an index and an entry
free. -/
theorem witness_CopyAndGraph :
    (∃ x a, Whole (stBy id) rn0 (.cpy g0 false (.reg 20) (.reg 2) (.reg 10) here) g0 (.reg 10) x a ∧
      (let u := touchRun (stBy id) rn0
       let ws := scrWords u 0 x.slot x.crew (leaderVal rn0 a (.reg 2)).toNat 4
       (recordAt x.crew (leaderVal rn0 a (.reg 2)).toNat 16 32).isNone && !copyBad false ws here &&
        (copyTrap u 0 x.slot x.crew false ws here).isNone &&
        (freeIdx ((stBy id).core 0) (crewId x.crew) 0).isSome &&
        (freeKey ((stBy id).core 0).ctxs 256).isSome) = true) ∧
    ∃ x a, Whole (stBy id) rn0 (.cpyT g0 false (.reg 20) (.reg 4) (.reg 10) here) g0 (.reg 10) x a ∧
      (let u := touchRun (stBy id) rn0
       let ws := scrWords u 0 x.slot x.crew (leaderVal rn0 a (.reg 4)).toNat 8
       (recordAt x.crew (leaderVal rn0 a (.reg 4)).toNat 64 64).isNone && !copyBad true ws here &&
        (copyTrap u 0 x.slot x.crew true ws here).isNone) = true :=
  ⟨whole_of _ (by decide +kernel), whole_of _ (by decide +kernel)⟩

/-- A context of the crew, in a state. -/
def ctx0 (state : Nat) : Ctx :=
  { slot := 0, idx := 0, state, cause := none, nw := false, tensor := false
    desc := [0x0100000000000100, 0x2000, 64, 0], place := 0, own := true, rseq := none, next := 0
    acqDone := false, relStaged := false, wsig := 0, wsatd := false, granted := false
    asked := false, node := none, id := 0, fenceId := 0, after := 0, tctx := 0, who := (0, 0) }

/-- A node of the crew: building, without an edge. -/
def node0 (idx state : Nat) : Node :=
  { state, kind := 2, keep := true, pred := 0, succ := [], slot := 0, idx, cause := none, gen := 0
    payload := [0, 0], armSeq := none, bornSeq := none, links := [], ctx := none, fin := false
    orphan := false, tctx := 0, who := (0, 0) }

/-- A bound stream of the crew: a load of one step into queue 0. -/
def stream0 (kind state : Nat) : Stream :=
  { slot := 0, idx := 0, kind, q := 0, src := 0, mask := 1, prog := [0x0800000000002000, 0x100010001, 0, 0]
    place := 0, total := 1, next := 0, part := 0, state, cause := none, born := none, rseq := none
    stop := none, before := 0, after := 0, tctx := 0, who := (0, 0), fenceId := 0 }

/-- CopyAndGraph, `cwait`: a finished context, a faulted one and a poll of one that runs. -/
theorem witness_CopyAndGraph_cwait : ∀ q ∈ [(2, some 0), (1, none)],
    let s := stCore fun co => { co with ctxs := ⟨[(0, ctx0 q.1)]⟩ }
    ∃ x a, Whole s rn0 (.cwait g0 (decide (q.1 = 1)) (.reg 20) (.reg 2) (.reg 10)) g0 (.reg 10) x a ∧
      ((decide (q.1 = 1) || !cwaitBusy g0 (.reg 2) (.reg 10) s) &&
        match handleStatus (s.core 0) x.crew (leaderVal rn0 a (.reg 2)) with
        | .ok st => st == q.2
        | .error _ => false) = true := by
  intro q hq
  simp only [List.mem_cons, List.not_mem_nil, or_false] at hq
  rcases hq with rfl | rfl <;> exact whole_of _ (by decide +kernel)

/-- CopyAndGraph, `node`, `nlink` and `narm`: a good payload of each kind, and two nodes that are being
built. -/
theorem witness_CopyAndGraph_nodes :
    (∀ p ∈ [(0, (2 : BitVec 8)), (1, 4), (2, 2), (3, 2)],
      (wholeB (stBy (setReg 2 (if p.1 < 2 then 0 else 256))) rn0 g0 (.reg 10) fun x a =>
        let o := (leaderVal rn0 a (.reg p.2)).toNat
        let ws := scrWords (touchRun (stBy (setReg 2 (if p.1 < 2 then 0 else 256))) rn0) 0 x.slot x.crew o
          (nodeBytes p.1 / 8)
        (recordAt x.crew o (nodeAlign p.1) (nodeBytes p.1)).isNone && !nodeBad p.1 ws &&
          decide (nodesOwned ((stBy id).core 0) x.crew < 128) &&
          (freeIdx ((stBy id).core 0) (crewId x.crew) 1).isSome &&
          (freeKey ((stBy id).core 0).nodes 512).isSome) = true) ∧
    let s := ((stBy fun k => setReg 7 0x40000000 (setReg 8 0x40010000 k)).mapCore 0 fun co =>
      { co with nodes := ⟨[(0, node0 0 1), (1, node0 1 1)]⟩ })
    ∃ x a, Whole s rn0 (.nlink g0 (.reg 7) (.reg 10) (.reg 8)) g0 (.reg 10) x a ∧
      ((building (s.core 0) x.crew (leaderVal rn0 a (.reg 7)) == some (0, node0 0 1)) &&
        (building (s.core 0) x.crew (leaderVal rn0 a (.reg 8)) == some (1, node0 1 1))) = true :=
  ⟨by decide +kernel, whole_of _ (by decide +kernel)⟩

/-- Streams: a good program at v5 = 128, a bound stream under the handle in v9, and ring 0. -/
theorem witness_Streams :
    (∃ x a, Whole (stBy id) rn0 (.sbind g0 false 0 (.reg 20) (.reg 5) (.reg 10) here) g0 (.reg 10) x a ∧
      (let u := touchRun (stBy id) rn0
       let v := leaderVal rn0 a (.reg 5)
       let ws := scrWords u 0 x.slot x.crew v.toNat 4
       (recordAt x.crew v.toNat 16 32).isNone && !progBad false ws here &&
        !sideBound x.crew ⟨progSpace ws, fld (wordOf ws 0) 55 0⟩
          (progRange ws (lanesOf (footLanes x.crew.foot) x.mask)) && progSpace ws != 2 &&
        !progBad true ws ⟨0, 0, 0⟩ && !ringTrap u 0 x.crew 2 0 0 0 && !ringTrap u 0 x.crew 4 0 0 0 &&
        (freeIdx ((stBy id).core 0) (crewId x.crew) 2).isSome) = true) ∧
    let s := ((stBy fun k => setReg 9 0x80000000 k).mapCore 0 fun co =>
      { co with streams := ⟨[(0, stream0 0 0)]⟩ })
    ∃ x a, Whole s rn0 (.srun g0 (.reg 9) (.reg 10)) g0 (.reg 10) x a ∧
      (streamNamed (s.core 0) x.crew (leaderVal rn0 a (.reg 9)) == some (0, stream0 0 0)) = true :=
  ⟨whole_of _ (by decide +kernel), whole_of _ (by decide +kernel)⟩

/-- Streams, `rfill` from another ring: two rings of one size, one step. -/
theorem witness_Streams_ring :
    let s := (stBy (setReg 6 0x00010001)).mapMod fun m =>
      { m with launches := ⟨[(0, { launch0 with rings := ⟨[(0, ⟨0x8000, 4, 16⟩), (1, ⟨0x9000, 4, 16⟩)]⟩ })]⟩ }
    ∃ x a, Whole s rn0 (.rfill g0 true 0 (.reg 20) (.reg 6) (.reg 10)) g0 (.reg 10) x a ∧
      (!ringTrap (touchRun s rn0) 0 x.crew 3 0 (fld (leaderVal rn0 a (.reg 6)) 3 0)
          (fld (leaderVal rn0 a (.reg 6)) 31 16) &&
        (freeIdx (s.core 0) (crewId x.crew) 2).isSome) = true :=
  whole_of _ (by decide +kernel)

/-- OperandRecords, `orel` of a record in use, and MatrixWork, `gang.leave` of a crew of a gang. -/
theorem witness_OperandRecords_orel :
    (∃ x a, Whole (stBy withRecs) rn0 (.orel g0 1 (.reg 10)) g0 (.reg 10) x a ∧
      (recState (recOf x.crew 1).desc == 1 && !recHeld 1 (stBy withRecs) &&
        decide (1 < footOrec x.crew.foot)) = true) ∧
    let s := stBy fun k => { k with gang := gangWord [0, 1], gkeys := [(2, 0)] }
    ∃ x a, Whole s rn0 (.gangLeave g0 (.reg 2) (.reg 10)) g0 (.reg 10) x a ∧
      ((s.core 0).latchQ.all fun b => !(gangSlots x.crew).contains b.slot) = true :=
  ⟨whole_of _ (by decide +kernel), whole_of _ (by decide +kernel)⟩

/-- CrewsAndSpawn, `spawn`: one fibre at the last depth that may spawn, its target v20:v21 the clause at
0, with room in the deque and the lodge. -/
theorem witness_CrewsAndSpawn :
    let s := stBy fun k => { k with depth := 7 }
    Ready s rn0 ∧ LodgeFree s rn0 1 ∧ (activeLanes (touchRun s rn0) rn0 g0).length = 1 ∧
    (∀ x ∈ activeLanes (touchRun s rn0) rn0 g0,
      x.slot = 0 ∧ targetOk (srcVal x.crew rn0 x.lane true (.reg 20)) = true) ∧
    (∃ k, s.crew? 0 0 = some k ∧ k.depth < 8 ∧ childNumbers s k 1 = some [0]) ∧
    1 ≤ dequeFree (s.core 0) :=
  ⟨ready_of (by decide), ⟨by decide, by decide⟩, by decide, by decide +kernel,
    ⟨_, rfl, by decide, by decide +kernel⟩, by decide⟩

/-- CrewsAndSpawn, the held forms: an aligned packet address, a ring that is declared, and a Keeper for
`wdog.beat`. -/
theorem witness_CrewsAndSpawn_held :
    (Ready (stBy id) rn0 ∧ LodgeFree (stBy id) rn0 1 ∧
      ∀ x ∈ activeLanes (touchRun (stBy id) rn0) rn0 g0,
        fld (srcVal x.crew rn0 x.lane true (.reg 20)) 5 0 = 0 ∧
          (ringDecl (stBy id) x.crew (0 : BitVec 4).toNat).isSome) ∧
    Ready (stKeep id) rnK ∧ LodgeFree (stKeep id) rnK 1 ∧
      ∀ x ∈ activeLanes (touchRun (stKeep id) rnK) rnK g0, isKeeper x.slot = true :=
  ⟨⟨ready_of (by decide), ⟨by decide, by decide⟩, by decide +kernel⟩, ready_of (by decide),
    ⟨by decide, by decide⟩, by decide +kernel⟩

/-- An operand queue of two entries with register v30. -/
def queue0 (out : Bool) (tail : Nat) : OQueue :=
  { out, cap := 2, off := 0, reg := 30, tail, cur := ⟨[]⟩, drain := 0, rel := ⟨[]⟩, pend := ⟨[]⟩
    last := none, fresh := false }

/-- Queues, `qbind`: a new queue of two entries at 0, and the same spec with the bit that removes it. -/
theorem witness_Queues_bind :
    (Ready (stBy (setReg 2 0x01000000)) rn0 ∧ ∀ x ∈ activeLanes (touchRun (stBy (setReg 2 0x01000000)) rn0) rn0 g0,
      qbindTrap (stBy (setReg 2 0x01000000)) 0 x.crew 0 30 (srcVal x.crew rn0 x.lane false (.reg 2)) = none ∧
      qsUnbind (srcVal x.crew rn0 x.lane false (.reg 2)) = false) ∧
    let s := stBy fun k => setReg 2 0x41000000 { k with queues := ⟨[(0, queue0 false 0)]⟩ }
    Ready s rn0 ∧ (activeLanes (touchRun s rn0) rn0 g0).length = 1 ∧
      ∀ x ∈ activeLanes (touchRun s rn0) rn0 g0,
        qbindTrap s 0 x.crew 0 30 (srcVal x.crew rn0 x.lane false (.reg 2)) = none ∧
          qsUnbind (srcVal x.crew rn0 x.lane false (.reg 2)) = true :=
  ⟨⟨ready_of (by decide), by decide +kernel⟩, ready_of (by decide), by decide, by decide +kernel⟩

/-- Queues, `qpop` of the one entry of an in-queue, and `qpush` into the last free place. -/
theorem witness_Queues :
    (let s := stBy fun k => { k with queues := ⟨[(0, queue0 false 1)]⟩ }
     s.runs.head? = some rn0 ∧ interlocked s rn0 (mappedRegs 0 s rn0) = false ∧ sbFull s rn0 = false ∧
      (activeLanes (touchRun s rn0) rn0 g0).length = 1 ∧
      ∀ x ∈ activeLanes (touchRun s rn0) rn0 g0, replayed x = none ∧
        queueOf x.crew 0 false = some (queue0 false 1) ∧
        (queue0 false 1).cur.getD x.lane 0 ≠ (queue0 false 1).tail) ∧
    let q := { queue0 true 0 with cur := ⟨[(0, 1)]⟩ }
    let s := stBy fun k => { k with queues := ⟨[(0, q)]⟩ }
    s.runs.head? = some rn0 ∧ interlocked s rn0 (mappedRegs 0 s rn0) = false ∧ LodgeFree s rn0 4 ∧
      ∀ x ∈ activeLanes (touchRun s rn0) rn0 g0, replayed x = none ∧ queueOf x.crew 0 true = some q ∧
        q.cur.getD x.lane 0 - q.drain ≠ q.cap ∧ (pushSectors 0 [(x, q)]).length ≤ 4 :=
  ⟨⟨by decide, by decide, by decide, by decide, by decide +kernel⟩, by decide, by decide,
    ⟨by decide, by decide⟩, by decide +kernel⟩

/-- A launch whose predecessor has opened no gate. -/
def gated : State :=
  (stBy id).mapMod fun m =>
    { m with launches := ⟨[(0, { launch0 with post := { launch0.post with pred := some (0, 0, 0) } }),
        (1, launch0)]⟩ }

/-- Every granule of the crew has its copy already. -/
def stDirty : State := stBy fun k => { k with dirty := 0xFFFFFFFF }

/-- RingsAndGates: no gate of a launch without a predecessor is closed; a ring that need not wait; and
a wait, for ring 0 to hold one slot, that has not come about. -/
theorem witness_RingsAndGates : Ready (stBy (setReg 2 1)) rn0 ∧
    (activeLanes (touchRun (stBy (setReg 2 1)) rn0) rn0 g0).length = 1 ∧
    (∀ x ∈ activeLanes (touchRun (stBy (setReg 2 1)) rn0) rn0 g0,
      gateOpen (stBy (setReg 2 1)) x.crew.tenant 0 = true ∧
        (ringDecl (stBy (setReg 2 1)) x.crew 0).isSome ∧
        firstWait (touchRun (stBy (setReg 2 1)) rn0) rn0 x (.sigFill g0 true 0 (.reg 20) (.reg 2)) =
          some (.ring 0 false 1)) ∧
    waiting (touchRun (stBy (setReg 2 1)) rn0) rn0 (.sigFill g0 false 0 (.reg 20) .zero) = [] ∧
    waiting (touchRun (stBy (setReg 2 1)) rn0) rn0 (.sigRoom g0 true 0 (.reg 20) (.reg 2)) = [] ∧
    copyHold (touchRun stDirty rn0) rn0 (activeLanes (touchRun stDirty rn0) rn0 g0) (.reg 20) 1 = none :=
  ⟨ready_of (by decide), by decide, by decide +kernel, by decide +kernel, by decide +kernel,
    by decide +kernel⟩

/-- TableAndRegisterReads: the first word of each table that a crew may read, and a register of each
holder. -/
theorem witness_TableAndRegisterReads : Ready (stKeep id) rnK ∧ sbFull (stKeep id) rnK = false ∧
    (∀ n ∈ [0, 1, 2, 3, 4], ∀ x ∈ activeLanes (touchRun (stKeep id) rnK) rnK g0,
      (tableRead (stKeep id) 0 x.slot x.crew n (srcVal x.crew rnK x.lane false (.reg 20))).isSome) ∧
    ∀ n ∈ [0x0000, 0x0001, 0x0040, 0x0044, 0x0056], ∀ x ∈ activeLanes (touchRun (stKeep id) rnK) rnK g0,
      sysTrap (stKeep id) 0 x.slot (regRow (BitVec.ofNat 16 n)) false 0x7F = none :=
  ⟨ready_of (by decide), by decide, by decide +kernel, by decide +kernel⟩

/-- KeeperCommands: v20 to v23 hold 0, v24 the index of word 3 of entry 0, and v26 an address
with its low 12 bits 0; each operand passes its check, and a device register is writable. -/
theorem witness_KeeperCommands : Ready (stKeep (setReg 24 0x30000)) rnK ∧
    LodgeFree (stKeep (setReg 24 0x30000)) rnK 1 ∧
    (activeLanes (touchRun (stKeep (setReg 24 0x30000)) rnK) rnK g0).length = 1 ∧
    ∀ x ∈ activeLanes (touchRun (stKeep (setReg 24 0x30000)) rnK) rnK g0,
      let v := fun (w : Bool) (o : Src) => srcVal x.crew rnK x.lane w o
      let s := stKeep (setReg 24 0x30000)
      isKeeper x.slot = true ∧
      (∀ n ∈ [1, 2, 3], ixEntry (v false (.reg 20)) < (tableSize n).1 ∧
        ixWord (v false (.reg 20)) < (tableSize n).2) ∧
      ixEntry (v false (.reg 24)) < (tableSize 4).1 ∧ ixWord (v false (.reg 24)) = 3 ∧
      zoneTrap x.slot (v false (.reg 20)) = none ∧ (v false (.reg 20)).toNat ≤ 120 ∧
      topTrap s x.slot (v true (.reg 20)) = none ∧
      fld (v false (.reg 20)) 31 5 = 0 ∧ (s.crew? 0 (fld (v false (.reg 20)) 4 0)).isSome ∧
      fld (v false (.reg 20)) 31 6 = 0 ∧ (s.launch? (fld (v false (.reg 20)) 5 0)).isSome ∧
      sysTrap s 0 x.slot (regRow 0x5E) true 0x7F = none ∧ fld (v true (.reg 26)) 11 0 = 0 :=
  ⟨ready_of (by decide), ⟨by decide, by decide⟩, by decide, by decide +kernel⟩

/-- KeeperCommands, `mig`: the place of the own core, a launch in entry 1 with no crew resident, and no
move under way. -/
theorem witness_KeeperCommands_mig :
    let s := (stKeep (setReg 24 1)).mapMod fun m => { m with launches := ⟨[(0, launch0), (1, launch0)]⟩ }
    Ready s rnK ∧ moveBusy (s.core 0) = false ∧ ∀ x ∈ activeLanes (touchRun s rnK) rnK g0,
      (match placeResolve s 0 x.slot x.crew here with | .ok p => p == (0, 0) | .error _ => false) = true ∧
      fld (srcVal x.crew rnK x.lane false (.reg 24)) 5 0 = 1 ∧ (s.launch? 1).isSome ∧
      launchResident s 1 = false :=
  ⟨ready_of (by decide), by decide, by decide +kernel⟩

/-- Counters, the reads, `tkt` of a crew and of the Keeper with a ticket to claim and with none,
and `bgive` of the whole budget to a crew of the launch. -/
theorem witness_Counters :
    (Ready stDirty rn0 ∧ (activeLanes (touchRun stDirty rn0) rn0 g0).length = 1 ∧
      copyHold (touchRun stDirty rn0) rn0 (activeLanes (touchRun stDirty rn0) rn0 g0) (.reg 20) 1 = none ∧
      copyHold (touchRun stDirty rn0) rn0 (activeLanes (touchRun stDirty rn0) rn0 g0) (.reg 20) 2 = none ∧
      DstFits (.reg 20) true ∧ (∀ x ∈ activeLanes (touchRun (stBy id) rn0) rn0 g0,
        (s0 : Option Launch) → s0 = (stBy id).launch? x.crew.tenant → s0.isSome)) ∧
    (Ready (stKeep id) rnK ∧ ticketFree (stKeep id).mod (drawTicket (stKeep id).mod.take).1 = false) ∧
    let s := (stKeep id).mapMod fun m => { m with tickets := [(0, launch0.post)], posted := 1 }
    Ready s rnK ∧ ticketFree s.mod (drawTicket s.mod.take).1 = true :=
  ⟨⟨ready_of (by decide), by decide, by decide +kernel, by decide +kernel, by simp [DstFits],
    fun x hx s0 h => by
      subst h
      revert x
      decide +kernel⟩, ⟨ready_of (by decide), by decide⟩, ready_of (by decide), by decide⟩

/-- Counters, `bgive` of the whole budget, `wdog.set` with the greatest limit, and `crsv` of the first
and the last counter of a crew and of a Keeper. -/
theorem witness_Counters_give :
    let s := stBy fun k => setReg 2 0xFFFFFFFF (setReg 3 0xFFFF (setReg 6 0x00FFFFFF (setReg 7 0x80000010 k)))
    Ready s rn0 ∧ LodgeFree s rn0 1 ∧ (activeLanes (touchRun s rn0) rn0 g0).length = 1 ∧
    (∀ x ∈ activeLanes (touchRun s rn0) rn0 g0, isKeeper x.slot = false ∧
      crewLaunch s x.crew = some launch0 ∧
      assigned launch0 ((srcVal x.crew rn0 x.lane false (.reg 20)).setWidth 32) = true ∧
      (srcVal x.crew rn0 x.lane true (.reg 2)).toNat ≤ x.crew.ib.toNat ∧
      fld (srcVal x.crew rn0 x.lane false (.reg 6)) 31 24 = 0 ∧
      fld (srcVal x.crew rn0 x.lane false (.reg 7)) 30 10 = 0 ∧
      fld (srcVal x.crew rn0 x.lane false (.reg 7)) 9 8 ≠ 3 ∧
      fld (srcVal x.crew rn0 x.lane false (.reg 7)) 7 0 ≤ 16 ∧
      fld (srcVal x.crew rn0 x.lane false (.reg 7)) 9 8 ≠ 2) ∧
    Ready (stKeep id) rnK ∧ ∀ x ∈ activeLanes (touchRun (stKeep id) rnK) rnK g0, isKeeper x.slot = true :=
  ⟨ready_of (by decide), ⟨by decide, by decide⟩, by decide, by decide +kernel, ready_of (by decide),
    by decide +kernel⟩

/-- TrapsAndHalt: `brk` in an attached crew and in one that is not; `halt` of one crew. -/
theorem witness_TrapsAndHalt :
    (Ready (stBy fun k => { k with dbg := 0x80 }) rn0 ∧ ∀ slot ∈ rn0.slots, ∀ k,
      (stBy fun k => { k with dbg := 0x80 }).crew? rn0.core slot = some k → bit k.dbg 7 = true) ∧
    (Ready (stBy id) rn0 ∧ ∀ slot ∈ rn0.slots, ∀ k,
      (stBy id).crew? rn0.core slot = some k → bit k.dbg 7 = false) ∧
    LodgeFree (stBy id) rn0 1 ∧ ∃ x, activeLanes (touchRun (stBy id) rn0) rn0 g0 = [x] := by
  refine ⟨⟨ready_of (by decide), fun slot hs k hk => ?_⟩, ⟨ready_of (by decide), fun slot hs k hk => ?_⟩,
    ⟨by decide, by decide⟩, _, rfl⟩
  · rw [show rn0.slots = [0] by decide, List.mem_singleton] at hs
    subst hs
    cases hk.symm.trans (rfl : _ = some _)
    decide
  · rw [show rn0.slots = [0] by decide, List.mem_singleton] at hs
    subst hs
    cases hk.symm.trans (rfl : _ = some _)
    decide

/-- Privilege: a batch of a crew that is not the Keeper's, and the first and the last of the Keeper's
own counters. -/
theorem witness_Privilege : Ready (stBy id) rn0 ∧ (∀ p ∈ rn0.fibres, isKeeper p.2 = false) ∧
    4 ≤ (4 : BitVec 4).toNat ∧ (7 : BitVec 4).toNat < 8 :=
  ⟨ready_of (by decide), by decide, by decide, by decide⟩

/-! #### Events -/

/-- A batch that holds. -/
def holding (h : Hold) : State := { stBy withRecs with runs := [{ rn0 with hold := some h }] }

/-- The two records with their fills done. -/
def filled (k : Crew) : Crew :=
  { k with recs := ⟨[(0, { Rec.free with desc := 0xA0000, count := 32 }),
      (1, { Rec.free with desc := 0x80000000000A0000, first := 32, count := 8 })]⟩ }

/-- An entry of the matrix queue. -/
def entry0 (i : Instr) : MEntry :=
  { id := 1, instr := i, clause := 0x1000, pos := 0, next := 0x1010, crews := [(0, 0)], vals := .empty
    lanes := [0], flight := 0, asked := true, units := 8, ends := none, out := [], join := [] }

/-- MatrixAndGangEvents: a batch that waits for an entry; an `mma` that is ready and granted, and an
`aclr`; entries that end now. -/
theorem witness_MatrixAndGangEvents :
    (((holding .matrix).core 0).mq.length < 32 ∧
      OnlyHold (holding .matrix) 0 .matrix { rn0 with hold := some .matrix }) ∧
    (let e := entry0 (.mma g0 0 1 (.reg 2) (.reg 10))
     let s := (stBy filled).mapCore 0 fun co => { co with mq := [e] }
     isMma e = true ∧ entryReady s 0 e = true ∧ entryFault s 0 e = none ∧ e.asked = true ∧ e.units ≠ 0 ∧
       e.ends = none ∧ (s.core 0).mq = [e] ∧ entryError s 0 e = (s, none)) ∧
    (let e := entry0 (.aclr g0 (.reg 2) (.reg 10))
     let s := (stBy filled).mapCore 0 fun co => { co with mq := [e] }
     isMma e = false ∧ entryError s 0 e = (s, none)) ∧
    ({ entry0 (.mma g0 0 1 (.reg 2) (.reg 10)) with ends := some 0, out := [(0, [(0, 1)])] }).ends = some 0 ∧
    (stBy filled).now = 0 := by
  refine ⟨⟨by decide, by unfold OnlyHold; decide⟩, by decide +kernel, by decide +kernel, by decide, by decide⟩

/-- MatrixAndGangEvents: a request for current that fits to the last unit, and one that is one too
many; a fill that is done, and one whose map leads outside the scratchpad. -/
theorem witness_MatrixAndGangEvents_fill :
    (let cl := { Cluster.reset with curcap := 0x380040, curQ := [⟨0, 0, 8, 0⟩, ⟨0, 0, 9, 0⟩] }
     currentFits cl 8 = true ∧ currentFits cl 9 = false) ∧
    (let d : Rec := { Rec.free with desc := 0x8000000000020000, map := 0, first := 0, count := 8 }
     let s := (stBy fun k => { k with recs := ⟨[(0, d)]⟩ }).mapCore 0 fun co =>
       { co with fills := [(0, 0)], fillEnd := some 0 }
     ∃ k, s.crew? 0 0 = some k ∧ recState (recOf k 0).desc ≠ 0 ∧
       (match fillBytes s 0 0 k (recOf k 0) with | .ok _ => true | .error _ => false) = true) ∧
    let d : Rec := { Rec.free with desc := 0x8000000000020000, map := 0xFFFFF, first := 0, count := 8 }
    let s := (stBy fun k => { k with recs := ⟨[(0, d)]⟩ }).mapCore 0 fun co =>
      { co with fills := [(0, 0)], fillEnd := some 0 }
    ∃ k, s.crew? 0 0 = some k ∧ recState (recOf k 0).desc ≠ 0 ∧
      (match fillBytes s 0 0 k (recOf k 0) with | .ok _ => false | .error _ => true) = true :=
  ⟨by decide, ⟨_, rfl, by decide, by decide +kernel⟩, ⟨_, rfl, by decide, by decide +kernel⟩⟩

/-- Two crews of one launch that hold an arrival. -/
def pair0 (now : Nat) (joint : Bool) : State :=
  let arr := [⟨0, 2, 7, 0⟩, ⟨1, 2, 7, 0⟩]
  let h := some (if joint then Hold.latch else .gang)
  let two := fun (k : Crew) => { filled k with region := none, gang := if joint then gangWord [0, 1] else 0 }
  let word := [0xB401FF0D063FE110]
  let s := (stBy two).mapCore 0 fun co =>
    { co with crews := co.crews.put 1 { (co.crews.getD 0 probeCrew) with number := 1 }
              gangQ := if joint then [] else arr, latchQ := if joint then arr else [] }
  { s with now
           runs := [{ rn0 with hold := h, words := word },
             { rn0 with hold := h, words := word, fibres := [(0, 1)] }] }

/-- MatrixAndGangEvents: two crews that form a gang, one that has waited too long, and the latch with
both joint arrivals. -/
theorem witness_MatrixAndGangEvents_gang :
    (gangMatch (pair0 0 false) 0).isSome = true ∧
    (let s := pair0 5000 false
     ∃ a ∈ (s.core 0).gangQ, a.slot = 0 ∧ a.at_ + fld (s.core 0).fectlNow 31 16 * clockDiv s 0 < s.now ∧
       ((s.runs.find? fun r => r.core == 0 && r.fibres.any fun f => f.2 == 0)).isSome = true) ∧
    let s := pair0 0 true
    (s.core 0).latchQ.head? = some ⟨0, 2, 7, 0⟩ ∧ (∃ k, s.crew? 0 0 = some k ∧ gangSlots k = [0, 1]) ∧
      (∀ x ∈ [0, 1], ∃ b ∈ (s.core 0).latchQ, b.slot = x) ∧ latchReady s 0 [0, 1] = true ∧
      (∀ b ∈ (s.core 0).latchQ, ∀ d ∈ (s.core 0).latchQ, b.c = d.c) ∧ (s.core 0).mq.length < 32 := by
  refine ⟨by decide +kernel, by decide +kernel, by decide +kernel, ⟨_, rfl, by decide +kernel⟩,
    by decide +kernel, by decide +kernel, by decide +kernel, by decide +kernel⟩

/-- EngineEvents, contexts: a batch that waits, a context that moved here, one that asks for current,
one that moves its chunk, one that releases, and one that faults and is answered. -/
theorem witness_EngineEvents_context :
    ((freeKey ((holding .context).core 0).ctxs 256).isSome ∧
      OnlyHold (holding .context) 0 .context { rn0 with hold := some .context }) ∧
    (let co := (stCore fun co => { co with ctxs := ⟨[(256, ctx0 1)]⟩ }).core 0
     freeKey co.ctxs 256 = some 0 ∧ co.ctxs.cells.filter (fun y => decide (256 ≤ y.1)) = [(256, ctx0 1)]) ∧
    (let s := stCore fun co => { co with ctxs := ⟨[(0, ctx0 1)]⟩ }
     nextCtx s 0 = some (0, ctx0 1) ∧ (ctx0 1).asked = false) ∧
    (let x := { ctx0 1 with asked := true, granted := true, acqDone := true }
     let s := stCore fun co => { co with ctxs := ⟨[(0, x)]⟩ }
     nextCtx s 0 = some (0, x) ∧ engWaits s 0 (ctxFor x) (chunkPages x) = none ∧
       let g := geomOf x.tensor x.desc
       (match engMove 0 (ctxFor x) g.src.space g.dst.space g.esize
          (s.mapCore 0 fun co => { co with ctxTurn := 0 })
          ((dedup ((chunkBytes g x.next).map fun n => n / g.esize)).map fun n =>
            ((g.src.base : Int) + g.offset g.sstr n, (g.dst.base : Int) + g.offset g.dstr n)) with
        | (_, .ok _) => true | (_, .error _) => false) = true) ∧
    (ownerOf ((stBy id).core 0) (ctx0 1).who).isSome ∧
      (ctx0 3).next < (geomOf (ctx0 3).tensor (ctx0 3).desc).bytes := by
  refine ⟨⟨by decide, by unfold OnlyHold; decide⟩, by decide +kernel, by decide +kernel,
    by decide +kernel, by decide +kernel⟩

/-- A unit of engine staging. -/
def unit0 (kind : UKind) (owner : Nat) : Unit_ :=
  { id := 1, kind, owner, idx := 0, chunk := 0, slot := 0, rseq := none, staged := 0, win := 0
    home := none, acked := false, back := false, told := false }

/-- EngineEvents, releases: a flag at 0x2000, a unit of bytes, and an entry of queue 0. -/
theorem witness_EngineEvents_units :
    (let u := unit0 .release 0
     let s := stCore fun co => { co with ctxs := ⟨[(0, ctx0 1)]⟩, units := [u] }
     ((s.core 0).units.find? fun u => u.owner == 0 && u.idx == 0 && u.kind == .release) = some u ∧
       unitDue s 0 u = true ∧
       (match engSignal (s.mapCore 0 fun co => { co with units := [] }) 0 (ctxFor (ctx0 1)) 0x2000 .die 0
          false with | (_, .ok _) => true | (_, .error _) => false) = true) ∧
    (let u := unit0 (.bytes 0 0 [(0x12000, 5)] none) 0
     dueUnit (stCore fun co => { co with units := [u] }) 0 = some u) ∧
    (let u := { unit0 (.bytes 0 0 [(0x11000, 5)] none) 0 with home := some 1, acked := true }
     let s := stCore fun co => { co with units := [u] }
     unitHome s 0 u.kind = some 1 ∧ dueUnit s 0 = some u ∧ unitAbsent s u = false) ∧
    let u := unit0 (.entry 0 (Tab.empty.put 0 9)) 1
    let s := (stBy fun k => { k with queues := ⟨[(0, queue0 false 0)]⟩ }).mapCore 0 fun co =>
      { co with units := [u], streams := ⟨[(0, stream0 0 1)]⟩ }
    dueUnit s 0 = some u ∧ (slotOf (s.core 0) (unitWho (s.core 0) u)).isSome = true := by
  refine ⟨by decide +kernel, by decide +kernel, by decide +kernel⟩

/-- EngineEvents, streams: a load of one step into queue 0, the drain of a ring that holds a slot, and
one in fault wait. -/
theorem witness_EngineEvents_stream :
    (let s := (stBy fun k => { k with queues := ⟨[(0, queue0 false 0)]⟩ }).mapCore 0 fun co =>
       { co with streams := ⟨[(0, stream0 0 1)]⟩ }
     streamReady s 0 (stream0 0 1) = true ∧ stagingRoom (s.core 0) ≠ 0 ∧
     engWaits s 0 (streamFor (stream0 0 1)) (stepPages (stream0 0 1) (lanesOf 64 1)) = none ∧
     ∃ k, sourceOf (s.core 0) (stream0 0 1).who = some k ∧ k.queues.get? 0 = some (queue0 false 0) ∧
       queueRoom (s.core 0) k 0 (queue0 false 0) = true ∧
       (match eachM (fun s l => engReads 0 (streamFor (stream0 0 1)) 0 4 s
           ((fld (wordOf (stream0 0 1).prog 0) 55 0 : Int) + progOffset (stream0 0 1).prog 0 l)) s
           (lanesOf 64 1) with | (_, .ok _) => true | (_, .error _) => false) = true) ∧
    (let x := { stream0 4 1 with part := 16 }
     let s := stCore fun co => { co with streams := ⟨[(0, x)]⟩, rings := ⟨[(0, 1, 0, false)]⟩ }
     streamReady s 0 x = true ∧ (ringSides s 0 x).isSome = true ∧ stagingRoom (s.core 0) ≠ 0 ∧
       (((s.launch? 0).bind fun l => l.rings.get? 0).map (·.size)).getD 0 ≤ x.part) ∧
    (stream0 0 3).next < (stream0 0 3).total := by
  refine ⟨⟨by decide +kernel, by decide, by decide +kernel, _, rfl, rfl, by decide +kernel, by decide +kernel⟩,
    by decide +kernel, by decide⟩

/-- EngineEvents, nodes: one that starts a launch and one that starts a copy, one whose work is done,
and a batch that waits for a table entry. -/
theorem witness_EngineEvents_node :
    (node0 0 2).state = 2 ∧ (node0 0 2).pred = 0 ∧ stagingRoom ((stBy id).core 0) ≠ 0 ∧
    (let x := { node0 0 2 with kind := 0, payload := [0x0100000000000100, 0x2000, 64, 0] }
     let s := stCore fun co => { co with nodes := ⟨[(0, x)]⟩ }
     ∃ k, sourceOf (s.core 0) x.who = some k ∧ copyTrap s 0 0 k false x.payload ⟨0, 0, 0⟩ = none ∧
       freeKey (s.core 0).ctxs 256 = some 0 ∧ freeIdx (s.core 0) x.who 0 = some 0) ∧
    (let x := { node0 0 3 with fin := true, succ := [1] }
     let s := stCore fun co => { co with nodes := ⟨[(0, x), (1, { node0 1 2 with pred := 1 })]⟩ }
     (s.core 0).nodes.get? 0 = some x ∧ x.keep = true ∧ 0 ∉ x.succ ∧ x.succ.Nodup ∧
       ((s.core 0).units.find? fun u => u.owner == 2 && u.idx == 0) = none ∧
       (ownerOf (s.core 0) x.who).isSome = true) ∧
    (freeKey ((holding .nodeTable).core 0).nodes 512).isSome ∧
      OnlyHold (holding .nodeTable) 0 .nodeTable { rn0 with hold := some .nodeTable } := by
  refine ⟨by decide, by decide, by decide, ⟨_, rfl, by decide +kernel, by decide +kernel,
    by decide +kernel⟩, by decide +kernel, by decide +kernel, by unfold OnlyHold; decide⟩

/-- Memory with the tables that map the first GiB onto itself, a control block at 0x3000 in a
state with one packet at 0x4000, and the hash table of the doorbells, which has it under key 5. -/
def memOf (seq st : Byte) (packet : List Host.Cell) : State :=
  let s := (stBy id).mapMod fun m => { m with roots := ⟨[(0, 1)]⟩, cbhbase := 0x5000 }
  { s with mem := [(0x800, 3), (0x801, 0x10), (0x1000, 3), (0x1001, 0x20), (0x2000, 0x1D)] ++
      (if seq = 0 then [] else [(0x3000, seq)]) ++ [(0x3008, 1)] ++
      (if st = 0 then [] else [(0x300B, st)]) ++ [(0x3011, 0x40), (0x301C, 1)] ++ packet ++
      [(0x5000, 4), (0x5050, 1), (0x5054, 5), (0x5059, 0x30)] }

/-- A walker slot. -/
def walk0 (st : WState) : Walker := { cb := 0x3000, st, packet := [] }

/-- Packets, doorbells: a key with a control block and one without, a pointer that brings a packet. -/
theorem witness_Packets_doorbell :
    Memory.wf (memOf 0 0 []).mem = true ∧ (wakeModule (memOf 0 0 [])).mod.cbhbase ≠ 0 ∧
    doorbellFind (wakeModule (memOf 0 0 [])) (fld (0x600000000 : W64) 63 32) = none ∧
    doorbellFind (wakeModule (memOf 0 0 [])) (fld (0x500000002 : W64) 63 32) = some 0x3000 ∧
    cbSeq (memOf 0 0 []) 0x3000 % 2 = 0 ∧ cbState (memOf 0 0 []) 0x3000 = 0 ∧
    (2 + 2 ^ 32 - cbReadIdx (memOf 0 0 []) 0x3000) % 2 ^ 32 ≤ cbSize (memOf 0 0 []) 0x3000 ∧
    cbReadIdx (cbUpdate (memOf 0 0 []) 0x3000
      [(3, setFld (cbWord (memOf 0 0 []) 0x3000 3) 63 32 2)]) 0x3000 ≠ 2 ∧
    cbSeq (memOf 1 0 []) 0x3000 % 2 = 1 ∧ cbState (memOf 0 0x20 []) 0x3000 = 2 ∧
    cbTaken (memOf 0 0x20 []) 0x3000 = false := by decide +kernel

/-- Packets, walkers: a block to read again, a free slot, and a queue with packets. -/
theorem witness_Packets_walker :
    ((memOf 0 0 []).mapMod fun m => { m with walkers := ⟨[(0, walk0 (.reread 0 none))]⟩ }).mod.walkers.get? 0 =
      some { cb := 0x3000, st := .reread 0 none, packet := [] } ∧
    0 ≤ (memOf 0 0 []).now ∧
    (let s := (memOf 0 0 []).mapMod fun m => { m with walkQ := [0x3000] }
     s.mod.walkQ = [0x3000] ∧ ((List.range 16).find? fun i => (s.mod.walkers.get? i).isNone) = some 0 ∧
       cbReadIdx s 0x3000 ≠ cbWriteIdx s 0x3000) := by decide +kernel

/-- Packets, reading one: a packet that is read, with a code it is refused for and without, one whose
page is absent, and a queue that is free. -/
theorem witness_Packets_read :
    (let s := (memOf 0 0x10 [(0x4000, 2), (0x4009, 0x60)]).mapMod fun m =>
       { m with walkers := ⟨[(0, walk0 .read)]⟩ }
     cbSeq s 0x3000 % 2 = 0 ∧ cbState s 0x3000 = 1 ∧ cbReadIdx s 0x3000 ≠ cbWriteIdx s 0x3000 ∧
       cbBase s 0x3000 + 64 * (cbReadIdx s 0x3000 % cbSize s 0x3000) = 0x4000 ∧
       modAway s (cbPasid s 0x3000) 0x4000 = false ∧
       (match modWords (cbPasid s 0x3000) 8 0x4000 s with
        | .ok (u, ws) => ws.getD 0 0 == 2 && ws.getD 1 0 == 0x6000 && packetBad ws == none &&
            !queueBusy u 0x3000 && !pkBar ws &&
            !sigAway u 0x3000 ws && !sigAway s 0x3000 ws
        | .error _ => false) = true) ∧
    packetBad [4, 0, 0, 0, 0, 0, 0, 0] = some 0x01 ∧ packetBad [2, 1, 0, 0, 0, 0, 0, 0] = some 0x10 ∧
    (let s := { (memOf 0 0x10 []) with mem := [(0x3008, 1)] }
     (match modWords (cbPasid s 0x3000) 8 0x4000 s with | .ok _ => false | .error _ => true) = true) ∧
    (let s := (memOf 0 0x10 []).mapMod fun m => { m with tickets := [(0, { launch0.post with cb := 0x3000 })] }
     queueBusy s 0x3000 = true) := by decide +kernel

/-- Packets, what one does: room in the ticket list and none, a condition that does not hold, and a
signal whose address translates. -/
theorem witness_Packets_act :
    (memOf 0 0x10 []).mod.tickets.length - (memOf 0 0x10 []).mod.claimed.length < 256 ∧
    fld ([(1 : W64)].getD 0 0) 3 0 = 1 ∧ cbTaken (memOf 0 0x10 []) 0x3000 = false ∧
    256 ≤ (List.replicate 256 (0, launch0.post)).length ∧
    (let s := memOf 0 0x10 []
     (match modRead s (cbPasid s 0x3000) 0x6000 8 with
      | .ok (_, x) => !condHolds 0 1 x | .error _ => false) = true ∧
     (match modXlate s (cbPasid s 0x3000) true 0x6000 with
      | .ok _ => true | .error _ => false) = true) := by decide +kernel

/-- Launches: a claimed ticket whose launch passes the check, with its image at 0x7000 and its block at
0x8000; a free entry; and a launch that is done. -/
theorem witness_Launches :
    (let p := { launch0.post with packet := [0x100000000, 0x7000, 0, 0, 0, 0, 0x8000, 0] }
     let s := (memOf 0 0x10 [(0x7000, 0x52), (0x7001, 0x59), (0x7002, 0x4C), (0x7003, 0x42), (0x7004, 1),
       (0x700E, 0x00), (0x700F, 0x08), (0x7010, 64), (0x7014, 255), (0x7015, 255), (0x7016, 255),
       (0x7017, 255), (0x7018, 16)]).mapMod fun m =>
         { m with tickets := [(0, p)], claimed := [(0, 0)], launches := .empty }
     (s.mod.tickets.find? fun q => q.1 == 0) = some (0, p) ∧ mayCheck s 0 0 = true ∧
       cbTaken s p.cb = false ∧
       ((List.range 64).find? fun i => (s.launch? i).isNone) = some 0) ∧
    let s := (memOf 0 0 []).mapMod fun m => { m with launches := ⟨[(0, { launch0 with alive := [] })]⟩ }
    let u := { s with cores := .empty, runs := [] }
    launchDone u 0 = true ∧ ∀ l, u.launch? 0 = some l → cbTaken u l.post.cb = false ∧
      modAway u l.post.pasid (pkDone l.post.packet) = false := by
  refine ⟨by decide +kernel, by decide +kernel, fun l h => ?_⟩
  cases h.symm.trans (rfl : _ = some _)
  decide +kernel

/-- Launches: the same launch check answers a launch. -/
theorem witness_Launches_check :
    let p := { launch0.post with packet := [0x100000000, 0x7000, 0, 0, 0, 0, 0x8000, 0] }
    let s := memOf 0 0x10 [(0x7000, 0x52), (0x7001, 0x59), (0x7002, 0x4C), (0x7003, 0x42), (0x7004, 1),
      (0x700F, 0x08), (0x7010, 64), (0x7014, 255), (0x7015, 255), (0x7016, 255), (0x7017, 255),
      (0x7018, 16)]
    (match launchChecks s p with | .ok _ => true | .error _ => false) = true := by decide +kernel

/-- A core that may take crews, with a launch that has one crew to place. -/
def open0 : State :=
  ((ground State.reset).mapMod fun m =>
    { m with keepers := true, launches := ⟨[(0, { launch0 with taken := 0, alive := [] })]⟩ }).mapCore 0
    fun co => { co with halted := false }

/-- Launches: the next crew of a launch, a child at the young end, room in the deque, and a Drover. -/
theorem witness_Launches_place :
    ((nextCrew open0 0).map fun q => (q.1, q.2.2.1)) = some (0, 0) ∧
    (let s := open0.mapCore 0 fun co =>
       { co with deque := [{ launch := 0, number := 1, depth := 1, entry := 0x1000, sparg := 0, ib := 5, mb := 5 }] }
     ((nextChild s 0).map fun q => q.2.2.1) = some 0) ∧
    dequeFree (open0.core 0) ≠ 0 ∧
    droverReady (open0.mapMod fun m => { m with launches := ⟨[(0, { launch0 with post :=
      { launch0.post with packet := [0x100000000 + 7 * 2 ^ 23, 0, 0, 0, 0, 0, 0, 0] } })]⟩ }) 0 = true := by
  decide +kernel

/-- Two crews with the buddy allocator whose windows divide the store, and a launch whose scratchpad
fits in no gap. -/
def divided (pause : Bool) : State :=
  let small := fun (n : BitVec 32) (a b : Nat) =>
    { probeCrew with number := n, foot := 0x0840000000000000, base0 := a, base1 := b, pause, region := none }
  (open0.mapMod fun m => { m with launches := ⟨[(0, { launch0 with
    taken := 0, alive := [], foot := 0x0840010000000000 })]⟩ }).mapCore 0 fun co =>
    { co with crews := ⟨[(0, small 0 200 420), (1, small 1 640 860)]⟩ }

/-- BinEvents, compaction of the windows: crews that are still, and crews that are not held yet. -/
theorem witness_BinEvents_windows :
    (needsWindows (divided true) 0 = true ∧ (∀ x ∈ movedCrews ((divided true).core 0),
      (((divided true).crew? 0 x).any fun k => k.pause && k.region.isNone) = true ∧
        insideClause (divided true) 0 x = false)) ∧
    needsWindows (divided false) 0 = true ∧ ∃ x ∈ movedCrews ((divided false).core 0),
      (((divided false).crew? 0 x).any fun k => !k.pause) = true := by decide +kernel

/-- A crew whose share of the operand buffer stands in the middle, and a launch of eight records. -/
def shared (pause : Bool) : State :=
  (open0.mapMod fun m => { m with launches := ⟨[(0, { launch0 with
    taken := 0, alive := [], foot := 0x0800000000100000 })]⟩ }).mapCore 0 fun co =>
    { co with crews := ⟨[(0, { probeCrew with
      foot := 0x0800000000020000, obase := 480, pause, region := none })]⟩ }

/-- BinEvents, compaction of the operand buffer. -/
theorem witness_BinEvents_shares :
    (needsShares (shared true) 0 = true ∧ ∀ x ∈ shareMovers ((shared true).core 0),
      (((shared true).crew? 0 x).any fun k => k.pause) = true ∧ insideClause (shared true) 0 x = false ∧
        inMatrixQueue ((shared true).core 0) x = false ∧ ((shared true).core 0).fills = []) ∧
    needsShares (shared false) 0 = true ∧ ∃ x ∈ shareMovers ((shared false).core 0),
      (((shared false).crew? 0 x).any fun k => !k.pause) = true := by decide +kernel

/-- A bin with the fibre of the crew. -/
def bin0 (gather ready : Bool) : Bin :=
  { tenant := 0, pc := 0x1000, rpos := 0, narrow := false, lanes := ⟨[(0, 0)]⟩, born := 0, last := 0
    gather, gtime := 4096, ready, forced := false }

/-- A core with that bin alone. -/
def binned (now : Nat) (b : Bin) : State :=
  let s := (stBy fun k => { k with region := none, fibres := ⟨[(0, newFibre 0x1000)]⟩ }).mapCore 0 fun co =>
    { co with bins := ⟨[(0, b)]⟩, slots := ⟨[(0, 0), (40, 0)]⟩ }
  { s with now, runs := [] }

/-- BinEvents: a bin that is old enough, one whose gather time is up, and one that issues and finds its
clause missing. -/
theorem witness_BinEvents :
    (bin0 false false).born + fld ((binned 32 (bin0 false false)).core 0).fectlNow 7 0 *
      clockDiv (binned 32 (bin0 false false)) 0 ≤ 32 ∧
    fld ((binned 32 (bin0 true false)).core 0).fectlNow 31 16 * clockDiv (binned 32 (bin0 true false)) 0 ≤
      (bin0 true false).gtime ∧
    (let s := binned 40 (bin0 false true)
     let u := settleWaits (wakeBlocked (drainWaits s 0) 0) 0
     ((nextIssue u 0).any fun x => !x.wait && x.idx == 0) = true ∧ (u.core 0).bins.get? 0 = some (bin0 false true) ∧
       (u.core 0).binWait = [] ∧
       (let q := mayIssue (((bin0 false true).lanes.cells.foldl (fun s p => s.mapFibre 0 p.2 p.1 fun f =>
           { f with st := .running }) (u.mapCore 0 fun co => { co with bins := co.bins.del 0 }))) 0 0x1000 [(0, 0)]
        q.2 = [(0, 0)] ∧ (match fetchClause (q.1.core 0) 0 0x1000 with | .missing a => a == 0x1000 | _ => false) = true)) ∧
    (nextIssue open0 0).isNone = true := by decide +kernel

/-- BinEvents: a line that is fetched, and a demand whose page only a Keeper may use. -/
theorem witness_BinEvents_fill :
    (let s := stCore fun co => { co with ifills := [(0x10, 0, true)] }
     ((s.core 0).ifills.find? fun f => unitKnown s (tenantTctx s f.2.1) (fillAsker 0 f.1 f.2.1)) =
         some (0x10, 0, true) ∧
       (match icFill s 0 0x10 0 with | .done v => (v.core 0).fetches.isEmpty | _ => false) = true) ∧
    let f : FetchB := { tenant := 0, pc := 0x1000, rpos := 0, fibres := [(0, 0)], partials := false }
    let s := stCore fun co => { co with ifills := [(0x10, 0, true)], fetches := [f], tlb := [{ page0 with leaf := 0x1000D }] }
    ((s.core 0).ifills.find? fun f => unitKnown s (tenantTctx s f.2.1) (fillAsker 0 f.1 f.2.1)) =
        some (0x10, 0, true) ∧ f.tenant = 0 ∧ 0x1000 / 256 = 0x10 ∧
      (match icFill s 0 0x10 0 with
        | .failed v _ => decide ((v.core 0).fetches = [f]) && (v.fibre? 0 0 0).isSome &&
            match fetchClause (v.core 0) 0 0x1000 with | .missing a => a == 0x1000 | _ => false
        | _ => false) = true := by decide +kernel

/-- A clause that waits to open a region. -/
def waiting0 (quiet : Bool) : State :=
  let s := (stBy fun k => { k with region := none }).mapCore 0 fun co =>
    { co with waits := [{ tenant := 0, clause := 0x1000, hdr := if quiet then 0 else 0x80000000000000
                          words := [0x3F81FFFFFFFFE000], fibres := [(0, 0)], rpos := 0, from_ := some 0
                          opens := true, head := true, quiet, slotted := false }]
              slots := ⟨[(0, 0)]⟩ }
  { s with runs := [] }

/-- ClauseEvents: the opening of a head's region and of a quiet crew's, the end of a clause, a result
that is ready and a rendezvous that is due. -/
theorem witness_ClauseEvents :
    (∀ quiet ∈ [false, true], openTurn (waiting0 quiet) 0 0 quiet = true ∧
      (popWait (waiting0 quiet) 0 0).any (fun p => p.2.2 == [(0, 0)]) = true ∧
      (popWait (waiting0 quiet) 0 0).any (fun p => (firstBlocks p.1 (runFor 0 p.2.1.clause p.2.1.hdr p.2.1.words
        p.2.1.rpos p.1.now p.2.2) true).2 == [(0, 0)]) = true) ∧
    (let s := { (stBy id) with runs := [{ rn0 with pos := 1, quits := [] }] }
     s.runs = [{ rn0 with pos := 1, quits := [] }] ∧ rn0.words.length ≤ 1 ∧ rn0.hold = none ∧ rn0.due ≤ s.now) := by
  decide +kernel

/-- A result that is ready for lane 0, the last register of the file its target. -/
def flight0 : Flight :=
  { id := 3, sbi := 1, ready := true
    lanes := ⟨[(0, { reg := 255, n := 1, size := 4, sx := false, data := 7, req := none, dead := [] })]⟩ }

/-- ClauseEvents: a result that is ready, and a rendezvous that is due. -/
theorem witness_ClauseEvents_results :
    ((let k := { probeCrew with flights := [flight0], sb := Tab.empty.put 1 1 }
      (k.flights.find? fun f => f.id == 3 && f.ready) = some flight0) ∧
      (flight0.lanes.cells.map (·.1)).Nodup ∧
      ∀ p ∈ flight0.lanes.cells, p.1 < 64 ∧ p.2.reg + p.2.n ≤ 256 ∧ p.2.dead = []) ∧
    let v : Rdv := { clause := 0x1000, pos := 0, instr := .vote g0 .every false false 0 .none (.reg 10), mask := 1
                     next := 0x1010, arrived := ⟨[(0, { active := true, a := 0, b := 0, lat := .empty })]⟩
                     done := some 0 }
    let k := { probeCrew with rdvs := [v] }
    k.rdvs[0]? = some v ∧ v.done = some 0 ∧ 0 ∈ v.arrived.cells.map (·.1) := by decide +kernel

/-- Packets: a packet that its barrier holds and whose queue is free, a poll that is due, and a launch
that found the list full and finds room. -/
theorem witness_Packets_waits :
    let ws : List W64 := [2, 0x6000, 0, 0, 0, 0, 0, 0]
    ∀ st ∈ [WState.barHeld, .poll 0, .full],
      let s := (memOf 0 0x10 []).mapMod fun m =>
        { m with walkers := ⟨[(0, { cb := 0x3000, st, packet := ws })]⟩ }
      s.mod.walkers.get? 0 = some { cb := 0x3000, st, packet := ws } ∧ cbTaken s 0x3000 = false ∧
        queueBusy s 0x3000 = false ∧ sigAway s 0x3000 ws = false ∧
        s.mod.tickets.length - s.mod.claimed.length < 256 := by decide +kernel

/-- BarrierEvents: one arrival and one departure that wait at the first and at the last unit, and a
group whose one member has arrived. -/
theorem witness_BarrierEvents :
    (∀ unit ∈ [0, 1023],
      let l := { launch0 with bup := Tab.empty.put (barKey 0 0 unit) 1, bdep := Tab.empty.put (barKey 0 0 unit) 1 }
      let s := (ground State.reset).mapMod fun m => { m with launches := ⟨[(0, l)]⟩ }
      s.launch? 0 = some l ∧ l.bup.getD (barKey 0 0 unit) 0 ≠ 0 ∧ l.bdep.getD (barKey 0 0 unit) 0 ≠ 0 ∧
        unitFull s 0 0 0 unit l = true) ∧
    let x : Group := { v := true, first := 0, count := 1, stride := 1, episode := 0, departed := 0, arrived := 1 }
    x.arrived ≠ 0 ∧ x.members ≤ x.arrived + x.departed.toNat := by decide +kernel

/-- SystemRegisterWrites: the least and the greatest word of each field that is taken, and the first
that is refused. -/
theorem witness_SystemRegisterWrites :
    (64 ≤ fld (0x00400004 : W64) 31 16 ∧ 4 ≤ fld (0x00400004 : W64) 7 0) ∧ fld (0x003F0004 : W64) 31 16 < 64 ∧
    fld (0x00400003 : W64) 7 0 < 4 ∧
    (∀ j, j < 4 → 1 ≤ fld (0x84210 : W64) (5 * j + 4) (5 * j) ∧ fld (0x84210 : W64) (5 * j + 4) (5 * j) ≤ 16) ∧
    16 < fld (0x84211 : W64) 4 0 ∧ fld (0 : W64) 9 5 = 0 ∧
    (fld (st0.core 0).qwin 31 16 ≤ fld (0x88 : W64) 15 0 ∧ fld (0x87 : W64) 15 0 < fld (st0.core 0).qwin 31 16) ∧
    fld (0x100000000 : W64) 39 32 ≠ 0 ∧ 12 ≤ fld (12 : W64) 7 0 ∧ fld (11 : W64) 7 0 < 12 ∧
    (10 ≤ fld (0x000A0000 : W64) 31 16 ∧ fld (0x00090000 : W64) 31 16 < 10) ∧
    (let w : W64 := 0x007D3E3D3C000001
     60 ≤ fld w 31 24 ∧ fld w 31 24 < fld w 39 32 ∧ fld w 39 32 < fld w 47 40 ∧ fld w 47 40 < fld w 55 48 ∧
       fld w 55 48 ≤ 125 ∧ 1 ≤ fld w 15 0) ∧
    (let w : W64 := 0x0000000000000000
     fld w 63 56 = 0 ∧ inDeviceMemory (fld w 63 34 * 2 ^ 30) = true) ∧
    inDeviceMemory (fld (0xFFFFFFFFFFFFFFFF : W64) 63 34 * 2 ^ 30) = false := by decide

/-- SystemRegisterWrites, COOLCTL: a word of limits that the grants of reset allow. -/
theorem witness_SystemRegisterWrites_coolctl :
    let w : W64 := 0x0000053214001194
    let s := st0
    5 ≤ fld w 47 40 ∧ fld w 47 40 ≤ 40 ∧ 50 ≤ fld w 39 32 ∧ fld w 39 32 ≤ 95 ∧ 10 ≤ fld w 31 24 ∧
      fld w 31 24 ≤ 60 ∧ 640 ≤ fld w 12 0 ∧ fld w 12 0 ≤ 4500 ∧ grantSum s.mod ≤ fld w 12 0 ∧
      ∀ z, z < 64 → zState (zoneOfMod s.mod z) ≠ 4 →
        fld w 31 24 ≤ zGrant (zoneOfMod s.mod z) + zReq (zoneOfMod s.mod z) := by decide +kernel

/-- SystemRegisterWrites, DBGKILL: a crew that a debugger holds and one that runs; TCTX of a launch. -/
theorem witness_SystemRegisterWrites_debug :
    (∃ k, (stBy fun k => { k with dbg := 0x81 }).crew? 0 0 = some k ∧ dbgHeld k = true) ∧
    (∃ k, (stBy id).crew? 0 0 = some k ∧ dbgHeld k = false) ∧
    0 ≠ Config.noTenant ∧ (stBy id).launch? 0 = some launch0 :=
  ⟨⟨_, rfl, by decide⟩, ⟨_, rfl, by decide⟩, by decide, by decide⟩

/-- A crew whose region waits for its reissue. -/
def restarted (again : Nat) (k : Crew) : Crew :=
  { k with region := k.region.map fun g => { g with again } }

/-- SensorReports: a sensor that is on, the first of a core and the last of a cluster; an uncleared region
of the crew; and a region that waits for its reissue. -/
theorem witness_SensorReports :
    sensorOn (stBy id) 0 = true ∧ 0 ∈ sensorCores 0 ∧ 1663 < 1664 ∧
    sensorOn ((stBy id).mapMod fun m => { m with sensOff := [5] }) 5 = false ∧
    ((stBy id).core 0).reportAt ≠ (stBy id).now + 1 ∧
    (((stBy id).core 0).crews.cells.map (·.1)).Nodup ∧
    (((stBy id).crew? 0 0).any fun k => k.region.isSome) = true ∧
    (((stBy (restarted 1)).crew? 0 0).any fun k => reissueReady (stBy (restarted 1)) k) = true := by
  decide +kernel

/-- A store of four bytes at 0x12000, cleared or not. -/
def store0 (cleared : Bool) (home : Option Nat) : LEntry :=
  { id := 1, kind := .store, slot := 0, rseq := 1, sector := 0x480, mask := 0xF, data := 0x04030201, attr := 1
    cls := 0, ev := false, eff := .bytes, home, acked := false, cleared, fence := [], told := false
    back := false, mate := none }

/-- SensorReports: a Pass sensor and a core with an uncleared entry in the staging of a die on the
link, the first and the last of them. -/
theorem witness_SensorReports_pass :
    let s := { (stCore fun co => { co with lodge := [store0 false (some 1)] }) with
      dies := ⟨[(1, { Die.reset with staging := [{ core := 0, e := store0 false (some 1) }] })]⟩ }
    sensorOn s 1664 = true ∧ 1664 ≤ 1664 ∧ 1695 < 1696 ∧ 0 ∈ linkVale s ((1664 - 1664) / 8) := by
  decide +kernel

/-- LodgeEvents: a region whose window is out, and one of a quiet crew; an entry that is released, at
home and to another die. -/
theorem witness_LodgeEvents :
    (let s := { (stCore id) with now := 1000000, runs := [] }
     0 ∈ clearSet s 0 0 ∧ clearDue s 0 0 = true ∧ (clearSet s 0 0).length = 1) ∧
    (∀ home ∈ [none, some 1],
      let s := { (stBy fun k => { k with region := none }).mapCore 0 fun co =>
        { co with lodge := [store0 true home] } with runs := [] }
      clearDue s 0 0 = false ∧ releasable s 0 = some (store0 true home) ∧
        releaseTurn s 0 (withMate (s.core 0) (store0 true home)).length = true) ∧
    zoneOf (64 * (store0 true none).sector) = .device ∧ (store0 true none).attr = 1 ∧
    (let e := { store0 true none with mate := some 2 }
     let m := { store0 true none with id := 2, sector := 0x481, mate := some 1 }
     let s := { (stBy fun k => { k with region := none }).mapCore 0 fun co =>
       { co with lodge := [e, m] } with runs := [] }
     clearDue s 0 0 = false ∧ releasable s 0 = some e ∧ withMate (s.core 0) e = [e, m] ∧
       releaseTurn s 0 (withMate (s.core 0) e).length = true) := by decide +kernel

/-- LodgeEvents: a batch that waits for entries that are free, one for more than there are, and one
that has waited too long. -/
theorem witness_LodgeEvents_wait :
    (let r := { rn0 with hold := some .lodge }
     let s := { (stBy id) with runs := [r] }
     lodgeWaiter s 0 = some r ∧ lodgeTaken s 0 s.runs + lodgeNeed r ≤ 1024 ∧
       s.now < r.asked + 16 * fld (s.core 0).qwin 15 0 * clockDiv s 0 ∧
       r.asked + 16 * fld (s.core 0).qwin 15 0 * clockDiv s 0 ≤ 2560 ∧ 0 ∈ r.slots) ∧
    let r := { rn0 with hold := some .lodge, tmp := [(1, 1025)] }
    let s := { (stBy id) with runs := [r] }
    lodgeWaiter s 0 = some r ∧ 1024 < lodgeTaken s 0 s.runs + lodgeNeed r := by decide +kernel

/-- MessagesAndWalks: each message at the head of the way from core 0 to die 1, an entry that waits for
room, one that is acknowledged, and the staging with room and full. -/
theorem witness_MessagesAndWalks :
    (∀ m ∈ [Msg.entry (store0 false (some 1)), .clear 0 1 1, .squash 0 1, .access (store0 true (some 1))],
      let s := { (stBy id) with net := Tab.empty.put 1 [m] }
      (netHead s 0 1).map (·.1) = some m ∧ s.upsets = [] ∧ clearedBefore (s.die 1) 0 (store0 false (some 1)) = false ∧
        dieFull (s.die 1) = false ∧ stagedFor (s.die 1) 0 0 1 1 = []) ∧
    (let e := { store0 false (some 1) with back := true }
     let s := { (stCore fun co => { co with lodge := [e] }) with
       dies := ⟨[(1, { Die.reset with staging := [{ core := 0, e := e }] })]⟩ }
     ((s.core 0).lodge.find? fun e => e.home == some 1 && e.back) = some e ∧
       ((s.core 0).lodge.find? fun e => e.id == 1 && !e.acked) = some e ∧
       ((s.die 1).staging.any fun x => x.core == 0 && x.e.id == 1) = true) ∧
    dieFull { Die.reset with units := List.replicate 2048 (0, 1) } = true ∧
    (let u := { unit0 (.bytes 0 0 [(0x11000, 5)] none) 0 with home := some 1 }
     let s := (stCore fun co => { co with units := [u] })
     let t := (stCore fun co => { co with units := [{ u with told := true }] })
     heldUnit s 0 1 = some u ∧ heldUnit t 0 1 = none ∧ unitHeld t u = false ∧
       (netHead { s with net := Tab.empty.put 1 [.unit_ 1] } 0 1).map (·.1) = some (.unit_ 1) ∧
       ((t.core 0).units.find? fun v => v.id == 1 && v.told).isSome = true ∧
       ({ Die.reset with units := [(0, 1)] } : Die).units.contains (0, 1) = true ∧
       linkVale { s with net := Tab.empty.put 1 [.unit_ 1] } 0 = [0]) := by decide +kernel

/-- A lane that awaits one byte of memory. -/
def await0 : FLane :=
  { reg := 20, n := 1, size := 1, sx := false, data := 0, dead := []
    req := some { pas := [0x12000], got := [none], tags := [(1, 0)], ev := false } }

/-- MessagesAndWalks: a miss whose walk finds a leaf, and a load whose data may come. -/
theorem witness_MessagesAndWalks_walk :
    (let a : Asker :=
       { core := 0, kind := .access 0 0, keeper := false, write := true, fetch := false, va := 0x4000 }
     let m : Miss := { pasid := 0, root := 1, va := 0x4000, askers := [a] }
     let s := (memOf 0 0 []).mapCluster 0 fun cl => { cl with misses := [m] }
     (s.cluster 0).misses = [m] ∧
       (match walk (s.mapCluster 0 fun cl => { cl with misses := [] }) 0 0 1 0x4000 with
        | .ok (leaf, _) => (askFails (.ok leaf) a).isNone | .error _ => false) = true) ∧
    let f : Flight := { id := 3, sbi := 1, ready := false, lanes := ⟨[(0, await0)]⟩ }
    let s := stBy fun k => { k with flights := [f] }
    (((s.crew? 0 0).any fun k => (k.flights.find? fun f => f.id == 3 && awaitsData f) == some f) = true) ∧
      dataFree s 0 0 f = true := by decide +kernel

/-- A trap of a cause at position 0 of the first clause. -/
def trap0 (cause : Cause) : Trap :=
  { cause, sub := 0, code := 0, clause := 0x1000, at_ := 0, res := 0x1000, pos := 0, lat := .empty, next := 0x1010
    data := 0x4000, delivered := false, group := 0, was := none, wr := false }

/-- A crew with one fibre in a trap, and no region open. -/
def trapped0 (t : Trap) (k : Crew) : Crew :=
  { k with region := none, fibres := ⟨[(0, { newFibre 0x1000 with st := .trapped t })]⟩ }

/-- TrapDelivery: a trap of each of the three causes that is next, a storm of an attached crew that is due,
and a page request with its fibre that waits for it. -/
theorem witness_TrapDelivery :
    (∀ cause ∈ [Cause.translation, .break_, .step],
      let s := stBy (trapped0 (trap0 cause))
      ((s.core 0).crews.cells.map (·.1)).Nodup ∧
        ((s.core 0).crews.cells.find? fun p => stormDue s p.2) = none ∧
        ((s.core 0).crews.cells.findSome? fun p => (nextDelivery p.2).map fun q => (p.1, q)) =
          some (0, 0, trap0 cause) ∧ isKeeper 0 = false ∧ (s.core 0).traps.length < 64) ∧
    (let s := stBy fun k => { k with pendC := some .lodgeOverflow, dbg := 0x80 }
     ((s.core 0).crews.cells.find? fun p => stormDue s p.2).any (fun p =>
       p.1 == 0 && p.2.pendC == some .lodgeOverflow && attached p.2) = true) ∧
    (let s := ((stBy (trapped0 { trap0 .translation with delivered := true })).mapCore 0 fun co =>
       { co with prqBusy := true, prqReq := 0 }).mapMod fun m => { m with hoststat := 1 }
     (s.core 0).prqBusy = true ∧ linkUp s = true ∧
       ((s.crew? 0 0).any fun k => (k.fibres.get? 0).any fun f =>
         wantsPage s 0 k (s.core 0).prqReq f) = true) ∧
    linkUp (stBy id) = false := by decide +kernel

/-- KeeperWatch: a crew that enters a yield between clauses, one that leaves it with the least budgets, a
watchdog at its limit, and a heartbeat period that is over, with a beat and without. -/
theorem witness_KeeperWatch :
    (let s := { (stBy fun k => { k with yield := .entering }) with runs := [] }
     insideClause s 0 0 = false ∧ ((s.crew? 0 0).any fun k => k.yield == .entering) = true) ∧
    (((stBy fun k => { k with yield := .complete, ib := 1, mb := 1 }).crew? 0 0).any fun k =>
      k.yield == .complete && k.ib != 0 && k.mb != 0) = true ∧
    (((stBy fun k => { k with wdLimit := 5, wdCount := 5 }).crew? 0 0).any fun k =>
      k.wdLimit != 0 && k.wdCount == k.wdLimit && !k.wdSaid && !k.wdPast) = true ∧ bit (st0.core 0).hbctl 1 = true ∧
    (let s := { (stBy id).mapMod fun m => { m with keepers := true } with now := 1000 * Config.ccPerUs }
     (s.core 0).captured = false ∧ (s.core 0).beatAt + fld (s.core 0).hbctl 31 16 ≤ usOf s.now ∧
       ((s.core 0).beatSeen || !bit (s.core 0).hbctl 0 || (s.core 0).halted || !s.mod.keepers) = false) ∧
    usOf (stBy id).now < (st0.core 0).beatAt + fld (st0.core 0).hbctl 31 16 := by decide +kernel

/-- MessagesAndWalks: an entry on the way to another die whose code is bad, and one that no error of the
link touches. -/
theorem witness_MessagesAndWalks_link :
    let e := store0 false (some 1)
    let s := { (stBy id) with
      upsets := [{ site := .link 0 1, since := 0, fixed := false, told := none, crews := [] }]
      net := Tab.empty.put 1 [.entry e] }
    (match netHead s 0 1 with
      | some (m, s1) => m == .entry e && (readSites s1 0 none (· == .link 0 e.id)).2 == some (.link 0 1)
      | none => false) = true ∧
    readSites (stBy id) 0 none (· == .link 0 e.id) = (stBy id, none) := by decide +kernel

/-- A zone in a state and at a step, with what it measures. -/
def zone0 (state step : Nat) : Zone :=
  { Zone.reset with w0 := setFld (setFld Zone.reset.w0 39 37 state) 36 34 step }

/-- A state whose zone 0 is that one, in the last cycle of a microsecond. -/
def zoned (x : Zone) (us : Nat) : State :=
  { (stBy id).mapMod fun m => { m with zones := ⟨[(0, x)]⟩ } with now := us * Config.ccPerUs + Config.ccPerUs - 1 }

/-- HeatAndCoolant, samples: each threshold reached, and the last degree below the least of them. -/
theorem witness_HeatAndCoolant_thermal :
    (∀ i, i < 4 → bit (st0.core 0).armed i = true ∧ threshold (st0.core 0).thctl i ≤ 255) ∧
    (∃ n, n < 256 ∧ ∀ i, i < 4 → n < threshold (st0.core 0).thctl i) ∧
    (st0.core 0).traps.length + 3 < 64 := by
  refine ⟨by decide +kernel, ⟨80, by decide, by decide +kernel⟩, by decide +kernel⟩

/-- HeatAndCoolant, zones: a flow below the limit for exactly 10 ms, a difference above its limit for 1 ms, and
a zone with neither; a zone in RUN and one at each end of the steps that gas starts again. -/
theorem witness_HeatAndCoolant :
    (let s := zoned { Zone.reset with lowAt := some 7 } 10007
     let x := zoneOfMod s.mod 0
     usEnds s = true ∧ lowFlow s.mod x = true ∧ bit x.w3 0 = false ∧ x.lowAt = some 7 ∧ 7 + 10000 ≤ usOf s.now) ∧
    (let s := zoned { Zone.reset with hotAt := some 7, w2 := 0xFFFF00000000 } 1007
     let x := zoneOfMod s.mod 0
     usEnds s = true ∧ highDt s.mod x = true ∧ bit x.w3 1 = false ∧ x.hotAt = some 7 ∧ 7 + 1000 ≤ usOf s.now) ∧
    lowFlow st0.mod { Zone.reset with w1 := 0xFF00000000FFFF } = false ∧
    highDt st0.mod Zone.reset = false ∧ usEnds st0 = false ∧ zState Zone.reset = 1 ∧ zStep Zone.reset ≠ 1 ∧
    bit Zone.reset.w3 2 = false ∧ zStep (zone0 2 1) = 1 ∧
    (∀ n ∈ [2, 6], zState (zone0 2 n) ≠ 1 ∧ zStep (zone0 2 n) = n) ∧
    flowBelow (zone0 3 6) 90 = true := by decide +kernel

/-- HeatAndCoolant, steps: each step in the microsecond that ends it and in the one before; the watch of step 6
with a full flow, with none, and after the third try. -/
theorem witness_HeatAndCoolant_steps :
    (∀ p ∈ [(2, 20000), (3, 1000), (4, 500000), (5, 50000), (6, 200000)],
      zStep (zone0 3 p.1) = p.1 ∧ (zone0 3 p.1).stepAt + p.2 ≤ usOf (zoned (zone0 3 p.1) p.2).now ∧
        ¬ (zone0 3 p.1).stepAt + p.2 ≤ usOf (zoned (zone0 3 p.1) (p.2 - 1)).now) ∧
    zStep (zone0 2 1) = 1 ∧ zHeat (zone0 2 1) = 0 ∧
    zHeat { zone0 2 1 with w0 := setFld (zone0 2 1).w0 31 0 1 } ≠ 0 ∧
    (let x := { zone0 3 6 with w1 := 0xFF00000000FFFF }
     x.gasNow = false ∧ flowBelow x 90 = false) ∧
    flowBelow (zone0 3 6) 90 = true ∧ zTries (zone0 3 6) < 2 ∧
    2 ≤ zTries { zone0 3 6 with w0 := setFld (zone0 3 6).w0 33 32 2 } := by decide +kernel

/-- Two cores that exchange their places: both at rest, or both running. -/
def exchange (still : Bool) : State :=
  let f := fun (k : Crew) =>
    { k with still := still, region := none, fibres := ⟨[(0, { newFibre 0x1000 with st := .stopped })]⟩ }
  (((stBy f).mapCore 1 fun co => { co with crews := ⟨[(0, { probeCrew with still := still })]⟩
                                           moving := some (0, 0) }).mapCore 0 fun co =>
    { co with moving := some (1, 0) }).mapMod fun m =>
    { m with places := ⟨[(0, 0x8000), (1, 0x8001)]⟩, placesNow := ⟨[(0, 0x8000), (1, 0x8001)]⟩ }

/-- MovesAndSaves, moves: a crew that stands between clauses when its time is over, the exchange of two cores at
rest, and a core that is not at rest. -/
theorem witness_MovesAndSaves :
    (let s := { (stBy fun k => { k with move := some 0, fibres := ⟨[(0, { newFibre 0x1000 with st := .stopped })]⟩ }) with runs := [] }
     (s.crew? 0 0).any (fun k => k.move == some 0 && !k.still) = true ∧ 0 ≤ s.now ∧
       insideClause s 0 0 = false) ∧
    (let s := { exchange true with runs := [] }
     (s.core 0).moving = some (1, 0) ∧ readyToSwap s 0 = true ∧ readyToSwap s 1 = true ∧
       coreOfPlace? s 0 = some 0 ∧ coreOfPlace? s 1 = some 1 ∧
       (guests (s.core 0)).length = 1 ∧ (guests (s.core 1)).length = 1 ∧ 1 ≤ Config.keeperSlot) ∧
    ((exchange false).core 0).moving = some (1, 0) ∧ readyToSwap (exchange false) 0 = false := by
  decide +kernel

/-- A crew evicted from core 0, whose budget is given again. -/
def evicted0 (ib : BitVec 48) : State :=
  (stCore fun co => { co with
    evicted := [{ crew := { rich probeCrew with yield := .complete, ib, mb := 1 }, late := .empty
                  addr := 0x30000, place := 0, wake := false }] }).mapMod
    fun m => { m with keepers := true }

/-- A crew at the gate of the launch before its own, beside a crew of the former that fits nowhere. -/
def starved0 : State :=
  (stBy fun k => { k with fibres := ⟨[(0, { newFibre 0x1000 with st := .blocked (.gate 0) })]⟩ }).mapMod
    fun m => { m with
      keepers := true
      launches := ⟨[(0, { launch0 with post := { launch0.post with pred := some (0x3000, 0, 7) } }),
        (1, { launch0 with
          taken := 0, foot := 0xFFFFFFFFFFFFC000
          post := { launch0.post with tno := 7, packet := [0x100000000, 0, 0xFFFF, 0xFFFF, 0, 4096, 0, 0] } })]⟩ }

/-- MovesAndSaves, saves: a core that is signalled, one whose effects have applied, an evicted crew that may go on
and one that may not, and a dependant that gives way. -/
theorem witness_MovesAndSaves_saves :
    (let s := stCore fun co => { co with halted := false, saveSeq := some 1 }
     (s.core 0).saveSeq = some 1 ∧ (s.core 0).halted = false ∧ s.mem = [] ∧ s.llc = .empty) ∧
    (let s := (stCore fun co => { co with halted := true, saveSeq := some 1 })
     (s.core 0).halted = true ∧ (s.core 0).lodge = [] ∧ (s.core 0).units = [] ∧ netBusy s 0 = false ∧
       completionAt s 0 + 8 ≤ 0x10000000000) ∧
    (∀ ib ∈ [0, 1], let s := evicted0 (BitVec.ofNat 48 ib)
      coreOfPlace? s 0 = some 0 ∧ s.mod.keepers = true ∧
        (s.core 0).evicted[0]?.any (fun e => wakeable s 0 e == decide (ib = 1)) = true) ∧
    (givesWay starved0 0).any (fun p => p.1 == 0) = true ∧ (starved0.core 0).migs = [] ∧
    givesWay (stBy id) 0 = none := by decide +kernel

/-- The state with the module further changed. -/
def stMod (h : Module → Module) : State := (stBy id).mapMod h

/-- LinksAndMessages: a link down for 1 s, a message in flight and none, the last place of the ring before it is
full, and a full one. -/
theorem witness_LinksAndMessages :
    (let s := { (stMod fun m => { m with linkDown := some 0 }) with now := 1000000 * Config.ccPerUs }
     s.mod.linkDown = some 0 ∧ 0 + 1000000 ≤ usOf s.now) ∧
    ((stCore fun co => { co with prqBusy := true }).core 0).prqBusy = true ∧
    ((stBy id).core 0).prqBusy = false ∧ st0.mod.linkDown = none ∧ 15 < 16 ∧
    (st0.mod.launches.cells = [] ∧ (stBy id).mod.launches.cells ≠ []) ∧
    fld (stMod fun m => { m with msgtx := 1 }).mod.msgtx 1 0 = 1 ∧ fld st0.mod.msgtx 1 0 ≠ 1 ∧
    (stMod fun m => { m with msgSend := some [] }).mod.msgSend = some [] ∧
    (∀ p ∈ [(0x0020000000100000, true), (0x0010000000100000, false)],
      let w := (stMod fun m => { m with msgrx := BitVec.ofNat 64 p.1 }).mod.msgrx
      fld w 51 20 ≠ 0 ∧ fld w 51 20 * 2 ^ 20 + 256 * fld w 11 0 + 256 ≤ 0x10000000000 ∧
        decide ((fld w 11 0 + 1) % 4096 ≠ fld w 63 52) = p.2) ∧
    fld st0.mod.msgrx 51 20 = 0 := by decide +kernel

/-- A cluster with a change asked for in cycle 0, at a time. -/
def changing (kind now : Nat) : State :=
  { (stBy id).mapCluster 0 fun cl => { cl with change := some (kind, 0) } with now := now }

/-- PowerAndManifold, power: the least STAG, a cluster in use that is down, one idle whose time is up, the module
at its target, near-threshold due, a change at a quiesce point and 10 us after it was asked for, and a unit whose
turn has come. -/
theorem witness_PowerAndManifold :
    5 ≤ fld (0x50000 : W64) 23 16 ∧ fld (0x4FFFF : W64) 23 16 < 5 ∧
    (let s := (stBy id).mapCluster 0 fun cl => { cl with pstate := 2 }
     (s.cluster 0).change = none ∧ (0 : BitVec 3).toNat = clusterTarget s 0 ∧
       (s.cluster 0).pstate ≠ 0 ∧ (2 : BitVec 3).toNat ≠ clusterTarget s 0) ∧
    (let s := stMod fun m => { m with pwrctl := setFld m.pwrctl 47 32 5000, launches := .empty }
     (2 : BitVec 3).toNat = clusterTarget s 31 ∧ (s.cluster 31).pstate ≠ 2) ∧
    (let s := stMod fun m => { m with pstate := 3 }
     (BitVec.ofNat 3 (moduleTarget s)).toNat = moduleTarget s ∧
       s.mod.pstate ≠ BitVec.ofNat 3 (moduleTarget s)) ∧
    (let s := { ((stMod fun m => { m with pwrctl := 1 }).mapCluster 0 fun cl => { cl with idle := 0, used := 0 }) with
       now := nearCycles }
     nearDue s 0 = true ∧ (s.cluster 0).pstate = 0 ∧ (s.cluster 0).change = none) ∧
    nearDue (stBy id) 0 = false ∧
    (∀ kind ∈ [0, 1], let s := changing kind 0
      (s.cluster 0).change = some (kind, 0) ∧ quiesceHold s 0 = true ∧ quiesced s 0 = true) ∧
    (let s := (changing 0 (10 * Config.ccPerUs))
     quiesceHold s 0 = true ∧ max 0 (s.cluster 0).retryAt + 10 * Config.ccPerUs ≤ s.now) ∧
    quiesceHold (stBy id) 0 = false ∧
    (let s := { (stMod fun m => { m with stagger := [(5, 0)] }) with now := 5 * Config.ccPerUs }
     s.mod.stagger = [(5, 0)] ∧ 5 ≤ usOf s.now ∧ s.mod.bad.contains 0 = false ∧
       (s.core 0).captured = false ∧ s.mod.railCut = false) ∧
    usOf { (stMod fun m => { m with stagger := [(5, 0)] }) with now := 5 * Config.ccPerUs - 1 }.now < 5 := by
  decide +kernel

/-- PowerAndManifold, manifold: no leak yet, a leak whose 10 ms end, one whose save is over and one whose is not. -/
theorem witness_PowerAndManifold_leak :
    bit st0.mod.modcool 1 = false ∧ bit st0.mod.modcool 0 = false ∧
    (let s := { (stMod fun m => { m with leakAt := some 0, saving := true }) with now := 10000 * Config.ccPerUs }
     s.mod.leakAt = some 0 ∧ s.mod.railCut = false ∧ saveOver s = true ∧ 0 + 10000 ≤ usOf s.now) ∧
    (let s := (stCore fun co => { co with saveSeq := some 1 }).mapMod fun m =>
       { m with leakAt := some 0, saving := true }
     saveOver s = false ∧ usOf s.now < 0 + 10000) := by decide +kernel

/-- A module in boot step 2, with a key buffer. -/
def booting (key : List Byte) : State := stMod fun m => { m with boot := .waitGo 0, keybuf := key }

/-- BootAndTest: a core that leads and none, a list with an essential unit and one without, step 2 with the base
point of the curve in the key buffer and with a point that is not on it, and 60 s without GO. -/
theorem witness_BootAndTest :
    bootLead (bistFound (resetModule st0) []) = some 0 ∧ ([].any essential) = false ∧
    [(0x2000 : BitVec 16)].any essential = true ∧
    bootLead ((resetModule st0).mapMod fun m => { m with bad := List.range 64 }) = none ∧
    (let s := booting (toBytes 32 p256g.1 ++ toBytes 32 p256g.2)
     bootWaits s = true ∧ s.mod.keySlot1 = none ∧ onCurve (keyPoint s.mod) = true) ∧
    onCurve (keyPoint (booting []).mod) = false ∧
    (stMod fun m => { m with keySlot1 := some p256g }).mod.keySlot1 ≠ none ∧ bootWaits st0 = false ∧
    (let s := { booting [] with now := 60000000 * Config.ccPerUs }
     s.mod.boot = .waitGo 0 ∧ 0 + 60000000 ≤ usOf s.now) ∧ usOf (booting []).now < 0 + 60000000 := by
  decide +kernel

/-- BootAndTest: a signature under way and none; a test that may run, one that may not, and one under way. -/
theorem witness_BootAndTest_test :
    (stMod fun m => { m with attWork := some [] }).mod.attWork = some [] ∧ st0.mod.attWork = none ∧
    (let s := stMod fun m => { m with launches := .empty, bootstat := 1 }
     s.mod.bistBusy = false ∧ s.mod.launches.cells = [] ∧ bit s.mod.bootstat 0 = true) ∧
    (stBy id).mod.launches.cells ≠ [] ∧ bit st0.mod.bootstat 0 = false ∧
    (stMod fun m => { m with bistBusy := true }).mod.bistBusy = true := by decide +kernel

/-- HostPort: a link that is up and one that is down; the last bytes of device memory; a line of host memory. -/
theorem witness_HostPort :
    linkUp (stMod fun m => { m with hoststat := 1 }) = true ∧ linkUp st0 = false ∧
    0xFFFFFFFFFF + [(0 : Byte)].length ≤ 0x10000000000 ∧ 0xFFFFFFFFFF < 0x10000000000 ∧
    st0.mod.pstate.toNat ≠ 4 ∧ zoneOf (0x1000000000 * 256) ≠ .host ∧
    ∃ line, zoneOf (line * 256) = .host := by
  refine ⟨by decide +kernel, by decide +kernel, by decide, by decide, by decide +kernel, ?_, 0x80000000000, ?_⟩
  · decide +kernel
  · decide +kernel

/-- TrapReturn: a trapped fibre of a crew. -/
theorem witness_TrapReturn :
    let s := stBy (trapped0 { trap0 .translation with delivered := true })
    (s.crew? 0 0).any (fun k => decide ((k.fibres.cells.map (·.1)).Nodup) &&
      (k.fibres.get? 0).any fun f => isTrapped f) = true ∧ bit (1 : W64) 0 = true ∧
    bit (2 : W64) 0 = false := by decide +kernel

/-- No place but one names a core, as a Bool. -/
def onlyPlaceB (s : State) (idx c : Nat) : Bool :=
  s.mod.places.cells.all fun p => p.1 == idx || !(bit p.2 15 && fld p.2 7 0 == c)

theorem onlyPlace_of {s : State} {idx c : Nat} (h : onlyPlaceB s idx c = true) : OnlyPlace s idx c := by
  intro p hp hne hn
  have := List.all_eq_true.1 h p hp
  simp_all

/-- TableWrites: the last tenant and none, the first that is neither; a place that another names; a usable core and
one that is not, which no other place names; the flags of a zone and a request for a zone in RUN. -/
theorem witness_TableWrites :
    (slotTenant 63 < 64 ∧ slotTenant 127 = 127 ∧ 64 ≤ slotTenant 64 ∧ slotTenant 126 ≤ 126) ∧
    (0 ≠ 1 ∧ bit (0x8000 : W64) 15 = true ∧ ¬ NamesNot (stBy id) 0 (fld (0x8000 : W64) 7 0)) ∧
    OnlyPlace (stBy id) 1 (fld (0x8005 : W64) 7 0) ∧ coreUsable (stBy id) (fld (0x8005 : W64) 7 0) = true ∧
    OnlyPlace (stMod fun m => { m with bad := [5] }) 1 (fld (0x8005 : W64) 7 0) ∧
    coreUsable (stMod fun m => { m with bad := [5] }) (fld (0x8005 : W64) 7 0) = false ∧
    (∀ i, i < 3 → bit (0x87 : W64) i = true) ∧ bit (0x87 : W64) 7 = true ∧
    zState (zoneOfMod st0.mod 63) = 1 :=
  ⟨by decide, ⟨by decide, by decide, by unfold NamesNot; decide⟩, onlyPlace_of (by decide +kernel),
    by decide +kernel, onlyPlace_of (by decide +kernel), by decide +kernel, by decide, by decide, by decide +kernel⟩

/-- EventsComplete: a batch that waited for its counters and has its turn; its other hypotheses are those
of Packets, Launches, BinEvents and ClauseEvents. -/
theorem witness_EventsComplete :
    let w : WaitB := { tenant := 0, clause := 0x1000, hdr := 0, words := [0x3F81FFFFFFFFE000], fibres := [(0, 0)]
                       rpos := 0, from_ := some 0, opens := false, head := false, quiet := false, slotted := false }
    let s := { (stCore fun co => { co with waits := [w], slots := ⟨[(0, 0)]⟩ }) with runs := [], now := 8 }
    let u := settleWaits (wakeBlocked (drainWaits s 0) 0) 0
    (match nextIssue u 0 with
      | some x => x.wait && !((u.core 0).waits[x.idx]?.any fun w => w.opens)
      | none => false) = true := by decide +kernel

/-- StepRunsDecoded: a batch with a word, one past its last, and an event that is due. -/
theorem witness_StepRunsDecoded :
    agendaNext st0 = none ∧ turn st0 = some (rn0, st0) ∧ rn0.pos < rn0.words.length ∧
    (wordAt rn0.words rn0.pos).isSome = true ∧
    (let s := { st0 with runs := [{ rn0 with pos := 1 }] }
     turn s = some ({ rn0 with pos := 1 }, s) ∧ ({ rn0 with pos := 1 } : Run).words.length ≤ 1) ∧
    (let s := { st0 with agenda := [(0, .clauseEnd)] }
     agendaNext s = some (.clauseEnd, { s with agenda := [] }) ∧ isEvent .clauseEnd = true) ∧
    (checkOperands st0 rn0 (.nop g0)).2 = [] ∧ (∀ p ∈ rn0.fibres, ∀ k, st0.crew? rn0.core p.2 = some k →
      k.upsets = []) := by
  refine ⟨by decide +kernel, by decide +kernel, by decide, by decide +kernel, by decide +kernel, by decide +kernel,
    by decide +kernel, fun p hp k hk => ?_⟩
  rw [show rn0.fibres = [(0, 0)] by decide, List.mem_singleton] at hp
  subst hp
  cases hk.symm.trans (rfl : _ = some _)
  rfl

/-- StepRunsDecoded: a fibre whose operand holds an error that its code does not correct traps. -/
theorem witness_StepRunsDecoded_error :
    let s := stBy fun k => { k with upsets :=
      [{ site := .reg false 3 0, since := 0, fixed := false, told := none, crews := [] }] }
    (checkOperands s rn0 (.mov g0 .n32 (.reg 2) (.reg 3))).2.length = 1 ∧
      (checkOperands s rn0 (.mov g0 .n32 (.reg 8) (.reg 4))).2 = [] := by decide +kernel

/-- EncodingsAgree: an instruction with its word. -/
theorem witness_EncodingsAgree :
    (Instr.nop ⟨false, false, 0⟩).wf = true ∧
    encode (.nop ⟨false, false, 0⟩) = some 0x3F81FFFFFFFFE000 ∧
    decode 0x3F81FFFFFFFFE000 = some (.nop ⟨false, false, 0⟩) := by decide +kernel

/-- EventsCounted, MemoryCanonical: a step of a state whose memory is in its form. -/
theorem witness_MemoryCanonical : Memory.wf st0.mem = true ∧
    (match step st0 with | .next _ => true | _ => false) = true := by decide +kernel

/-- NopEffect: the batch of `st0` issues. -/
theorem witness_NopEffect : Issues st0 rn0 (.nop ⟨false, false, 0⟩) ∧ rn0.Placed := ⟨ready0.2 _, ready0.1⟩

/-- FloatClasses: a word of each of the two kinds of number that have no infinity and that have one. -/
theorem witness_FloatClasses : FTy.f8e4.classBit 0x7E = 6 ∧ FTy.f8e5.classBit 0x7C = 7 := by decide +kernel

/-- BudgetRead: a pair of a crew whose registers are all its own. -/
theorem witness_BudgetRead :
    (∀ p ∈ rn0.fibres, isKeeper p.2 = false) ∧ Ready stDirty rn0 ∧ DstFits (.reg 2) true ∧
    copyHold (touchRun stDirty rn0) rn0 (activeLanes (touchRun stDirty rn0) rn0 ⟨false, false, 0⟩) (.reg 2) 2
      = none := by
  refine ⟨by decide +kernel, ready_of (by decide +kernel), by simp [DstFits], by decide +kernel⟩

/-! ### Single steps with the results that the manual's examples give -/

/-- What register `d` of lane 0 holds after an instruction, from registers that hold the given words. -/
def after (i : Instr) (regs : List (Nat × W32)) (d : Nat) : Option W32 :=
  match exec i (stBy fun k => regs.foldl (fun k p => setReg p.1 p.2 k) { k with dirty := 0xFFFFFFFF }) with
  | .next s => (s.crew? 0 0).map fun k => regGet k d 0
  | _ => none

/-- The table 'division at the edges' of chapter 06 (R117). -/
theorem test_division :
    (let f := fun t (a b : W32) => after (.idiv g0 t (.reg 2) (.reg 0) (.reg 1)) [(0, a), (1, b)] 2
     f .s32 7 0xFFFFFFFE = some 0xFFFFFFFD ∧ f .s32 0x80000000 0xFFFFFFFF = some 0x80000000 ∧
       f .n32 7 0 = some 0xFFFFFFFF ∧ f .s8 0xFFFFFF80 0xFFFFFFFF = some 0xFFFFFF80) ∧
    let f := fun t (a b : W32) => after (.irem g0 t (.reg 2) (.reg 0) (.reg 1)) [(0, a), (1, b)] 2
    f .s32 7 0xFFFFFFFE = some 1 ∧ f .s32 0xFFFFFFF9 2 = some 0xFFFFFFFF ∧
      f .s32 0x80000000 0xFFFFFFFF = some 0 ∧ f .n32 7 0 = some 7 := by decide +kernel

/-- The high products of the same table. -/
theorem test_imulh :
    let f := fun t => after (.imulh g0 t (.reg 2) (.reg 0) (.reg 1)) [(0, 0xFFFFFFFF), (1, 0xFFFFFFFF)] 2
    f .n32 = some 0xFFFFFFFE ∧ f .s32 = some 0 := by decide +kernel

/-- The example 'one value into each narrow target' of chapter 07 (R147, R148): f32 70000.0. -/
theorem test_cvt :
    let f := fun rm sat t => after (.cvt g0 rm sat t (.flt .f32) (.reg 2) (.reg 0)) [(0, 0x4788B800)] 2
    f .rn false (.flt .f16) = some 0x7C00 ∧ f .rz false (.flt .f16) = some 0x7BFF ∧
      f .rn true (.flt .f16) = some 0x7BFF ∧ f .rn false (.flt .bf16) = some 0x4789 ∧
      f .rz false (.flt .bf16) = some 0x4788 ∧ f .rn false (.flt .f8e5) = some 0x7C ∧
      f .rz false (.flt .f8e5) = some 0x7B ∧ f .rn false (.flt .f8e4) = some 0x7F ∧
      f .rn true (.flt .f8e4) = some 0x7E ∧ f .rn false (.int .s16) = some 0x7FFF ∧
      f .rn false (.int .n8) = some 0xFF := by decide +kernel

/-- The example of chapter 04: a tie, and the residue that the companion receives (R80, R83). -/
theorem test_cvtEf :
    (let f := fun (c : W32) => after (.cvtEf g0 false .bf16 (.reg 2) (.reg 0) 1) [(0, 0x3F808000), (1, c)]
     f 0 2 = some 0x3F80 ∧ f 0 1 = some 0x3B800000 ∧ f 0x3B800000 2 = some 0x3F81 ∧
       f 0x3B800000 1 = some 0) ∧
    after (.cvt g0 .rn false (.flt .bf16) (.flt .f32) (.reg 2) (.reg 0)) [(0, 0x3F818000)] 2
      = some 0x3F82 := by decide +kernel

/-- The example 'fma beside fmul and fadd' of chapter 07 (R139). -/
theorem test_fma :
    after (.fma g0 .rn .f32 (.reg 4) (.reg 1) (.reg 1) (.reg 3)) [(1, 0x3F800800), (3, 0xBF801000)] 4
      = some 0x33800000 ∧
    after (.fmul g0 .rn .f32 (.reg 4) (.reg 1) (.reg 1)) [(1, 0x3F800800)] 4 = some 0x3F801000 ∧
    after (.fadd g0 .rn .f32 (.reg 4) (.reg 1) (.reg 3)) [(1, 0x3F801000), (3, 0xBF801000)] 4
      = some 0 := by decide +kernel

/-- The example 'quantising a block by cover' of chapter 07 (R150 to R152). -/
theorem test_codebook :
    after (.sclq g0 false (.reg 2) (.reg 0) (.reg 1)) [(0, 0x40400000), (1, 0x40800000)] 2 = some 191 ∧
    (let f := fun n (a : W32) (c : W32) => after (.cbenc g0 n (.reg 2) (.reg 0) 1 (.reg 3))
       [(0, a), (1, 0x4040), (3, c)] 2
     f 0 0x40400000 0 = some 0xF ∧ f 1 0xBF99999A 0xF = some 0x3F ∧ f 2 0x3F19999A 0x3F = some 0xA3F ∧
       f 3 0 0xA3F = some 0x8A3F) ∧
    after (.cbdec g0 2 (.reg 2) (.reg 0) 1) [(0, 0x8A3F), (1, 0x4040)] 2 = some 0x3EF30000 := by
  decide +kernel

/-- Shifts by the last bit of the width, with and without the sign (R118). -/
theorem test_shifts :
    after (.shl g0 .n32 (.reg 2) (.reg 0) (.reg 1)) [(0, 3), (1, 31)] 2 = some 0x80000000 ∧
    after (.sar g0 .s32 (.reg 2) (.reg 0) (.reg 1)) [(0, 0x80000000), (1, 31)] 2 = some 0xFFFFFFFF := by
  decide +kernel

/-- A predicate that a comparison writes, signed and not (R121). -/
theorem test_pset :
    let f := fun t => match exec (.pset g0 .lt t 2 (.reg 0) (.reg 1))
        (stBy fun k => setReg 0 0xFFFFFFFF (setReg 1 1 { k with dirty := 0xFFFFFFFF })) with
      | .next s => (s.crew? 0 0).bind fun k => (k.fibres.get? 0).map fun f => bit (f.pred.setWidth 64) 2
      | _ => none
    f .s32 = some true ∧ f .n32 = some false := by decide +kernel

/-- A store stands in the lodge, uncleared, and memory is as it was (R186, R187). -/
theorem test_store_lodged :
    (match exec (.stG g0 (.reg 2) ⟨.zero, .zero, 0x40⟩ .b1 false)
        (stBy fun k => setReg 2 0x1AB { k with dirty := 0xFFFFFFFF }) with
     | .next s => decide (s.mem = []) && decide ((s.core 0).lodge.length = 1) &&
         (s.core 0).lodge.all fun e => !e.cleared
     | _ => false) = true := by decide +kernel

/-- An instruction of the Keeper traps in another crew (R115, R354). -/
theorem test_privilege :
    (match exec (.wdogBeat g0) (stBy id) with
     | .next s => (s.crew? 0 0).any fun k => (k.fibres.get? 0).any fun f =>
         match f.st with | .trapped x => decide (x.cause = .privilege) | _ => false
     | _ => false) = true := by decide +kernel

end Sys2Proof.Tests
end

section
/-! SUPPORT. What the end of a crew leaves alone: the bytes of the homes, the staging of the dies and
the lodges of the cores. -/
namespace Sys2Proof.Machine

/-- What of a state stands outside its crews and engines: the homes, the number of the module, the
dies and the lodges. -/
structure Outside where
  mem : List Host.Cell
  llc : Tab LLine
  cvcfg : W64
  dies : Tab Die
  lodge : Nat → List LEntry

namespace State
def outside (s : State) : Outside :=
  { mem := s.mem, llc := s.llc, cvcfg := s.mod.cvcfg, dies := s.dies
    lodge := fun c => (s.core c).lodge }

/-! ### The named updates -/

theorem outside_setCore (s : State) (c : Nat) (k : Core) (h : k.lodge = (s.core c).lodge) :
    (s.setCore c k).outside = s.outside := by
  have hl : (fun d => ((s.setCore c k).core d).lodge) = fun d => (s.core d).lodge := by
    funext d
    by_cases hd : d = c
    · subst hd; simp [h]
    · simp [hd]
  simp [outside, hl]

@[simp] theorem outside_mapCore (s : State) (c : Nat) (f : Core → Core)
    (h : ∀ co, (f co).lodge = co.lodge) : (s.mapCore c f).outside = s.outside :=
  outside_setCore s c _ (h _)

theorem outside_mapMod (s : State) (f : Module → Module) (h : (f s.mod).cvcfg = s.mod.cvcfg) :
    (s.mapMod f).outside = s.outside := by
  show ({ s.outside with cvcfg := (f s.mod).cvcfg } : Outside) = s.outside
  rw [h]; rfl

@[simp] theorem outside_setCrew (s : State) (c x : Nat) (k : Crew) :
    (s.setCrew c x k).outside = s.outside := outside_mapCore s c _ fun _ => rfl

@[simp] theorem outside_mapCrew (s : State) (c x : Nat) (f : Crew → Crew) :
    (s.mapCrew c x f).outside = s.outside := by
  unfold mapCrew
  split
  · exact outside_setCrew ..
  · rfl

@[simp] theorem outside_mapFibre (s : State) (c x l : Nat) (f : Fibre → Fibre) :
    (s.mapFibre c x l f).outside = s.outside := outside_mapCrew ..

@[simp] theorem outside_mapLaunch (s : State) (a : Nat) (f : Launch → Launch) :
    (s.mapLaunch a f).outside = s.outside := by
  unfold mapLaunch
  split
  · exact outside_mapMod _ _ rfl
  · rfl

end State

theorem outside_foldl {α : Type} {f : State → α → State}
    (h : ∀ s a, (f s a).outside = s.outside) (l : List α) (s : State) :
    (l.foldl f s).outside = s.outside := by
  induction l generalizing s with
  | nil => rfl
  | cons a l ih => exact (ih _).trans (h s a)

/-! ### Batches and traps -/

@[simp] theorem outside_leaveBins (s : State) (c x : Nat) (p : Nat → Bool) :
    (leaveBins s c x p).outside = s.outside := by simp [leaveBins]

@[simp] theorem outside_endBurst (s : State) (r : Run) : (endBurst s r).outside = s.outside := by
  unfold endBurst returnUnits
  split
  · rfl
  · split <;> rfl

@[simp] theorem outside_pullCrew (s : State) (c x : Nat) : (pullCrew s c x).outside = s.outside := by
  unfold pullCrew
  refine (State.outside_mapCore _ _ _ fun _ => by rfl).trans ?_
  exact (outside_foldl outside_endBurst _ _).trans (outside_leaveBins ..)

@[simp] theorem outside_takeTrap (s : State) (c x l : Nat) (t : Trap) :
    (takeTrap s c x l t).outside = s.outside := State.outside_mapFibre ..

theorem outside_trapLive (s : State) (c x : Nat) (mk : Nat → Trap) :
    (trapLive s c x mk).outside = s.outside := by
  have hp : (freshId (pullCrew s c x) c).1.outside = s.outside := by simp [freshId]
  unfold trapLive
  dsimp only
  split
  · exact hp
  · refine (outside_foldl (fun _ _ => outside_takeTrap ..) _ _).trans ?_
    simpa [touchRegion] using hp

/-- A gang that dissolves changes only crews and batches (R255). -/
@[simp] theorem outside_dissolveGang (s : State) (c x : Nat) :
    (dissolveGang s c x).outside = s.outside := by
  have hl : ∀ s x, (latchTrap s c x .gangState).outside = s.outside := by
    intro s x
    unfold latchTrap
    split
    · exact outside_trapLive ..
    · rfl
  unfold dissolveGang
  split
  · rfl
  · exact (outside_foldl hl _ _).trans (outside_foldl (fun _ _ => State.outside_mapCrew ..) _ _)

/-! ### The engine's tables -/

@[simp] theorem outside_mapCtx (s : State) (c p : Nat) (f : Ctx → Ctx) :
    (mapCtx s c p f).outside = s.outside := by simp [mapCtx]

@[simp] theorem outside_mapNode (s : State) (c p : Nat) (f : Node → Node) :
    (mapNode s c p f).outside = s.outside := by simp [mapNode]

@[simp] theorem outside_mapOwner (s : State) (c : Nat) (who : Nat × BitVec 32) (f : Crew → Crew) :
    (mapOwner s c who f).outside = s.outside := by
  unfold mapOwner
  split <;> simp

@[simp] theorem outside_raiseGen (s : State) (c : Nat) (who : Nat × BitVec 32) (kind idx : Nat) :
    (raiseGen s c who kind idx).outside = s.outside := outside_mapOwner ..

@[simp] theorem outside_freeCtx (s : State) (c p : Nat) (used : Bool) :
    (freeCtx s c p used).outside = s.outside := by
  have hd : ∀ x, (dropCurrent s c p x).outside = s.outside := by
    intro x
    unfold dropCurrent returnUnits
    rw [outside_mapCtx]
    split
    · rfl
    · split <;> rfl
  unfold freeCtx
  split
  · rfl
  · split <;> simp [hd]

@[simp] theorem outside_freeNode (s : State) (c n : Nat) : (freeNode s c n).outside = s.outside := by
  unfold freeNode
  split
  · rfl
  · refine (outside_raiseGen ..).trans ((State.outside_mapCore _ _ _ fun _ => by rfl).trans ?_)
    split <;> simp

theorem outside_settleFinal (s : State) (c p : Nat) : (settleFinal s c p).outside = s.outside := by
  unfold settleFinal
  split
  · rfl
  · split
    · rfl
    · split
      · exact outside_mapNode ..
      · split
        · exact outside_freeCtx ..
        · rfl

theorem outside_settleStream (s : State) (c p : Nat) : (settleStream s c p).outside = s.outside := by
  unfold settleStream
  split
  · rfl
  · dsimp only
    split <;> simp

theorem outside_engineGone (s : State) (c : Nat) (who : Nat × BitVec 32) :
    (engineGone s c who).outside = s.outside := by
  unfold engineGone
  refine (outside_foldl (fun _ _ => outside_settleStream ..) _ _).trans ?_
  refine (State.outside_mapCore _ _ _ fun _ => by rfl).trans ?_
  exact (outside_foldl (fun _ _ => outside_settleFinal ..) _ _).trans
    (outside_foldl (fun _ _ => outside_freeNode ..) _ _)

/-! ### The end of a crew -/

@[simp] theorem lodge_dropFills (x : Nat) (co : Core) : (dropFills x co).lodge = co.lodge := by
  unfold dropFills Core.fillOver
  split <;> rfl

@[simp] theorem outside_reheat (s : State) (c : Nat) : (reheat s c).outside = s.outside := by
  unfold reheat mapZone
  dsimp only
  split
  · rfl
  · exact State.outside_mapMod _ _ rfl

@[simp] theorem outside_leaveCore (s : State) (c x : Nat) : (leaveCore s c x).outside = s.outside := by
  unfold leaveCore
  split
  · rfl
  · dsimp only
    split <;> simp [slotAssign]

theorem outside_crewGone (s : State) (c x : Nat) : (crewGone s c x).outside = s.outside := by
  unfold crewGone
  split
  · rfl
  · dsimp only
    split <;> simp [outside_engineGone]

/-- A crew that is settled, gone or not, leaves the homes, the staging and every lodge (R297, R304). -/
@[simp] theorem outside_settleCrew (s : State) (c x : Nat) : (settleCrew s c x).outside = s.outside := by
  unfold settleCrew
  split
  · rfl
  · split
    · rfl
    · extract_lets s1
      have hs : s1.outside = s.outside := by
        unfold s1
        split
        · rfl
        · exact State.outside_mapCrew ..
      split
      · exact (outside_crewGone ..).trans hs
      · exact hs

/-! ### What follows from it -/

theorem dies_of_outside {s t : State} (h : t.outside = s.outside) : t.dies = s.dies :=
  congrArg Outside.dies h

theorem lodge_of_outside {s t : State} (h : t.outside = s.outside) (c : Nat) :
    (t.core c).lodge = (s.core c).lodge := congrFun (congrArg Outside.lodge h) c

theorem sameBytes_of_outside {s t : State} (h : t.outside = s.outside) : SameBytes s t := by
  have hm : t.mem = s.mem := congrArg Outside.mem h
  have hl : t.llc = s.llc := congrArg Outside.llc h
  have hv : t.mod.cvcfg = s.mod.cvcfg := congrArg Outside.cvcfg h
  intro a
  unfold homeGet canonPa ownModule
  rw [hm, hl, hv]

end Sys2Proof.Machine
end

section
/-! SUPPORT. What the caches and the homes leave alone: crews, TLBs of the cores, misses that
wait for a walk, and the dies. -/
namespace Sys2Proof.Machine

/-- What of a state no movement of bytes between homes, caches and loads touches. -/
structure Uncached where
  dies : Tab Die
  crews : Nat → Tab Crew
  tlb : Nat → List TlbE
  misses : Nat → List Miss

namespace State
def uncached (s : State) : Uncached :=
  { dies := s.dies, crews := fun c => (s.core c).crews
    tlb := fun c => (s.core c).tlb, misses := fun k => (s.cluster k).misses }

theorem uncached_setCore (s : State) (c : Nat) (k : Core) (hc : k.crews = (s.core c).crews)
    (ht : k.tlb = (s.core c).tlb) : (s.setCore c k).uncached = s.uncached := by
  have hcs : (fun d => ((s.setCore c k).core d).crews) = fun d => (s.core d).crews := by
    funext d
    by_cases hd : d = c
    · subst hd; simp [hc]
    · simp [hd]
  have hts : (fun d => ((s.setCore c k).core d).tlb) = fun d => (s.core d).tlb := by
    funext d
    by_cases hd : d = c
    · subst hd; simp [ht]
    · simp [hd]
  simp only [uncached, hcs, hts]
  rfl

@[simp] theorem uncached_mapCore (s : State) (c : Nat) (f : Core → Core)
    (hc : ∀ co, (f co).crews = co.crews) (ht : ∀ co, (f co).tlb = co.tlb) :
    (s.mapCore c f).uncached = s.uncached := uncached_setCore s c _ (hc _) (ht _)

@[simp] theorem uncached_mapCluster (s : State) (k : Nat) (f : Cluster → Cluster)
    (h : ∀ cl, (f cl).misses = cl.misses) : (s.mapCluster k f).uncached = s.uncached := by
  have hm : (fun j => ((s.mapCluster k f).cluster j).misses) = fun j => (s.cluster j).misses := by
    funext j
    by_cases hj : j = k
    · subst hj; simp [h]
    · simp [hj]
  simp only [uncached, hm]
  rfl

@[simp] theorem uncached_heal (s : State) (p : Site → Bool) : (s.heal p).uncached = s.uncached := rfl

end State

theorem uncached_foldl {α : Type} {f : State → α → State}
    (h : ∀ s a, (f s a).uncached = s.uncached) (l : List α) (s : State) :
    (l.foldl f s).uncached = s.uncached := by
  induction l generalizing s with
  | nil => rfl
  | cons a l ih => exact (ih _).trans (h s a)

/-! ### The homes and the last-level caches -/

@[simp] theorem uncached_llcUse (s : State) (line : Nat) : (llcUse s line).uncached = s.uncached := by
  obtain ⟨x, -, h | ⟨n, h⟩⟩ | ⟨-, n, p, h | ⟨v, -, h⟩⟩ := llcUse_cases s line
  all_goals exact (congrArg State.uncached h).trans rfl

@[simp] theorem uncached_llcFill (s : State) (sector : Nat) :
    (llcFill s sector).uncached = s.uncached := by
  unfold llcFill
  split
  · rfl
  · dsimp only
    split
    · exact uncached_llcUse ..
    · exact uncached_llcUse ..

@[simp] theorem uncached_homePut (s : State) (pa : Nat) (b : Byte) :
    (homePut s pa b).uncached = s.uncached := by
  unfold homePut
  dsimp only
  split
  · rfl
  · exact uncached_llcUse ..

@[simp] theorem uncached_homePuts (l : List Byte) (s : State) (pa : Nat) :
    (homePuts s pa l).uncached = s.uncached := by
  induction l generalizing s pa with
  | nil => rfl
  | cons b l ih => exact (ih _ _).trans (uncached_homePut ..)

/-! ### The caches of clusters and cores -/

@[simp] theorem uncached_l2Clean (s : State) (k line : Nat) :
    (l2Clean s k line).uncached = s.uncached := by
  unfold l2Clean
  split
  · rfl
  · refine (State.uncached_mapCluster _ _ _ fun _ => by rfl).trans (uncached_foldl (fun s i => ?_) _ _)
    split
    · exact uncached_homePut ..
    · rfl

@[simp] theorem uncached_l2Alloc (s : State) (k line : Nat) (cls : BitVec 2) (ev : Bool) :
    (l2Alloc s k line cls ev).uncached = s.uncached := by
  unfold l2Alloc
  split
  · rfl
  · refine (State.uncached_mapCluster _ _ _ fun _ => by rfl).trans ?_
    split <;> simp [l2Drop]

@[simp] theorem uncached_l2Touch (s : State) (k line : Nat) (ev : Bool) :
    (l2Touch s k line ev).uncached = s.uncached := by
  unfold l2Touch
  split
  · rfl
  · simp

@[simp] theorem uncached_l2Fill (s : State) (k sector : Nat) (cls : BitVec 2) (ev : Bool) :
    (l2Fill s k sector cls ev).uncached = s.uncached := by
  unfold l2Fill
  dsimp only
  split
  · simp
  · refine (State.uncached_mapCluster _ _ _ fun _ => by rfl).trans ?_
    split <;> simp

@[simp] theorem uncached_l2Read (s : State) (k pa : Nat) (cls : BitVec 2) (ev : Bool) :
    (l2Read s k pa cls ev).1.uncached = s.uncached := by
  unfold l2Read
  split <;> simp

@[simp] theorem uncached_l2FillLine (s : State) (k line : Nat) (cls : BitVec 2) (ev : Bool) :
    (l2FillLine s k line cls ev).uncached = s.uncached :=
  uncached_foldl (fun _ _ => uncached_l2Fill ..) _ _

theorem l1Insert_keeps (co : Core) (line : Nat) (data : BitVec 2048) :
    (l1Insert co line data).crews = co.crews ∧ (l1Insert co line data).tlb = co.tlb := by
  unfold l1Insert
  dsimp only
  split
  · exact ⟨rfl, rfl⟩
  · split
    · exact ⟨rfl, rfl⟩
    · exact ⟨rfl, rfl⟩

@[simp] theorem uncached_l1Fill (s : State) (c line : Nat) (cls : BitVec 2) (ev : Bool) :
    (l1Fill s c line cls ev).uncached = s.uncached := by
  unfold l1Fill
  rw [State.uncached_mapCore, State.uncached_heal]
  · exact uncached_l2FillLine s (clusterOf c) line cls ev
  · exact fun co => (l1Insert_keeps co line _).1
  · exact fun co => (l1Insert_keeps co line _).2

@[simp] theorem uncached_homeCollect (s : State) (pa : Nat) :
    (homeCollect s pa).uncached = s.uncached :=
  (uncached_llcFill ..).trans (uncached_foldl (fun _ _ => uncached_l2Clean ..) _ _)

/-! ### Counters, array errors and translations -/

@[simp] theorem uncached_countFixed (s : State) (c k n : Nat) :
    (countFixed s c k n).uncached = s.uncached := by simp [countFixed]

@[simp] theorem uncached_note (s : State) (c x ev n : Nat) : (note s c x ev n).uncached = s.uncached := by
  unfold note
  split
  · rfl
  · simp

/-- A read of sites outside the crews. -/
@[simp] theorem uncached_readSites (s : State) (c : Nat) (p : Site → Bool) :
    (readSites s c none p).1.uncached = s.uncached := by
  unfold readSites
  dsimp only
  split
  · rfl
  · exact uncached_countFixed ..

@[simp] theorem uncached_markLeaf (s : State) (e : TlbE) (write : Bool) :
    (markLeaf s e write).1.uncached = s.uncached := by
  unfold markLeaf
  dsimp only
  (repeat' split) <;> simp

@[simp] theorem uncached_prefetchAct (s : State) (c tenant va : Nat) (lvl : Option PrfLevel) (e : TlbE) :
    (prefetchAct s c tenant va lvl e).uncached = s.uncached := by
  unfold prefetchAct
  dsimp only
  (repeat' split) <;> simp [dropPrefetch, State.uncached_setCore]

@[simp] theorem uncached_tellFailed (k : Nat) (pasid : BitVec 20) (s : State) (a : Asker) (e : Cause) :
    (tellFailed k pasid s a e).uncached = s.uncached := by
  unfold tellFailed
  split <;> simp [dropPrefetch]

/-! ### The bytes of loads -/

@[simp] theorem uncached_takeReply (s : State) (reply : Reply) :
    (takeReply s reply).uncached = s.uncached := by
  refine uncached_foldl (fun s p => ?_) _ _
  split
  · exact uncached_homePut ..
  · rfl

@[simp] theorem uncached_fetchByte (s : State) (c pa : Nat) (attr : BitVec 3) (cls : BitVec 2) (ev : Bool) :
    (fetchByte s c pa attr cls ev).1.uncached = s.uncached := by
  unfold fetchByte
  dsimp only
  (repeat' split) <;> simp

/-- A pass over a list that carries a state along with a result. -/
theorem uncached_foldl_fst {α β : Type} {f : State × β → α → State × β}
    (h : ∀ p a, (f p a).1.uncached = p.1.uncached) (l : List α) (p : State × β) :
    (l.foldl f p).1.uncached = p.1.uncached := by
  induction l generalizing p with
  | nil => rfl
  | cons a l ih => exact (ih _).trans (h p a)

@[simp] theorem uncached_fetchLane (s : State) (c : Nat) (f : FLane) :
    (fetchLane s c f).1.uncached = s.uncached := by
  unfold fetchLane
  split
  · rfl
  · refine uncached_foldl_fst (fun p x => ?_) _ (s, [])
    split
    · rfl
    · exact uncached_fetchByte ..

/-! ### What follows from it -/

theorem dies_of_uncached {s t : State} (h : t.uncached = s.uncached) : t.dies = s.dies :=
  congrArg Uncached.dies h

theorem crew?_of_uncached {s t : State} (h : t.uncached = s.uncached) (c x : Nat) :
    t.crew? c x = s.crew? c x :=
  congrArg (fun cr => Tab.get? cr x) (congrFun (congrArg Uncached.crews h) c)

theorem tlb_of_uncached {s t : State} (h : t.uncached = s.uncached) (c : Nat) :
    (t.core c).tlb = (s.core c).tlb := congrFun (congrArg Uncached.tlb h) c

theorem misses_of_uncached {s t : State} (h : t.uncached = s.uncached) (k : Nat) :
    (t.cluster k).misses = (s.cluster k).misses := congrFun (congrArg Uncached.misses h) k

end Sys2Proof.Machine
end

section
/-! SUPPORT. What an effect at its home leaves alone: the entries in the staging of every die. Most
operations leave the dies as they were; a release writes a side record and a cancelled unit leaves the
units of a staging, and both keep its entries. -/
namespace Sys2Proof.Machine

theorem dies_foldl {α : Type} {f : State → α → State} (h : ∀ s a, (f s a).dies = s.dies) (l : List α)
    (s : State) : (l.foldl f s).dies = s.dies := by
  induction l generalizing s with
  | nil => rfl
  | cons a l ih => exact (ih _).trans (h s a)

/-! ### Batches, bins and traps -/

@[simp] theorem dies_takeTrap (s : State) (c x l : Nat) (t : Trap) : (takeTrap s c x l t).dies = s.dies :=
  dies_of_outside (outside_takeTrap ..)

@[simp] theorem dies_enterBin (g : Bool) (s : State) (c x l : Nat) (y : Bool) :
    (enterBin g s c x l y).dies = s.dies := by
  unfold enterBin
  split
  · rfl
  · split
    · rfl
    · dsimp only
      split
      · simp
      · split <;> simp

@[simp] theorem dies_binFibre (s : State) (c x l : Nat) (y : Bool) :
    (binFibre s c x l y).dies = s.dies := by
  unfold binFibre
  (repeat' split) <;> simp

@[simp] theorem dies_unstop (s : State) (c x : Nat) : (unstop s c x).dies = s.dies := by
  unfold unstop
  split
  · split
    · rfl
    · exact dies_foldl (fun _ _ => dies_binFibre ..) _ _
  · rfl

@[simp] theorem dies_stopFibres (s : State) (c x : Nat) : (stopFibres s c x).dies = s.dies := by
  simp [stopFibres, leaveBins]

/-! ### The homes, the caches and the completion words -/

@[simp] theorem dies_homePuts (l : List Byte) (s : State) (pa : Nat) : (homePuts s pa l).dies = s.dies :=
  dies_of_uncached (uncached_homePuts ..)

@[simp] theorem dies_homeCollect (s : State) (pa : Nat) : (homeCollect s pa).dies = s.dies :=
  dies_of_uncached (uncached_homeCollect ..)

@[simp] theorem dies_l2Put (s : State) (k pa : Nat) (b : Byte) (d : Bool) :
    (l2Put s k pa b d).dies = s.dies := by
  unfold l2Put
  dsimp only
  (repeat' split) <;> simp

@[simp] theorem dies_l1Put (s : State) (c pa : Nat) (b : Byte) : (l1Put s c pa b).dies = s.dies := by
  unfold l1Put
  split <;> simp

@[simp] theorem dies_homeWrite (s : State) (c pa : Nat) (l : List Byte) :
    (homeWrite s c pa l).dies = s.dies := by
  unfold homeWrite
  rw [dies_foldl fun _ _ => dies_l2Put ..]
  simp

@[simp] theorem dies_homeStore (s : State) (c pa : Nat) (l : List Byte) :
    (homeStore s c pa l).dies = s.dies := by
  unfold homeStore
  rw [dies_foldl fun _ _ => dies_foldl (fun _ _ => dies_l1Put ..) _ _]
  simp

@[simp] theorem dies_atomAt (s : State) (c pa size : Nat) (op : AtomOp) (sgn : Bool) (v cmp : Nat) :
    (atomAt s c pa size op sgn v cmp).1.dies = s.dies := by
  unfold atomAt
  dsimp only
  split <;> simp

@[simp] theorem dies_releaseActions (s : State) (c : Nat) (sc : Scope) (p : Nat → Bool) :
    (releaseActions s c sc p).dies = s.dies := by
  have hf : ∀ k (l : List L2Line), (l.foldl (fun s x => l2Clean s k x.line) s).dies = s.dies :=
    fun k l => dies_foldl (fun _ _ => dies_of_uncached (uncached_l2Clean ..)) l s
  unfold releaseActions
  cases sc <;> simp [hf]

@[simp] theorem dies_markLeaf (s : State) (e : TlbE) (w : Bool) : (markLeaf s e w).1.dies = s.dies :=
  dies_of_uncached (uncached_markLeaf ..)

@[simp] theorem dies_cbWrite (s : State) (pa : Nat) (w : W64) : (cbWrite s pa w).dies = s.dies := by
  simp [cbWrite]

@[simp] theorem dies_cbUpdate (s : State) (cb : Nat) (l : List (Nat × W64)) :
    (cbUpdate s cb l).dies = s.dies := by
  simp [cbUpdate, dies_foldl fun _ _ => dies_cbWrite ..]

@[simp] theorem dies_cbKeeper (s : State) (cb : Nat) (l : List (Nat × W64)) :
    (cbKeeper s cb l).dies = s.dies := by
  unfold cbKeeper
  simp only [dies_cbWrite]
  rw [dies_foldl fun _ _ => dies_cbWrite .., dies_cbWrite, dies_foldl fun _ _ => dies_cbWrite ..]

@[simp] theorem dies_gateSet (s : State) (a : Nat) (b : BitVec 16) (d : Bool) :
    (gateSet s a b d).dies = s.dies := by
  unfold gateSet
  split
  · rfl
  · dsimp only
    split <;> simp [cbRead]

/-! ### Entries that a return from a trap sends -/

@[simp] theorem dies_lodgeEffect (s : State) (c x : Nat) (kind : LKind) (home : Option Nat) (eff : Effect) :
    (lodgeEffect s c x kind home eff).dies = s.dies := by
  have hx : ∀ s c e, (crossEntry s c e).dies = s.dies := by
    intro s c e
    unfold crossEntry
    split <;> rfl
  unfold lodgeEffect lodgeNew
  rw [dies_of_uncached (uncached_note ..), hx]
  rfl

@[simp] theorem dies_sendArrival (s : State) (c x g : Nat) : (sendArrival s c x g).dies = s.dies := by
  simp [sendArrival]

@[simp] theorem dies_trapRdv (s : State) (c x : Nat) (v : Rdv) (cause : Cause) :
    (trapRdv s c x v cause).dies = s.dies := by
  simp [trapRdv, dies_foldl]

@[simp] theorem dies_quitRdvs (s : State) (c x : Nat) (l : List Nat) :
    (quitRdvs s c x l).dies = s.dies := by
  unfold quitRdvs
  split
  · rfl
  · exact dies_foldl (fun _ _ => dies_trapRdv ..) _ _

@[simp] theorem dies_quitCrew (s : State) (c x : Nat) (l : List Nat) :
    (quitCrew s c x l).dies = s.dies := by
  unfold quitCrew
  dsimp only
  split
  · simp
  · rw [dies_foldl]
    · simp
    · intro s p
      split <;> simp

@[simp] theorem dies_resumeFibre (s : State) (c x l : Nat) (how : Resume) :
    (resumeFibre s c x l how).dies = s.dies := by
  unfold resumeFibre
  (repeat' split) <;> simp

@[simp] theorem dies_lateArrivals (s : State) (c x : Nat) : (lateArrivals s c x).dies = s.dies := by
  unfold lateArrivals
  split
  · rfl
  · refine dies_foldl (fun s g => ?_) _ _
    dsimp only
    split <;> simp

@[simp] theorem dies_thaw (s : State) (a : Nat) : (thaw s a).dies = s.dies :=
  dies_foldl (fun _ _ => dies_foldl (fun _ _ => dies_unstop ..) _ _) _ _

@[simp] theorem dies_eretApply (s : State) (c act x : Nat) (mask : W64) :
    (eretApply s c act x mask).dies = s.dies := by
  unfold eretApply returnFrom
  split
  · rfl
  · simp only [dies_thaw, releaseHold, State.dies_mapCrew, dies_lateArrivals]
    split <;> simp [dies_foldl]

/-! ### Launches, rings and windows -/

theorem dies_submitLaunch {s t : State} {p : Posted} (h : submitLaunch s p = some t) : t.dies = s.dies := by
  unfold submitLaunch postLaunch recentEnter at h
  dsimp only at h
  split at h
  · cases h; rfl
  · split at h
    · cases h
    · cases h
      dsimp only [State.dies_mapMod]
      split <;> simp

theorem dies_tlbLook {s t : State} {c va : Nat} {pasid : BitVec 20} {e : TlbE}
    (h : tlbLook s c pasid va = some (t, e)) : t.dies = s.dies := by
  unfold tlbLook at h
  split at h
  · cases h; rfl
  · split at h
    · cases h; rfl
    · cases h

theorem dies_askWalk (s : State) (k : Nat) (w : W64) (a : Asker) : (askWalk s k w a).1.dies = s.dies := by
  unfold askWalk
  dsimp only
  (repeat' split) <;> rfl

/-- The state that a unit's translation leaves. -/
def UnitXlate.state? : UnitXlate → Option State
  | .hit s _ | .fault s _ | .wait s => some s
  | .full => none

theorem dies_unitXlate {s t : State} {w : W64} {a : Asker} (h : (unitXlate s w a).state? = some t) :
    t.dies = s.dies := by
  unfold unitXlate at h
  split at h
  next u e hu =>
    rw [← dies_tlbLook hu]
    split at h
    · cases h; rfl
    · have hr : ∀ s c e f, (tlbReplace s c e f).dies = s.dies := by
        intro s c e f
        unfold tlbReplace
        split <;> rfl
      simp only [UnitXlate.state?, Option.some.injEq] at h
      rw [← h, hr, dies_markLeaf]
  next =>
    dsimp only at h
    split at h
    · cases h; rfl
    · split at h
      next v hv => cases h; rw [← dies_askWalk s _ w a, hv]
      next => cases h

@[simp] theorem dies_engXlate (s : State) (c : Nat) (e : EngFor) (w : Bool) (va : Nat) :
    (engXlate s c e w va).1.dies = s.dies := by
  unfold engXlate
  dsimp only
  split
  next t e' h =>
    have ht : t.dies = s.dies := dies_unitXlate (by rw [h]; rfl)
    (repeat' split) <;> exact ht
  next t _ h => exact dies_unitXlate (by rw [h]; rfl)
  all_goals
    split
    · rfl
    · split
      · rfl
      · (repeat' split) <;> simp

theorem dies_eachM {α β : Type} {f : State → α → State × Except Cause β}
    (h : ∀ s a, (f s a).1.dies = s.dies) (l : List α) (s : State) : (eachM f s l).1.dies = s.dies := by
  induction l generalizing s with
  | nil => rfl
  | cons a l ih =>
    have hs := h s a
    unfold eachM
    split
    next he => rw [he] at hs; exact hs
    next t b he =>
      rw [he] at hs
      have hl := ih t
      split
      next hm => rw [hm] at hl; exact hl.trans hs
      next hm => rw [hm] at hl; exact hl.trans hs

theorem dies_packetWords (s : State) (c : Nat) (e : EngFor) (va : Nat) :
    (packetWords s c e va).1.dies = s.dies := by
  have hm := dies_eachM (fun s i => dies_engXlate s c e false (va + i)) (List.range 64) s
  unfold packetWords
  split
  next he => rw [he] at hm; exact hm
  next he =>
    rw [he] at hm
    exact (dies_foldl (fun _ _ => dies_homeCollect ..) _ _).trans hm

@[simp] theorem dies_launchApply (s : State) (c x : Nat) (va : BitVec 56) :
    (launchApply s c x va).dies = s.dies := by
  unfold launchApply
  split
  · rfl
  next k _ =>
    have hp := dies_packetWords s c ⟨tctxOf s x k, crewId k, 0⟩ va.toNat
    split
    next he => rw [he] at hp; exact hp
    next t ws he =>
      rw [he] at hp
      split
      · exact hp
      · cases hu : submitLaunch t (crewPosted t k.tenant ws va none (some (c, x))) with
        | none => exact hp
        | some u => exact (dies_submitLaunch hu).trans hp

@[simp] theorem dies_haltStream (s : State) (c p : Nat) (x : Stream) :
    (haltStream s c p x).dies = s.dies := by
  unfold haltStream
  dsimp only
  split
  · exact (dies_of_outside (outside_mapOwner ..)).trans rfl
  · rfl

@[simp] theorem dies_ringAdvance (s : State) (c a r x : Nat) (p t : BitVec 32) :
    (ringAdvance s c a r x p t).dies = s.dies := by
  unfold ringAdvance
  dsimp only
  split
  · exact dies_foldl (fun _ _ => dies_haltStream ..) _ _
  · rfl

@[simp] theorem dies_windowRelease (s : State) (c p : Nat) (w : WinOwner) (l : List (Nat × Byte)) :
    (windowRelease s c p w l).dies = s.dies := by
  unfold windowRelease
  split
  · rfl
  · split
    · rfl
    · refine dies_foldl (fun s p => ?_) _ _
      split <;> rfl

/-! ### Tables, system registers and device registers -/

@[simp] theorem dies_tbwrApply (s : State) (c n i word : Nat) (w : W64) :
    (tbwrApply s c n i word w).dies = s.dies := by
  have hr : ∀ s c, (refloor s c).dies = s.dies := fun _ _ => rfl
  unfold tbwrApply
  (repeat' split) <;> simp [tableRefuse, setPlace, mapZone, dies_foldl hr]

@[simp] theorem dies_giveApply (s : State) (c x : Nat) (mb : Bool) (n : BitVec 32) (w : W64) :
    (giveApply s c x mb n w).dies = s.dies := by
  unfold giveApply
  split <;> rfl

@[simp] theorem dies_refreeze (s : State) (a : Nat) : (refreeze s a).dies = s.dies := by
  refine dies_foldl (fun s p => dies_foldl (fun s q => ?_) _ _) _ _
  (repeat' split) <;> simp

@[simp] theorem dies_dbgctlSet (s : State) (c x : Nat) (w : W64) : (dbgctlSet s c x w).dies = s.dies := by
  unfold dbgctlSet
  split <;> simp

@[simp] theorem dies_dbgkillSet (s : State) (c x : Nat) (w : W64) : (dbgkillSet s c x w).dies = s.dies := by
  unfold dbgkillSet
  (repeat' split) <;> simp [tableRefuse]

@[simp] theorem dies_plainSet (s : State) (c n sel : Nat) (w : W64) :
    (plainSet s c n sel w).dies = s.dies := by
  unfold plainSet tctxSet
  dsimp only
  (repeat' split) <;> simp

@[simp] theorem dies_sysApply (s : State) (c n sel : Nat) (w : W64) :
    (sysApply s c n sel w).dies = s.dies := by
  have hcool : (coolctlSet s w).dies = s.dies := by
    unfold coolctlSet
    dsimp only
    split <;> rfl
  unfold sysApply
  simp only [apply_ite State.dies, dies_dbgctlSet, dies_dbgkillSet, dies_plainSet, hcool, fectlSet,
    trmodeSet, quotaSet, qwinSet, qstormSet, curcapSet, hbctlSet, thctlSet, esctlSet, tblstatSet, trapPop,
    State.dies_mapCore, State.dies_mapCluster, State.dies_mapMod, ite_self]

@[simp] theorem dies_doorWrite (size : Nat) (w : W64) (s : State) : (doorWrite size w s).dies = s.dies := by
  have hw : (wakeModule s).dies = s.dies := by
    unfold wakeModule
    split <;> rfl
  have hd : ∀ s cb w, (doorbell s cb w).dies = s.dies := by
    intro s cb w
    unfold doorbell walkEnter
    dsimp only
    (repeat' split) <;> simp [setWalker, dropWalkers, cbSetState]
  unfold doorWrite
  dsimp only
  split
  · exact hw
  · split
    · exact (hd ..).trans hw
    · exact hw

@[simp] theorem dies_prqPut (s : State) (c : Nat) (w : W64) : (prqPut s c w).dies = s.dies := by
  unfold prqPut
  split <;> rfl

@[simp] theorem dies_cvcfgPut (s : State) (w : W64) : (cvcfgPut s w).dies = s.dies := by
  unfold cvcfgPut
  split <;> rfl

@[simp] theorem dies_msgtxPut (s : State) (w : W64) : (msgtxPut s w).dies = s.dies := by
  unfold msgtxPut
  split <;> rfl

@[simp] theorem dies_pwrctlPut (s : State) (q : Requester) (w : W64) : (pwrctlPut s q w).dies = s.dies := by
  unfold pwrctlPut
  split
  · rfl
  · split
    · rfl
    · split <;> rfl
    · rfl

@[simp] theorem dies_devWrite (s : State) (q : Requester) (pa size : Nat) (w : W64) :
    (devWrite s q pa size w).dies = s.dies := by
  unfold devWrite
  extract_lets off word
  clear_value word off
  split
  · exact dies_doorWrite ..
  · split
    · rfl
    · rfl
    · extract_lets lead
      (repeat' split) <;> simp

/-! ### Moves and saves -/

theorem dies_endMove (s : State) (c : Nat) : (endMove s c).dies = s.dies :=
  dies_foldl (fun _ _ => dies_unstop ..) _ _

theorem dies_dropMove (s : State) (c : Nat) : (dropMove s c).dies = s.dies := by
  unfold dropMove
  split
  · rfl
  · exact (dies_endMove ..).trans (dies_endMove ..)

@[simp] theorem dies_startSave (s : State) : (startSave s).dies = s.dies := by
  unfold startSave
  split
  · rfl
  · dsimp only
    rw [dies_foldl fun _ _ => State.dies_mapCore .., State.dies_mapMod,
      dies_foldl fun _ _ => State.dies_mapCluster .., dies_foldl dies_dropMove]

@[simp] theorem dies_checkLead (s : State) : (checkLead s).dies = s.dies := by
  unfold checkLead
  dsimp only
  split
  · rfl
  · split
    · rfl
    · exact dies_startSave s

@[simp] theorem dies_startMove (s : State) (c p : Nat) : (startMove s c p).dies = s.dies := by
  unfold startMove
  split
  · rfl
  · split <;> rfl

@[simp] theorem dies_lsaveApply (s : State) (a pa : Nat) : (lsaveApply s a pa).dies = s.dies := by
  have hi : ∀ n l, (homeImage s pa n l).dies = s.dies := by
    intro n l
    unfold homeImage
    dsimp only
    rw [dies_foldl fun _ _ => dies_of_uncached (uncached_homePut ..)]
  unfold lsaveApply
  split
  · rfl
  · split
    · rfl
    · simp [retenant, hi]


/-! ### The end of a crew's region and of a launch -/

@[simp] theorem dies_dropMatrix (s : State) (c x : Nat) : (dropMatrix s c x).dies = s.dies := by
  unfold dropMatrix returnUnits
  dsimp only
  (repeat' split) <;> rfl

@[simp] theorem dies_withdrawRecords (s : State) (c x : Nat) : (withdrawRecords s c x).dies = s.dies := by
  unfold withdrawRecords
  split <;> simp [releaseHold]

@[simp] theorem dies_refillRecs (s : State) (c x : Nat) : (refillRecs s c x).dies = s.dies := by
  unfold refillRecs
  split
  · rfl
  · exact dies_foldl (fun _ _ => by rfl) _ _

@[simp] theorem dies_returnResv (s : State) (c x : Nat) : (returnResv s c x).dies = s.dies := by
  unfold returnResv
  split
  · rfl
  · rw [State.dies_mapCrew, dies_foldl]
    intro s p
    split <;> simp

@[simp] theorem dies_squashCrew (s : State) (c x : Nat) : (squashCrew s c x).dies = s.dies := by
  unfold squashCrew
  split
  · rfl
  · split
    · rfl
    · have hn : ∀ (s : State) (l : List Nat) q,
          (l.foldl (fun s d => netSend s c d (.squash x q)) s).dies = s.dies :=
        fun s l q => dies_foldl (fun _ _ => by rfl) l s
      simp [dies_of_outside (outside_pullCrew ..), hn]

/-! ### The entries of a staging -/

/-- The entries in the staging of a die. -/
def stagingOf (t : Tab Die) (d : Nat) : List StEntry := (t.getD d Die.reset).staging

theorem staging_die (s : State) (d : Nat) : (s.die d).staging = stagingOf s.dies d := rfl

theorem stagingOf_foldl {α : Type} {f : State → α → State}
    (h : ∀ s a, stagingOf (f s a).dies = stagingOf s.dies) (l : List α) (s : State) :
    stagingOf (l.foldl f s).dies = stagingOf s.dies := by
  induction l generalizing s with
  | nil => rfl
  | cons a l ih => exact (ih _).trans (h s a)

theorem staging_sideWrite (d : Die) (q : Nat) (g : BitVec 1024) (sat : Bool) :
    (sideWrite d q g sat).staging = d.staging := by
  unfold sideWrite
  dsimp only
  split
  · rfl
  · split <;> rfl

theorem stagingOf_mapDie (s : State) (d : Nat) (f : Die → Die) (h : ∀ x, (f x).staging = x.staging) :
    stagingOf (s.mapDie d f).dies = stagingOf s.dies := by
  funext e
  rw [← staging_die, ← staging_die]
  by_cases he : e = d
  · subst he; simp [h]
  · simp [he]

/-- A side record published leaves the entries of every staging (R229). -/
@[simp] theorem stagingOf_sidePublish (s : State) (pa : Nat) (p : BitVec 1024 × Bool) (r : Bool) :
    stagingOf (sidePublish s pa p r).dies = stagingOf s.dies := by
  refine stagingOf_mapDie _ _ _ fun x => ?_
  (repeat' split) <;> exact staging_sideWrite ..

/-- Units that leave the staging of every die leave the entries (R211, R214). -/
@[simp] theorem stagingOf_trimUnits (s : State) (c : Nat) :
    stagingOf (trimUnits s c).dies = stagingOf s.dies := by
  funext d
  simp only [stagingOf, trimUnits, Tab.getD, Tab.get?_mapKV]
  cases s.dies.get? d <;> rfl

@[simp] theorem stagingOf_engineCancel (s : State) (c x : Nat) (q : BitVec 16) :
    stagingOf (engineCancel s c x q).dies = stagingOf s.dies := by
  unfold engineCancel
  simp only [stagingOf_trimUnits, State.dies_mapCore]
  rw [dies_foldl fun _ _ => dies_of_outside (outside_mapNode ..),
    dies_foldl fun _ _ => dies_of_outside (outside_freeCtx ..)]

@[simp] theorem stagingOf_engineForget (s : State) (a : Nat) :
    stagingOf (engineForget s a).dies = stagingOf s.dies := by
  refine stagingOf_foldl (fun s p => ?_) _ _
  dsimp only
  split
  · rfl
  · simp only [dropRings, State.dies_mapCore, stagingOf_trimUnits]
    rw [dies_foldl fun _ _ => dies_of_outside (outside_freeCtx ..)]

theorem dies_modXlate {s t : State} {pasid : BitVec 20} {w : Bool} {va pa : Nat} {v : W64}
    (h : modXlate s pasid w va = .ok (t, pa, v)) : t.dies = s.dies := by
  unfold modXlate at h
  split at h
  · cases h
  next l _ _ =>
    split at h
    · cases h
    next =>
      dsimp only at h
      split at h
      · simp only [Except.ok.injEq, Prod.mk.injEq] at h
        rw [← h.1, dies_markLeaf]
      · simp only [Except.ok.injEq, Prod.mk.injEq] at h
        rw [← h.1, dies_markLeaf]
      · split at h
        · simp only [Except.ok.injEq, Prod.mk.injEq] at h
          rw [← h.1, dies_markLeaf]
        · cases h
      · cases h

/-- A completion word written leaves the entries of every staging (R229, R297). -/
@[simp] theorem stagingOf_doneUpdate (s : State) (p : Posted) (f : W64 → W64) :
    stagingOf (doneUpdate s p f).dies = stagingOf s.dies := by
  unfold doneUpdate
  dsimp only
  split
  · rfl
  · split
    next t pa v h =>
      unfold modRelease
      simp only [stagingOf_sidePublish, dies_homePuts, dies_homeCollect]
      rw [dies_foldl fun _ _ => dies_releaseActions .., dies_modXlate h]
    next => rfl

@[simp] theorem stagingOf_launchOut (s : State) (a : Nat) :
    stagingOf (launchOut s a).dies = stagingOf s.dies := by
  unfold launchOut
  dsimp only
  (repeat' split) <;> simp [dies_of_outside (outside_mapNode ..)]

section
variable {release : State → Nat → LEntry → State}
  (hr : ∀ s c e, stagingOf (release s c e).dies = stagingOf s.dies)
include hr

theorem stagingOf_endCrews (s : State) (c a : Nat) :
    stagingOf (endCrews release s c a).dies = stagingOf s.dies := by
  unfold endCrews
  dsimp only
  rw [dies_foldl, State.dies_mapCore, stagingOf_foldl, stagingOf_foldl]
  · simp
  · exact fun _ _ => hr ..
  · intro s x
    simp [dies_of_outside (outside_leaveCore ..), dies_of_outside (outside_pullCrew ..)]

/-- The end of a launch leaves the entries of every staging, if its releases do (R387). -/
theorem stagingOf_endLaunch (s : State) (a code status : Nat) :
    stagingOf (endLaunch release s a code status).dies = stagingOf s.dies := by
  unfold endLaunch
  split
  · rfl
  · have he : ∀ l : List Nat, stagingOf (l.foldl (fun s c => endCrews release s c a) s).dies =
        stagingOf s.dies := fun l => stagingOf_foldl (fun _ _ => stagingOf_endCrews hr ..) l s
    dsimp only
    split <;> simp [cbKeeperState, he]

end

/-! ### The effect of an entry -/

@[simp] theorem stagingOf_relApply (s : State) (c x k : Nat) :
    stagingOf (relApply s c x k).dies = stagingOf s.dies := by
  have hr : (releaseOf .package s c x).dies = s.dies := by
    unfold releaseOf
    split <;> simp
  unfold relApply
  dsimp only
  rw [resetSigs, State.dies_mapCrew]
  split
  · split <;> simp [hr]
  · simp [hr]

/-- An entry that acts leaves the entries of every staging (R28, R187 to R189). -/
theorem stagingOf_effectBase (s : State) (c : Nat) (e : LEntry) :
    stagingOf (effectBase s c e).dies = stagingOf s.dies := by
  unfold effectBase
  dsimp only
  split
  · split
    · simp
    · split
      · rw [dies_foldl fun _ _ => dies_homeWrite ..]
      · rfl
  · rw [dies_windowRelease]
  · rw [dies_foldl fun _ _ => dies_atomAt ..]
  · rw [dies_foldl]
    intro s p
    simp
  -- the other effects change no die, but for the side record of `rel`
  all_goals simp [arriveUp, departUp, postChange, migAsk, swapPlaces, setPlace, dies_foldl]

theorem stagingOf_releaseOwn (s : State) (c : Nat) (e : LEntry) :
    stagingOf (releaseOwn s c e).dies = stagingOf s.dies := by
  have hs : stagingOf (storeOwn s c e).dies = stagingOf s.dies := by
    unfold storeOwn
    dsimp only
    split
    · rw [dies_foldl fun _ _ => dies_l1Put .., stagingOf_effectBase]
    · rw [dies_foldl]
      · simp [dies_of_uncached (uncached_l2Touch ..), dies_of_uncached (uncached_l2Alloc ..)]
      · intro s p
        simp
  unfold releaseOwn
  split
  · split
    · exact hs
    · exact stagingOf_effectBase ..
  · rfl
  · rfl
  · rfl
  · exact stagingOf_effectBase ..

/-- The end of a launch included (R387). -/
theorem stagingOf_effectNow (s : State) (c : Nat) (e : LEntry) :
    stagingOf (effectNow s c e).dies = stagingOf s.dies := by
  unfold effectNow
  split
  · exact stagingOf_endLaunch stagingOf_releaseOwn ..
  · exact stagingOf_effectBase ..

end Sys2Proof.Machine
end

section
/-! SUPPORT. The messages between the dies (R28, R161, R187, R188, R214, R263): what arrives, what is
sent again, what the staging keeps and what a clear message lets act. -/
namespace Sys2Proof.Machine

variable {s s1 : State} {c d : Nat}

/-- The head of a route leaves it, and nothing else changes. -/
theorem netHead_eq {m : Msg} (h : netHead s c d = some (m, s1)) : ∃ n, s1 = { s with net := n } := by
  unfold netHead at h
  split at h
  · cases h
  · cases h; exact ⟨_, rfl⟩

/-! ### STAGING_ARRIVAL -/

/-- What an arrival whose code is good is. -/
theorem refused_good {e : LEntry} (h : readSites s c none (· == .link c e.id) = (s, none)) :
    refused s c d e = (s, false) := by
  unfold refused
  rw [h]

theorem stagingArrival_bad {e : LEntry} {u : State} {x : Site} (h : netHead s c d = some (.entry e, s1))
    (hr : readSites s1 c none (· == .link c e.id) = (u, some x)) :
    exec (.stagingArrival c d) s = .next (netSend (u.heal (· == x)) c d (.entry e)) := by
  have hf : refused s1 c d e = (netSend (u.heal (· == x)) c d (.entry e), true) := by
    unfold refused
    rw [hr]
  show execStagingArrival c d s = _
  unfold execStagingArrival
  rw [h]
  simp [hf]

theorem stagingArrival_good {e : LEntry} (h : netHead s c d = some (.entry e, s1))
    (hr : readSites s1 c none (· == .link c e.id) = (s1, none)) (hc : clearedBefore (s1.die d) c e = false) :
    exec (.stagingArrival c d) s = .next (stageEntry s1 c d e) := by
  show execStagingArrival c d s = _
  unfold execStagingArrival
  rw [h]
  simp [refused_good hr, hc]

theorem stagingArrival_unit {id : Nat} (h : netHead s c d = some (.unit_ id, s1)) :
    exec (.stagingArrival c d) s = .next (stageUnit s1 c d id) := by
  show execStagingArrival c d s = _
  unfold execStagingArrival
  rw [h]

/-- Whether an entry of a staging is a copy of an entry of a core. -/
theorem any_staged_iff {l : List StEntry} {id : Nat} :
    (l.any fun x => x.core == c && x.e.id == id) = true ↔ ∃ x ∈ l, x.core = c ∧ x.e.id = id := by
  simp [List.any_eq_true]

theorem not_any_staged {l : List StEntry} {id : Nat} (h : ∀ x ∈ l, x.core = c → x.e.id ≠ id) :
    ¬ (l.any fun x => x.core == c && x.e.id == id) = true := by
  rw [any_staged_iff]
  rintro ⟨x, hx, hc, hid⟩
  exact h x hx hc hid

theorem stageEntry_again {e : LEntry} (h : ∃ x ∈ (s.die d).staging, x.core = c ∧ x.e.id = e.id) :
    stageEntry s c d e = s.mapDie d fun x => { x with staging := x.staging.map fun y =>
      if y.core == c && y.e.id == e.id then { y with e } else y } := by
  unfold stageEntry
  exact if_pos (any_staged_iff.2 h)

theorem stageEntry_room {e : LEntry} (h : ∀ x ∈ (s.die d).staging, x.core = c → x.e.id ≠ e.id)
    (hf : dieFull (s.die d) = false) : stageEntry s c d e =
      s.mapDie d fun x => { x with staging := x.staging ++ [{ core := c, e }] } := by
  unfold stageEntry
  exact (if_neg (not_any_staged h)).trans (if_pos (by rw [hf]; rfl))

theorem stageEntry_full {e : LEntry} (h : ∀ x ∈ (s.die d).staging, x.core = c → x.e.id ≠ e.id)
    (hf : dieFull (s.die d) = true) : stageEntry s c d e =
      s.mapCore c fun co => { co with lodge := co.lodge.map fun (x : LEntry) =>
        if x.id = e.id then { x with back := true } else x } := by
  unfold stageEntry
  exact (if_neg (not_any_staged h)).trans (if_neg (by rw [hf]; exact Bool.false_ne_true))

theorem sameBytes_stageEntry (e : LEntry) : SameBytes s (stageEntry s c d e) := by
  unfold stageEntry
  dsimp only
  split
  · exact sameBytes_of rfl rfl rfl
  · split <;> exact sameBytes_of rfl rfl rfl

/-- An entry that waits in the lodge for room is marked so. -/
theorem mem_lodge_back {l : List LEntry} {e x : LEntry} (hx : x ∈ l) (hid : x.id = e.id) :
    { x with back := true } ∈ l.map fun (y : LEntry) =>
      if y.id = e.id then { y with back := true } else y :=
  List.mem_map.2 ⟨x, hx, if_pos hid⟩

/-- An entry at its home: it stands in the staging, once, or waits in the lodge (R28, R161). -/
theorem stagingArrival_stages {e : LEntry} (h : netHead s c d = some (.entry e, s1))
    (hr : readSites s1 c none (· == .link c e.id) = (s1, none)) (hc : clearedBefore (s1.die d) c e = false) :
    Happens (.stagingArrival c d) s fun t => SameBytes s t ∧
      ((∀ x ∈ (s.die d).staging, x.core = c → x.e.id ≠ e.id) →
        (dieFull (s.die d) = false →
          (t.die d).staging = (s.die d).staging ++ [{ core := c, e := e }]) ∧
        (dieFull (s.die d) = true → (t.die d).staging = (s.die d).staging ∧
          ∀ x ∈ (s.core c).lodge, x.id = e.id → { x with back := true } ∈ (t.core c).lodge)) ∧
      ((∃ x ∈ (s.die d).staging, x.core = c ∧ x.e.id = e.id) →
        (t.die d).staging.length = (s.die d).staging.length) := by
  refine ⟨_, stagingArrival_good h hr hc, ?_⟩
  obtain ⟨n, rfl⟩ := netHead_eq h
  refine ⟨sameBytes_stageEntry (s := { s with net := n }) e, fun hnew => ?_, fun hold => ?_⟩
  · constructor
    · intro hf
      rw [stageEntry_room (s := { s with net := n }) hnew hf, State.die_mapDie_self]
      rfl
    · intro hf
      rw [stageEntry_full (s := { s with net := n }) hnew hf, State.core_mapCore_self]
      exact ⟨rfl, fun x hx hid => mem_lodge_back hx hid⟩
  · rw [stageEntry_again (s := { s with net := n }) hold, State.die_mapDie_self]
    exact List.length_map ..

/-- A unit with the identity of a change has been changed. -/
theorem mem_mapUnit {id : Nat} {f : Unit_ → Unit_} {v : Unit_}
    (hv : v ∈ ((mapUnit s c id f).core c).units) (hid : v.id = id) : ∃ u, v = f u := by
  rw [mapUnit, State.core_mapCore_self] at hv
  obtain ⟨u, -, rfl⟩ := List.mem_map.1 hv
  by_cases h : u.id = id
  · exact ⟨u, if_pos h⟩
  · rw [if_neg h] at hid
    exact absurd hid h

/-- An engine unit at its home: it stands in the staging or waits in its core's (R263). -/
theorem stagingArrival_stagesUnit {id : Nat} {u : Unit_} (h : netHead s c d = some (.unit_ id, s1))
    (hu : heldUnit s1 c id = some u) :
    (dieFull (s1.die d) = false → Happens (.stagingArrival c d) s fun t => SameBytes s t ∧
      (t.die d).units = (s.die d).units ++ [(c, id)]) ∧
    (dieFull (s1.die d) = true → Happens (.stagingArrival c d) s fun t => SameBytes s t ∧
      (t.die d).units = (s.die d).units ∧ ∀ v ∈ (t.core c).units, v.id = id → v.back = true) := by
  have hs : stageUnit s1 c d id = if dieFull (s1.die d) then mapUnit s1 c id fun u => { u with back := true }
      else s1.mapDie d fun x => { x with units := x.units ++ [(c, id)] } := by
    unfold stageUnit
    rw [hu]
    rfl
  obtain ⟨n, rfl⟩ := netHead_eq h
  constructor
  · intro hf
    refine ⟨_, stagingArrival_unit h, ?_⟩
    rw [hs, if_neg (by simpa using hf)]
    refine ⟨sameBytes_of rfl rfl rfl, ?_⟩
    rw [State.die_mapDie_self]
    rfl
  · intro hf
    refine ⟨_, stagingArrival_unit h, ?_⟩
    rw [hs, if_pos hf]
    refine ⟨sameBytes_of rfl rfl rfl, rfl, fun v hv hid => ?_⟩
    obtain ⟨w, rfl⟩ := mem_mapUnit hv hid
    rfl

/-! ### CLEAR_MESSAGE and SQUASH_MESSAGE -/

/-- One staged entry that a clear message lets act: it leaves the staging, acts and is acknowledged. -/
def clearOne (c d : Nat) (s : State) (e : LEntry) : State :=
  ackEntry (effectNow (s.mapDie d fun x =>
    { x with staging := x.staging.filter fun y => !(y.core == c && y.e.id == e.id) }) c e) c e.id

theorem stagingOf_clearOne (s : State) (e : LEntry) : stagingOf (clearOne c d s e).dies d =
    (stagingOf s.dies d).filter fun y => !(y.core == c && y.e.id == e.id) := by
  show stagingOf (effectNow _ c e).dies d = _
  rw [stagingOf_effectNow, ← staging_die, State.die_mapDie_self]
  rfl

/-- Of what stands in the staging, the entries that act are gone. -/
theorem mem_staging_clearAll {l : List LEntry} {s : State} {x : StEntry}
    (h : x ∈ stagingOf (l.foldl (clearOne c d) s).dies d) :
    x ∈ stagingOf s.dies d ∧ ∀ e ∈ l, x.core = c → x.e.id ≠ e.id := by
  induction l generalizing s with
  | nil => exact ⟨h, by simp⟩
  | cons e l ih =>
    obtain ⟨hx, hl⟩ := ih h
    rw [stagingOf_clearOne, List.mem_filter] at hx
    obtain ⟨hx, he⟩ := hx
    refine ⟨hx, fun a ha => ?_⟩
    rcases List.mem_cons.1 ha with rfl | ha
    · intro hc hid
      simp [hc, hid] at he
    · exact hl a ha

theorem mem_stagedFor {di : Die} {slot upTo : Nat} {q : BitVec 16} {x : StEntry} (hx : x ∈ di.staging)
    (hc : x.core = c) (hs : x.e.slot = slot) (hq : x.e.rseq = q) (hi : x.e.id ≤ upTo) :
    x.e ∈ stagedFor di c slot q upTo :=
  List.mem_map.2 ⟨x, List.mem_filter.2 ⟨hx, by simp [hc, hs, hq, hi]⟩, rfl⟩

/-- The staged entries that a clear message covers have left the staging (R28, R214). -/
theorem clearMessage_staging {slot upTo : Nat} {q : BitVec 16}
    (h : netHead s c d = some (.clear slot q upTo, s1))
    (hr : ∀ e ∈ stagedFor (s1.die d) c slot q upTo,
      lodgeReady s1 c { e with home := none, fence := [] } = true) :
    Happens (.clearMessage c d) s fun t => ∀ x ∈ (t.die d).staging, x.core = c →
      x.e.slot = slot → x.e.rseq = q → upTo < x.e.id := by
  have hn : ¬ ((stagedFor (s1.die d) c slot q upTo).any fun e =>
      !lodgeReady s1 c { e with home := none, fence := [] }) = true := by
    simpa [List.any_eq_true] using hr
  obtain ⟨t, ht, hst⟩ : ∃ t, execClearMessage c d s = .next t ∧ stagingOf t.dies d =
      stagingOf ((stagedFor (s1.die d) c slot q upTo).foldl (clearOne c d) s1).dies d := by
    unfold execClearMessage
    rw [h]
    refine ⟨_, if_neg hn, ?_⟩
    rw [dies_of_outside (outside_settleCrew ..)]
    split
    · exact congrFun (stagingOf_mapDie _ _ _ fun _ => by rfl) d
    · rfl
  refine ⟨t, ht, fun x hx hc hs hq => ?_⟩
  rw [staging_die, hst] at hx
  obtain ⟨hx, hne⟩ := mem_staging_clearAll hx
  exact Nat.lt_of_not_le fun hle => hne x.e (mem_stagedFor hx hc hs hq hle) hc rfl

theorem squashMessage_staging {slot : Nat} {q : BitVec 16} (h : netHead s c d = some (.squash slot q, s1)) :
    Happens (.squashMessage c d) s fun t => SameBytes s t ∧
      (t.die d).staging = (s.die d).staging.filter fun y =>
        !(y.core == c && y.e.slot == slot && y.e.rseq == q) := by
  obtain ⟨n, rfl⟩ := netHead_eq h
  refine ⟨_, by show execSquashMessage c d s = _; unfold execSquashMessage; rw [h], ?_⟩
  refine ⟨sameBytes_of rfl rfl rfl, ?_⟩
  rw [State.die_mapDie_self]
  rfl

theorem clearMessage_unit {id : Nat} {u : Unit_} (h : netHead s c d = some (.unitClear id, s1))
    (hu : ((s1.core c).units.find? fun v => v.id == id && v.told) = some u) (hh : unitHeld s1 u = false) :
    exec (.clearMessage c d) s = .next (unitActs s1 c u) := by
  show execClearMessage c d s = _
  unfold execClearMessage
  rw [h]
  simp [hu, hh]

theorem homeAccessArrival_access {e : LEntry} (h : netHead s c d = some (.access e, s1)) :
    exec (.homeAccessArrival c d) s = .next (effectNow s1 c e) := by
  show execHomeAccessArrival c d s = _
  unfold execHomeAccessArrival
  rw [h]

/-! ### STAGING_SPACE_FREE and STAGING_ACK -/

/-- The oldest entry that waits for room crosses once there is some (R28). -/
theorem stagingSpaceFree_crosses {e : LEntry}
    (h : ((s.core c).lodge.find? fun e => e.home == some d && e.back) = some e) :
    (dieFull (s.die d) = false → Happens (.stagingSpaceFree c d) s fun t =>
      t.net.getD (c * 4 + d) [] = s.net.getD (c * 4 + d) [] ++ [Msg.entry { e with back := false }]) ∧
    (dieFull (s.die d) = true → exec (.stagingSpaceFree c d) s = .next s) := by
  constructor
  · intro hf
    refine ⟨_, by
      show execStagingSpaceFree c d s = _
      unfold execStagingSpaceFree
      rw [h]
      exact if_neg (by simpa using hf), ?_⟩
    exact Tab.getD_put_self ..
  · intro hf
    show execStagingSpaceFree c d s = _
    unfold execStagingSpaceFree
    rw [h]
    exact if_pos hf

theorem sameBytes_ackEntry (s : State) (c id : Nat) : SameBytes s (ackEntry s c id) :=
  sameBytes_of rfl rfl rfl

/-- What the lodge keeps after an acknowledgement: the entry is acknowledged, and none that has sent
its clear message and is acknowledged is left (R161). -/
theorem mem_lodge_ackEntry {id : Nat} {x : LEntry} (h : x ∈ ((ackEntry s c id).core c).lodge) :
    (x.id = id → x.acked = true) ∧ ¬ (x.home.isSome = true ∧ x.told = true ∧ x.acked = true) := by
  rw [ackEntry, State.core_mapCore_self, List.mem_filter] at h
  obtain ⟨hx, hf⟩ := h
  obtain ⟨y, -, rfl⟩ := List.mem_map.1 hx
  constructor
  · intro hid
    split at hid
    · simp [*]
    · contradiction
  · rintro ⟨h1, h2, h3⟩
    simp [h1, h2, h3] at hf

theorem stagingAck_lodge {id : Nat} {e : LEntry}
    (h : ((s.core c).lodge.find? fun e => e.id == id && !e.acked) = some e) (hd : e.home = some d)
    (hs : ((s.die d).staging.any fun x => x.core == c && x.e.id == id) = true) :
    Happens (.stagingAck c id) s fun t => SameBytes s t ∧ ∀ x ∈ (t.core c).lodge,
      (x.id = id → x.acked = true) ∧ ¬ (x.home.isSome = true ∧ x.told = true ∧ x.acked = true) := by
  have ho := outside_settleCrew (ackEntry s c id) c e.slot
  refine ⟨settleCrew (ackEntry s c id) c e.slot, ?_, ?_, fun x hx => ?_⟩
  · show execStagingAck c id s = _
    unfold execStagingAck
    rw [h]
    simp only [hd]
    exact if_pos hs
  · exact fun a => (sameBytes_of_outside ho a).trans (sameBytes_ackEntry s c id a)
  · exact mem_lodge_ackEntry ((lodge_of_outside ho c) ▸ hx)

theorem stagingAck_unit {id : Nat} {u : Unit_}
    (h : ((s.core c).lodge.find? fun e => e.id == id && !e.acked) = none)
    (hu : heldUnit s c id = some u) (hd : u.home = some d) (hm : (c, id) ∈ (s.die d).units) :
    Happens (.stagingAck c id) s fun t => SameBytes s t ∧
      ∀ v ∈ (t.core c).units, v.id = id → v.acked = true := by
  refine ⟨mapUnit s c id fun u => { u with acked := true, back := false }, ?_,
    sameBytes_of rfl rfl rfl, fun v hv hid => ?_⟩
  · show execStagingAck c id s = _
    unfold execStagingAck
    rw [h]
    simp [hu, hd, hm]
  · obtain ⟨w, rfl⟩ := mem_mapUnit hv hid
    rfl

end Sys2Proof.Machine
end

section
/-! SUPPORT. What a walk leaves in the TLBs (R174), and the data of a load (R186). -/
namespace Sys2Proof.Machine

/-! ### TRANSLATION_WALK -/

/-- A leaf marked for an access translates the same addresses. -/
theorem covers_markLeaf (s : State) (e : TlbE) (w : Bool) (pasid : BitVec 20) (va : Nat) :
    (markLeaf s e w).2.covers pasid va = e.covers pasid va := by
  unfold markLeaf
  dsimp only
  (repeat' split) <;> rfl

theorem mem_tlbInsert_self (l : List TlbE) (e : TlbE) : e ∈ tlbInsert l e := by
  simp [tlbInsert]

/-- An entry put into the TLBs of some cores stands there. -/
theorem mem_tlb_insertAll {e : TlbE} {c : Nat} (l : List Nat) (s : State)
    (h : c ∈ l ∨ e ∈ (s.core c).tlb) :
    e ∈ ((l.foldl (fun s c =>
      s.mapCore c fun co => { co with tlb := tlbInsert co.tlb e }) s).core c).tlb := by
  induction l generalizing s with
  | nil => simpa using h
  | cons a l ih =>
    apply ih
    by_cases hc : c = a
    · subst hc
      right
      rw [State.core_mapCore_self]
      exact mem_tlbInsert_self ..
    · rw [State.core_mapCore_ne _ _ hc]
      rcases h with h | h
      · exact .inl ((List.mem_cons.1 h).resolve_left hc)
      · exact .inr h

/-- What a walk found is in the TLB of each core (R174). -/
theorem tlb_walkFill (s : State) (k : Nat) {cores : List Nat} {c : Nat} (e0 : TlbE) (seen : List WalkE)
    (hc : c ∈ cores) {pasid : BitVec 20} {va : Nat} (h0 : e0.covers pasid va = true) :
    ∃ e ∈ ((walkFill s k cores e0 seen).1.core c).tlb, e.covers pasid va = true :=
  ⟨_, mem_tlb_insertAll cores _ (.inl hc), (covers_markLeaf ..).trans h0⟩

theorem misses_walkFill (s : State) (k : Nat) (cores : List Nat) (e0 : TlbE) (seen : List WalkE) (j : Nat) :
    ((walkFill s k cores e0 seen).1.cluster j).misses = (s.cluster j).misses := by
  have hf : ∀ (l : List Nat) (e : TlbE) (s : State), (l.foldl (fun s c =>
      s.mapCore c fun co => { co with tlb := tlbInsert co.tlb e }) s).cluster j = s.cluster j := by
    intro l e
    induction l with
    | nil => exact fun _ => rfl
    | cons a l ih => exact fun s => ih _
  unfold walkFill
  dsimp only
  rw [hf]
  refine (misses_of_uncached (State.uncached_mapCluster _ _ _ fun _ => by rfl) j).trans ?_
  exact misses_of_uncached ((uncached_markLeaf ..).trans (uncached_llcFill ..)) j

/-- The prefetches among the requesters of a walk act with what it found. -/
def prefetchAll (l : List Asker) (e : TlbE) (s : State) : State :=
  l.foldl (fun s a => match a.kind with
    | .prefetch tenant lvl => prefetchAct s a.core tenant a.va lvl e
    | _ => s) s

theorem uncached_prefetchAll (l : List Asker) (e : TlbE) (s : State) :
    (prefetchAll l e s).uncached = s.uncached := by
  refine uncached_foldl (fun s a => ?_) _ _
  split
  · exact uncached_prefetchAct ..
  · rfl

/-- What the walk of a miss makes of the state before the requesters are told. -/
def walked (s : State) (k : Nat) (m : Miss) : State :=
  let good := m.askers.filter fun a =>
    (askFails ((walk s k m.pasid m.root m.va).map (·.1)) a).isNone
  match walk s k m.pasid m.root m.va, good with
  | .ok (l, seen), _ :: _ =>
    let p := walkFill s k (dedup (good.map (·.core)))
      { pasid := m.pasid, level := l.level, page := m.va / 2 ^ pageBits l.level
        leaf := l.w, at_ := l.at_ } seen
    prefetchAll good p.2 p.1
  | _, _ => s

theorem misses_walked (s : State) (k : Nat) (m : Miss) (j : Nat) :
    ((walked s k m).cluster j).misses = (s.cluster j).misses := by
  unfold walked
  dsimp only
  split
  · exact (misses_of_uncached (uncached_prefetchAll ..) j).trans (misses_walkFill ..)
  · rfl

theorem tlb_walked {s : State} {k : Nat} {m : Miss} {leaf : Leaf} {seen : List WalkE}
    (hw : walk s k m.pasid m.root m.va = .ok (leaf, seen)) {a : Asker} (ha : a ∈ m.askers)
    (hf : askFails (.ok leaf) a = none) :
    ∃ e ∈ ((walked s k m).core a.core).tlb, e.covers m.pasid m.va = true := by
  have hg : a ∈ m.askers.filter fun a =>
      (askFails ((walk s k m.pasid m.root m.va).map (·.1)) a).isNone := by
    refine List.mem_filter.2 ⟨ha, ?_⟩
    rw [hw]
    exact Option.isNone_iff_eq_none.2 hf
  unfold walked
  dsimp only
  split
  next =>
    rw [tlb_of_uncached (uncached_prefetchAll ..)]
    exact tlb_walkFill _ _ _ _ (mem_dedup.2 (List.mem_map_of_mem hg)) (by simp [TlbE.covers])
  next hno =>
    obtain ⟨b, r, hl⟩ := List.exists_cons_of_ne_nil (List.ne_nil_of_mem hg)
    exact (hno leaf seen b r hw hl).elim

/-- The requesters whose walk failed, each with its cause (R173). -/
def walkBad (s : State) (k : Nat) (m : Miss) : List (Asker × Cause) :=
  m.askers.filterMap fun a =>
    (askFails ((walk s k m.pasid m.root m.va).map (·.1)) a).map fun e => (a, e)

theorem exec_translationWalk {s : State} {k : Nat} {m : Miss} {rest : List Miss}
    (h : (s.cluster k).misses = m :: rest) :
    let u := s.mapCluster k fun cl => { cl with misses := rest }
    exec (.translationWalk k) s = .next (wakeWalks ((walkBad u k m).foldl
      (fun s p => tellFailed k m.pasid s p.1 p.2) (walked u k m)) k (walkBad u k m)) := by
  show execTranslationWalk k s = _
  unfold execTranslationWalk
  rw [h]
  rfl

/-- The oldest miss of a cluster is served (R174). -/
theorem translationWalk_serves {s : State} {k : Nat} {m : Miss} {rest : List Miss}
    (h : (s.cluster k).misses = m :: rest) :
    Happens (.translationWalk k) s fun t =>
      (t.cluster k).misses = rest ∧ (∀ r ∈ t.runs, clusterOf r.core = k → r.hold ≠ some .walk) ∧
      ∀ u leaf seen, u = s.mapCluster k (fun cl => { cl with misses := rest }) →
        walk u k m.pasid m.root m.va = .ok (leaf, seen) →
        ∀ a ∈ m.askers, askFails (.ok leaf) a = none →
          ∃ e ∈ (t.core a.core).tlb, e.covers m.pasid m.va = true := by
  refine ⟨_, exec_translationWalk h, ?_⟩
  generalize hu : (s.mapCluster k fun cl => { cl with misses := rest }) = u
  have ht : ((walkBad u k m).foldl (fun s p => tellFailed k m.pasid s p.1 p.2) (walked u k m)).uncached =
      (walked u k m).uncached := uncached_foldl (fun _ _ => uncached_tellFailed ..) _ _
  refine ⟨?_, fun r hr hk => ?_, ?_⟩
  · refine (misses_of_uncached ht k).trans ((misses_walked u k m k).trans ?_)
    rw [← hu, State.cluster_mapCluster_self]
  · obtain ⟨r0, -, rfl⟩ := List.mem_map.1 hr
    split at hk
    next hc => simp [hc]
    next hc =>
      rw [if_neg hc]
      intro hw
      exact hc (by simp [hw, hk])
  · rintro v leaf seen rfl hw a ha hf
    obtain ⟨e, he, hcov⟩ := tlb_walked hw ha hf
    exact ⟨e, (tlb_of_uncached ht a.core) ▸ he, hcov⟩

/-! ### LOAD_DATA_RETURN -/

theorem req_fetchLane (s : State) (c : Nat) (f : FLane) : (fetchLane s c f).2.req = none := by
  unfold fetchLane
  split
  · assumption
  · rfl

/-- One lane of a flight fetched, behind those before it. -/
def fetchNext (c : Nat) (p : State × List (Nat × FLane)) (x : Nat × FLane) :
    State × List (Nat × FLane) :=
  ((fetchLane p.1 c x.2).1, p.2 ++ [(x.1, (fetchLane p.1 c x.2).2)])

/-- A crew whose flight has come, with these lanes. -/
def landFlight (id : Nat) (cells : List (Nat × FLane)) (k : Crew) : Crew :=
  { k with flights := k.flights.map fun x =>
      if x.id = id then { x with lanes := ⟨cells⟩, ready := true } else x }

theorem uncached_fetchAll (c : Nat) (l : List (Nat × FLane)) (p : State × List (Nat × FLane)) :
    (l.foldl (fetchNext c) p).1.uncached = p.1.uncached :=
  uncached_foldl_fst (f := fetchNext c) (fun q x => uncached_fetchLane q.1 c x.2) l p

theorem req_fetchAll {c : Nat} (l : List (Nat × FLane)) (p : State × List (Nat × FLane))
    (h : ∀ x ∈ p.2, x.2.req = none) : ∀ x ∈ (l.foldl (fetchNext c) p).2, x.2.req = none := by
  induction l generalizing p with
  | nil => exact h
  | cons a l ih =>
    refine ih _ fun x hx => ?_
    rcases List.mem_append.1 hx with hx | hx
    · exact h x hx
    · rw [List.mem_singleton.1 hx]
      exact req_fetchLane ..

section
variable {s : State} {c slot id : Nat} {reply : Reply} {k : Crew} {f : Flight}
  (hk : s.crew? c slot = some k) (hf : (k.flights.find? fun f => f.id == id && awaitsData f) = some f)
include hk hf

theorem loadDataReturn_waits (hd : dataFree s c slot f = false) :
    exec (.loadDataReturn c slot id reply) s = .next s := by
  show execLoadDataReturn c slot id reply s = _
  unfold execLoadDataReturn
  simp [hk, hf, hd]

theorem exec_loadDataReturn (hd : dataFree s c slot f = true) :
    let s1 := note (takeReply s reply) c slot 9 (l2Misses (takeReply s reply) c f)
    let p := f.lanes.cells.foldl (fetchNext c) (s1, [])
    exec (.loadDataReturn c slot id reply) s = .next (p.1.mapCrew c slot (landFlight id p.2)) := by
  show execLoadDataReturn c slot id reply s = _
  unfold execLoadDataReturn
  simp only [hk, hf, hd]
  rfl

/-- The data of a load has come: its flight is ready, and no lane awaits a byte (R186). -/
theorem loadDataReturn_ready (hd : dataFree s c slot f = true) :
    Happens (.loadDataReturn c slot id reply) s fun t =>
      ∃ k', t.crew? c slot = some k' ∧ k'.reg0 = k.reg0 ∧ k'.reg1 = k.reg1 ∧
        k'.fibres = k.fibres ∧ k'.flights.map (·.id) = k.flights.map (·.id) ∧
        ∀ x ∈ k'.flights, x.id = id → x.ready = true ∧ ∀ l ∈ x.lanes.vals, l.req = none := by
  refine ⟨_, exec_loadDataReturn hk hf hd, ?_⟩
  generalize hs1 : note (takeReply s reply) c slot 9 (l2Misses (takeReply s reply) c f) = s1
  have hu : s1.uncached = s.uncached := by
    rw [← hs1]
    exact (uncached_note ..).trans (uncached_takeReply ..)
  generalize hp : f.lanes.cells.foldl (fetchNext c) (s1, []) = p
  have hc : p.1.crew? c slot = some k := by
    rw [← hp, crew?_of_uncached ((uncached_fetchAll c _ _).trans hu), hk]
  have hreq : ∀ x ∈ p.2, x.2.req = none := by
    rw [← hp]
    exact req_fetchAll _ _ (by simp)
  refine ⟨landFlight id p.2 k, ?_, rfl, rfl, rfl, ?_, ?_⟩
  · rw [State.crew?_mapCrew, if_pos ⟨rfl, rfl⟩, hc]
    rfl
  · rw [landFlight, List.map_map]
    refine List.map_congr_left fun x _ => ?_
    dsimp only [Function.comp]
    split <;> rfl
  · intro x hx hid
    obtain ⟨y, -, rfl⟩ := List.mem_map.1 hx
    split at hid
    next hy =>
      rw [if_pos hy]
      refine ⟨rfl, fun l hl => ?_⟩
      obtain ⟨q, hq, rfl⟩ := List.mem_map.1 hl
      exact hreq q hq
    next hy => exact absurd hid hy

end

/-! ### The obligation -/

/-- Settles O40: each clause is the lemma above about its event. -/
theorem messagesAndWalks : Obligations.MessagesAndWalks := by
  unfold Obligations.MessagesAndWalks
  refine ⟨fun s s1 c d m => ⟨fun h => ⟨?_, ?_, ?_, ?_, ?_, ?_, ?_⟩, ?_, ?_⟩, ?_, fun s => ⟨?_, ?_⟩⟩
  · rintro e u x rfl hr
    exact stagingArrival_bad h hr
  · rintro e rfl hr hc
    exact stagingArrival_stages h hr hc
  · rintro slot q upTo rfl hr
    exact clearMessage_staging h hr
  · rintro slot q rfl
    exact squashMessage_staging h
  · rintro id u rfl hu
    exact stagingArrival_stagesUnit h hu
  · rintro id u rfl hu hh
    exact clearMessage_unit h hu hh
  · rintro e rfl
    exact homeAccessArrival_access h
  · exact fun e he => stagingSpaceFree_crosses he
  · exact fun id e he hd hs => stagingAck_lodge he hd hs
  · exact fun s c d id u he hu hd hm => stagingAck_unit he hu hd hm
  · exact fun k m rest h => translationWalk_serves h
  · exact fun c slot id reply k f hk hf =>
      ⟨fun hd => loadDataReturn_ready hk hf hd, fun hd => loadDataReturn_waits hk hf hd⟩

end Sys2Proof.Machine
end

section
/-! SUPPORT. What a step is in each of its cases (R112, R114): an event that is due, a position that
issues, a position whose operands hold an array error, and the end of a clause. -/
namespace Sys2Proof.Machine

/-! ### The batch whose turn it is -/

/-- The turn goes to a batch that is due, and moves it to the head. -/
theorem find?_of_turn {s s1 : State} {r : Run} (h : turn s = some (r, s1)) :
    s.runs.find? (runDue s) = some r ∧ s1 = { s with runs := r :: s.runs.erase r } := by
  unfold turn at h
  split at h
  next q hq =>
    cases h
    exact ⟨hq, rfl⟩
  next => cases h

theorem due_of_runDue {s : State} {r : Run} (h : runDue s r = true) : r.due ≤ s.now := by
  simp only [runDue, Bool.and_eq_true, decide_eq_true_eq] at h
  obtain ⟨⟨⟨⟨-, hdue⟩, -⟩, -⟩, -⟩ := h
  exact hdue

theorem due_head_of_turn {s s1 : State} {r : Run} (h : turn s = some (r, s1)) :
    r ∈ s.runs ∧ r.due ≤ s.now ∧ s1.runs.head? = some r := by
  obtain ⟨hf, rfl⟩ := find?_of_turn h
  exact ⟨List.mem_of_find?_eq_some hf, due_of_runDue (List.find?_some hf), rfl⟩

theorem crew?_of_turn {s s1 : State} {r : Run} (h : turn s = some (r, s1)) (c x : Nat) :
    s1.crew? c x = s.crew? c x := by
  obtain ⟨-, rfl⟩ := find?_of_turn h
  rfl

/-! ### Operands without an error -/

section
variable {s : State} {r : Run}
  (h : ∀ p ∈ r.fibres, ∀ k, s.crew? r.core p.2 = some k → k.upsets = [])
include h

theorem operandErrors_clean (i : Instr) : operandErrors s r i = (s, []) := by
  refine List.foldlRecOn (motive := (· = (s, []))) r.fibres _ rfl fun p hp x hx => ?_
  subst hp
  dsimp only
  split
  next => rfl
  next k hk => simp [h x hx k hk]

/-- Where no crew of the batch holds an array error, its operands pass and nothing changes (R112). -/
theorem checkOperands_clean (i : Instr) : checkOperands s r i = (s, []) := by
  unfold checkOperands
  split
  next => rfl
  next => simp [operandErrors_clean h i]

end

/-! ### A batch at its position -/

section
variable {s s1 : State} {r : Run} {i : Instr}

theorem stepRun_issues (hp : r.pos < r.words.length) (hw : wordAt r.words r.pos = some i)
    (hc : checkOperands s r i = (s1, [])) :
    stepRun r s = onNext (afterPos s1 r i) (exec i s1) := by
  simp [stepRun, Nat.not_le.2 hp, hw, hc]

theorem stepRun_traps {x : Nat × Nat × Cause × W64} {l : List (Nat × Nat × Cause × W64)}
    (hp : r.pos < r.words.length) (hw : wordAt r.words r.pos = some i)
    (hc : checkOperands s r i = (s1, x :: l)) : stepRun r s = .next s1 := by
  simp [stepRun, Nat.not_le.2 hp, hw, hc]

theorem stepRun_ends (hp : r.words.length ≤ r.pos) : stepRun r s = exec .clauseEnd s :=
  if_pos hp

end

/-! ### The step -/

section
variable {s s1 : State}

theorem step_of_event {i : Instr} (ha : agendaNext s = some (i, s1)) (hi : isEvent i = true) :
    step s = onNext settleTally (exec i s1) := by
  simp [step, stepBase, ha, hi]

theorem step_of_turn {r : Run} (ha : agendaNext s = none) (ht : turn s = some (r, s1)) :
    step s = onNext settleTally (stepRun r s1) := by
  simp [step, stepBase, ha, ht]

end

/-! ### The obligation -/

/-- Settles O52: a step is that of its case, and `turn` finds a batch that is due. -/
theorem stepRunsDecoded : Obligations.StepRunsDecoded := by
  unfold Obligations.StepRunsDecoded
  refine fun s => ⟨fun r s1 i ha ht hp hw => ⟨?_, ?_, ?_⟩, ?_, ?_, ?_⟩
  · intro s2 hc
    rw [step_of_turn ha ht, stepRun_issues hp hw hc]
  · intro s2 x l hc
    rw [step_of_turn ha ht, stepRun_traps hp hw hc]
    rfl
  · intro hu
    exact checkOperands_clean (fun p hpr k hk => hu p hpr k (crew?_of_turn ht .. ▸ hk)) i
  · exact fun i s1 ha hi => step_of_event ha hi
  · intro r s1 ha ht hp
    rw [step_of_turn ha ht, stepRun_ends hp]
  · exact fun r s1 ht => due_head_of_turn ht

end Sys2Proof.Machine
end

section
/-! SUPPORT. The fields of a floating-point pattern and the class that they name (R75, R76, R141). -/
namespace Sys2Proof
open Machine

/-! ### The fields of the pattern in a register (R75, R137) -/

/-- The exponent field of a type's pattern in a word. -/
def FTy.expOf (t : FTy) (w : W64) : Nat := fld w (t.ebits + t.mbits - 1) t.mbits

/-- Its fraction field. -/
def FTy.fracOf (t : FTy) (w : W64) : Nat := fld w (t.mbits - 1) 0

/-- Its sign. -/
def FTy.signOf (t : FTy) (w : W64) : Bool := bit w (t.ebits + t.mbits)

theorem FTy.ebits_pos (t : FTy) : 0 < t.ebits := by cases t <;> decide
theorem FTy.mbits_pos (t : FTy) : 0 < t.mbits := by cases t <;> decide

theorem FTy.expMax_ne_zero (t : FTy) : 2 ^ t.ebits - 1 ≠ 0 := by cases t <;> decide

theorem FTy.fracOf_lt (t : FTy) (w : W64) : t.fracOf w < 2 ^ t.mbits := by
  have h : t.mbits - 1 + 1 - 0 = t.mbits := by have := t.mbits_pos; omega
  unfold fracOf fld
  rw [h]
  exact Nat.mod_lt _ (Nat.two_pow_pos _)

theorem FTy.testBit_sign (t : FTy) (w : W64) :
    (w.toNat % 2 ^ t.width).testBit (t.ebits + t.mbits) = t.signOf w := by
  have h : t.ebits + t.mbits < t.width := by unfold width; omega
  rw [Nat.testBit_mod_two_pow, decide_eq_true h, Bool.true_and]
  rfl

theorem FTy.exp_field (t : FTy) (w : W64) :
    (w.toNat % 2 ^ t.width) >>> t.mbits % 2 ^ t.ebits = t.expOf w := by
  have h : t.ebits + t.mbits - 1 + 1 - t.mbits = t.ebits := by have := t.ebits_pos; omega
  unfold expOf fld
  rw [h]
  refine Nat.eq_of_testBit_eq fun i => ?_
  simp only [Nat.testBit_mod_two_pow, Nat.testBit_shiftRight]
  by_cases hi : i < t.ebits
  · have hw : t.mbits + i < t.width := by unfold width; omega
    simp [hw]
  · simp [hi]

theorem FTy.frac_field (t : FTy) (w : W64) : w.toNat % 2 ^ t.width % 2 ^ t.mbits = t.fracOf w := by
  have h : t.mbits - 1 + 1 - 0 = t.mbits := by have := t.mbits_pos; omega
  unfold fracOf fld
  rw [h, Nat.shiftRight_zero, Nat.mod_mod_of_dvd _ (Nat.pow_dvd_pow 2 (by unfold width; omega))]

/-- The value of a word by its fields: a zero or a subnormal, an infinity, a NaN, a normal (R75, R76). -/
theorem FTy.value_eq (t : FTy) (w : W64) : t.value w =
    if t.expOf w = 0 then .fin (t.signOf w) (t.fracOf w) (t.emin - t.mbits)
    else if t.hasInf ∧ t.expOf w = 2 ^ t.ebits - 1 then
      (if t.fracOf w = 0 then .inf (t.signOf w) else .nan (t.signOf w))
    else if ¬ t.hasInf ∧ t.expOf w = 15 ∧ t.fracOf w = 7 then .nan (t.signOf w)
    else .fin (t.signOf w) (2 ^ t.mbits + t.fracOf w) ((t.expOf w : Int) - t.bias - t.mbits) := by
  unfold value decode
  simp only [t.testBit_sign, t.exp_field, t.frac_field]

/-! ### The class (R141) -/

/-- The words that are a NaN. -/
abbrev FTy.NanAt (t : FTy) (w : W64) : Prop :=
  t.expOf w = 2 ^ t.ebits - 1 ∧ if t = .f8e4 then t.fracOf w = 7 else t.fracOf w ≠ 0

variable {t : FTy} {w : W64}

theorem FTy.hasInf_iff : t.hasInf = true ↔ t ≠ .f8e4 := by cases t <;> decide

theorem FTy.classBit_nan (h : t.NanAt w) : t.classBit w = 8 := by
  obtain ⟨he, hm⟩ := h
  have hv : t.value w = .nan (t.signOf w) := by
    rw [value_eq, he]
    by_cases ht : t = .f8e4
    · subst ht
      rw [if_pos rfl] at hm
      simp [hm, ebits, hasInf]
    · rw [if_neg ht] at hm
      rw [if_neg t.expMax_ne_zero, if_pos ⟨hasInf_iff.2 ht, rfl⟩, if_neg hm]
  simp only [classBit, hv]

theorem FTy.classBit_inf (h : ¬ t.NanAt w) (ht : t ≠ .f8e4) (he : t.expOf w = 2 ^ t.ebits - 1) :
    t.classBit w = if t.signOf w then 0 else 7 := by
  have hm : t.fracOf w = 0 := by
    refine Decidable.byContradiction fun hm => h ⟨he, ?_⟩
    rwa [if_neg ht]
  have hv : t.value w = .inf (t.signOf w) := by
    rw [value_eq, he, if_neg t.expMax_ne_zero, if_pos ⟨hasInf_iff.2 ht, rfl⟩, if_pos hm]
  simp only [classBit, hv]

theorem FTy.classBit_low (he : t.expOf w = 0) : t.classBit w =
    if t.fracOf w = 0 then (if t.signOf w then 3 else 4) else if t.signOf w then 2 else 5 := by
  have hv : t.value w = .fin (t.signOf w) (t.fracOf w) (t.emin - t.mbits) := by
    rw [value_eq, if_pos he]
  simp only [classBit, hv, decide_eq_true (t.fracOf_lt w), if_true]

theorem FTy.classBit_normal (h : ¬ t.NanAt w) (hi : ¬ (t ≠ .f8e4 ∧ t.expOf w = 2 ^ t.ebits - 1))
    (he : t.expOf w ≠ 0) : t.classBit w = if t.signOf w then 1 else 6 := by
  have hn : ¬ (¬ t.hasInf = true ∧ t.expOf w = 15 ∧ t.fracOf w = 7) := by
    rintro ⟨ht, he', hm⟩
    obtain rfl : t = .f8e4 := Decidable.byContradiction fun ht' => ht (hasInf_iff.2 ht')
    exact h ⟨he', hm⟩
  have hv : t.value w =
      .fin (t.signOf w) (2 ^ t.mbits + t.fracOf w) ((t.expOf w : Int) - t.bias - t.mbits) := by
    rw [value_eq, if_neg he, if_neg fun ⟨hf, he'⟩ => hi ⟨hasInf_iff.1 hf, he'⟩, if_neg hn]
  have hpos := Nat.two_pow_pos t.mbits
  have hzero : 2 ^ t.mbits + t.fracOf w ≠ 0 := by omega
  have hsub : ¬ 2 ^ t.mbits + t.fracOf w < 2 ^ t.mbits := by omega
  simp only [classBit, hv, if_neg hzero, decide_eq_false hsub, Bool.false_eq_true, if_false]

/-- The table of R141. -/
theorem FTy.classBit_eq : t.classBit w =
    if t.NanAt w then 8
    else if t ≠ .f8e4 ∧ t.expOf w = 2 ^ t.ebits - 1 then (if t.signOf w then 0 else 7)
    else if t.expOf w = 0 then
      (if t.fracOf w = 0 then (if t.signOf w then 3 else 4) else if t.signOf w then 2 else 5)
    else if t.signOf w then 1 else 6 := by
  split
  next h => exact classBit_nan h
  next h =>
    split
    next hi => exact classBit_inf h hi.1 hi.2
    next hi =>
      split
      next he => exact classBit_low he
      next he => exact classBit_normal h hi he

end Sys2Proof

namespace Sys2Proof.Machine

/-- `fclass` writes the word with the bit of the class of its operand (R141). -/
theorem computes_fclass (g : Guard) (t : FTy) (d : Dst) (a : Src) :
    Computes (.fclass g t d a) g d false 0 fun _ rd => BitVec.ofNat 64 (2 ^ t.classBit (rd false a)) :=
  computes_of_compute fun _ => rfl

/-- The sizes in the table are those of the formats (R75). -/
theorem sizes_of_mem {t : FTy} {eb mb : Nat} (h : (t, eb, mb) ∈ [(FTy.f32, 8, 23), (FTy.f16, 5, 10),
    (FTy.bf16, 8, 7), (FTy.f8e4, 4, 3), (FTy.f8e5, 5, 2)]) : eb = t.ebits ∧ mb = t.mbits := by
  simp only [List.mem_cons, List.not_mem_nil, or_false, Prod.mk.injEq] at h
  obtain ⟨rfl, rfl, rfl⟩ | ⟨rfl, rfl, rfl⟩ | ⟨rfl, rfl, rfl⟩ | ⟨rfl, rfl, rfl⟩ | ⟨rfl, rfl, rfl⟩ := h
  all_goals exact ⟨rfl, rfl⟩

/-- Settles O59: the class by the fields of the operand, and `fclass` writes its bit. -/
theorem floatClasses : Obligations.FloatClasses := by
  unfold Obligations.FloatClasses
  refine ⟨fun t eb mb h w => ?_, computes_fclass⟩
  obtain ⟨rfl, rfl⟩ := sizes_of_mem h
  exact FTy.classBit_eq

end Sys2Proof.Machine
end

section
/-! SUPPORT. The floating-point instructions (R136 to R144): the sign bit of a pattern cleared and
flipped, and the effect of each instruction. -/
namespace Sys2Proof.Machine

theorem two_pow_width (t : FTy) : 2 ^ t.width = t.signBit + t.signBit := by
  rw [FTy.width, FTy.signBit, Nat.add_assoc, Nat.add_comm, Nat.pow_succ, Nat.mul_two]

theorem two_pow_width_pred (t : FTy) : 2 ^ (t.width - 1) = t.signBit := by
  rw [FTy.width, FTy.signBit, Nat.add_assoc, Nat.add_sub_cancel_left]

/-- A pattern without its sign bit (R140). -/
theorem absBits_eq (t : FTy) (a : W64) :
    absBits t a = BitVec.ofNat 64 (a.toNat % 2 ^ (t.width - 1)) := by
  rw [absBits, two_pow_width_pred, Nat.mod_mod_of_dvd]
  exact ⟨2, (two_pow_width t).trans (Nat.mul_two _).symm⟩

/-- The flip of the top bit of a pattern is the sum with that bit, modulo the pattern (R140). -/
theorem negBits_eq (t : FTy) (a : W64) :
    negBits t a = BitVec.ofNat 64 ((a.toNat + 2 ^ (t.width - 1)) % 2 ^ t.width) := by
  have hx : a.toNat % 2 ^ t.width < t.signBit + t.signBit :=
    two_pow_width t ▸ Nat.mod_lt _ (Nat.two_pow_pos _)
  rw [negBits, ← Nat.mod_add_mod, two_pow_width_pred]
  generalize a.toNat % 2 ^ t.width = x at hx ⊢
  rw [two_pow_width]
  congr 1
  split
  next hlow => rw [Nat.mod_eq_of_lt (by omega)]
  next hhigh =>
    have hy : x + t.signBit = x - t.signBit + (t.signBit + t.signBit) := by omega
    rw [hy, Nat.add_mod_right, Nat.mod_eq_of_lt (by omega)]

theorem computes_fabs (g : Guard) (t : FTy) (d : Dst) (a : Src) :
    Computes (.fabs g t d a) g d false 0 fun _ rd =>
      BitVec.ofNat 64 ((rd false a).toNat % 2 ^ (t.width - 1)) := by
  have h : Computes (.fabs g t d a) g d false 0 fun _ rd => absBits t (rd false a) :=
    computes_of_compute fun _ => rfl
  exact h.congr fun _ _ _ _ => absBits_eq ..

theorem computes_fneg (g : Guard) (t : FTy) (d : Dst) (a : Src) :
    Computes (.fneg g t d a) g d false 0 fun _ rd =>
      BitVec.ofNat 64 (((rd false a).toNat + 2 ^ (t.width - 1)) % 2 ^ t.width) := by
  have h : Computes (.fneg g t d a) g d false 0 fun _ rd => negBits t (rd false a) :=
    computes_of_compute fun _ => rfl
  exact h.congr fun _ _ _ _ => negBits_eq ..

/-- Settles O7: each instruction is `compute` with the value that the statement gives; `fabs` and
`fneg` by the lemmas on the sign bit above. -/
theorem floatResults : Obligations.FloatResults := by
  unfold Obligations.FloatResults
  refine ⟨⟨?fadd, ?fsub, ?fmul, ?fma, ?fdiv, ?fmin, ?fmax, computes_fabs, computes_fneg, ?fcmp,
    computes_fclass, ?fround⟩, ?frcp, ?frsq, ?fsqrt, ?fexp2, ?flog2, ?fsin, ?fcos⟩
  -- the clauses left name a value that the model computes as such
  all_goals
    intros
    exact computes_of_compute fun _ => rfl

end Sys2Proof.Machine
end

section
/-! SUPPORT. The conversions (R145 to R152), and the effect of `cvt.ef`, which writes two registers of
each active fibre (R83, R149). -/
namespace Sys2Proof.Machine

/-! ### Results written over any register contents -/

section
variable {s : State} {r : Run} {g : Guard} {f : BitVec 16 → (Bool → Src → W64) → W64} {slot lane : Nat}
  {k : Crew} (hk : s.crew? r.core slot = some k)
include hk

/-- A result for a lane of a crew is that of an active fibre. -/
theorem active_of_mem_results {q : LaneCtx × Nat} (hq : q ∈ results s r g f) (hs : q.1.slot = slot)
    (hl : q.1.lane = lane) : activeIn r g slot k lane = true ∧
      q.2 = (f (predOf k lane) (srcVal k r lane)).toNat := by
  subst hs hl
  obtain ⟨hm, ha, hv⟩ := mem_results.1 hq
  obtain ⟨hf, hc, hx, hg⟩ := mem_lanesUnder.1 hm
  obtain rfl : k = q.1.crew := Option.some.inj (hk.symm.trans hc)
  refine ⟨activeIn_iff.2 ⟨hf, _, hx, hg ▸ ha⟩, ?_⟩
  rw [hv, predOf, hx]

theorem exists_mem_results (ha : activeIn r g slot k lane = true) :
    ∃ q ∈ results s r g f, q.1.slot = slot ∧ q.1.lane = lane := by
  obtain ⟨hf, x, hx, hg⟩ := activeIn_iff.1 ha
  exact ⟨⟨⟨lane, slot, k, x, true⟩, (f x.pred (srcVal k r lane)).toNat⟩,
    mem_results.2 ⟨mem_lanesUnder.2 ⟨hf, hk, hx, hg.symm⟩, rfl, rfl⟩, rfl, rfl⟩

/-- One register of each active fibre receives its result, whatever it held. -/
theorem afterWrites_results_one (b v : Nat) (w : W32) :
    afterWrites b 1 (results s r g f) slot v lane w =
      if v = b ∧ activeIn r g slot k lane then (f (predOf k lane) (srcVal k r lane)).setWidth 32
      else w := by
  split
  next h =>
    obtain ⟨rfl, ha⟩ := h
    rw [afterWrites_some w (Nat.le_refl v) (Nat.lt_succ_self v) (.inl (exists_mem_results hk ha))
      fun q hq hs hl => (active_of_mem_results hk hq hs hl).2, Nat.sub_self, splitRegs_low _ _ Nat.one_pos]
  next h =>
    refine afterWrites_none w fun q hq hw => h ?_
    obtain ⟨hs, hl, hv, hv'⟩ := hw
    exact ⟨by omega, (active_of_mem_results hk hq hs hl.symm).1⟩

end

/-- Where only registers differ, everything but registers and close points agrees. -/
theorem calm_of_sansRegs {k k' : Crew} (h : k'.sansRegs = k.sansRegs) : k'.calm = k.calm := by
  have hr : k'.region = k.region := (congrArg Crew.region h : k'.sansRegs.region = k.sansRegs.region)
  rw [Crew.calm, h, hr, Crew.calm]

theorem slot_mem_of_results {s : State} {r : Run} {g : Guard}
    {f : BitVec 16 → (Bool → Src → W64) → W64} {q : LaneCtx × Nat} (hq : q ∈ results s r g f) :
    q.1.slot ∈ r.slots :=
  mem_slots.2 ⟨_, (mem_lanesUnder.1 (mem_results.1 hq).1).1⟩

theorem lane_lt_of_results {s : State} {r : Run} {g : Guard}
    {f : BitVec 16 → (Bool → Src → W64) → W64} (hp : r.Placed) {q : LaneCtx × Nat}
    (hq : q ∈ results s r g f) : q.1.lane < 64 :=
  hp.2.2 _ (mem_lanesUnder.1 (mem_results.1 hq).1).1

/-- What one register of each active fibre, written with the results found in `u`, does to a crew of
any state. -/
theorem writeResults_spec {r : Run} (hp : r.Placed) (s u : State) (g : Guard)
    (f : BitVec 16 → (Bool → Src → W64) → W64) (b : BitVec 8) (slot : Nat) :
    AtCrew s (writeLanes s r.core b.toNat 1 (results u r g f)) r.core slot fun k1 k2 =>
      k2.sansRegs = k1.sansRegs ∧ (slot ∉ r.slots → k2 = k1) ∧
      ∀ k, u.crew? r.core slot = some k → ∀ v lane, lane < 64 → regGet k2 v lane =
        if v = b.toNat ∧ activeIn r g slot k lane then (f (predOf k lane) (srcVal k r lane)).setWidth 32
        else regGet k1 v lane := by
  refine atCrew_mono ?_ (writeLanes_spec s r.core b.toNat 1 (results u r g f) slot b.isLt
    fun q hq => lane_lt_of_results hp hq)
  rintro k1 k2 ⟨hs, hn, hw⟩
  refine ⟨hs, fun hns => hn fun q hq e => hns (e ▸ slot_mem_of_results hq), fun k hk v lane hl => ?_⟩
  rw [hw v lane hl, afterWrites_results_one hk]

/-! ### `cvt.ef` (R83, R149) -/

/-- Results written into a destination of one register. -/
def writeDst (s : State) (c : Nat) (d : Dst) (l : List (LaneCtx × Nat)) : State :=
  match d with
  | .reg b => writeLanes s c b.toNat 1 l
  | _ => s

theorem writeDst_keeps (s : State) (c : Nat) (d : Dst) (l : List (LaneCtx × Nat)) :
    (writeDst s c d l).runs = s.runs ∧ SameBut c s (writeDst s c d l) := by
  cases d with
  | reg b => exact ⟨runs_writeLanes .., sameBut_writeLanes ..⟩
  | sup b => exact ⟨rfl, sameBut_refl ..⟩
  | none => exact ⟨rfl, sameBut_refl ..⟩

theorem writeDst_spec {r : Run} (hp : r.Placed) (u : State) (g : Guard)
    (f : BitVec 16 → (Bool → Src → W64) → W64) (d : Dst) (slot : Nat) :
    AtCrew u (writeDst u r.core d (results u r g f)) r.core slot fun k k' =>
      k'.sansRegs = k.sansRegs ∧ (slot ∉ r.slots → k' = k) ∧
      ∀ v lane, lane < 64 → regGet k' v lane = regAfter r g d false f slot k v lane := by
  cases d with
  | reg b =>
    refine atCrew_trans_eq ?_ (atCrew_refl (R := Eq) fun _ => rfl) (writeResults_spec hp u u g f b slot)
    rintro k _ k' hk - - rfl ⟨hs, hn, hw⟩
    refine ⟨hs, hn, fun v lane hl => ?_⟩
    rw [hw k hk v lane hl]
    by_cases ha : activeIn r g slot k lane = true <;> simp [regAfter, ha]
  | sup b => exact atCrew_refl fun _ => ⟨rfl, fun _ => rfl, fun _ _ _ => rfl⟩
  | none => exact atCrew_refl fun _ => ⟨rfl, fun _ => rfl, fun _ _ _ => rfl⟩

/-- The rounded value of a fibre, from its sources. -/
def efValue (sat : Bool) (td : FTy) (a : Src) (comp : BitVec 8) (_ : BitVec 16)
    (rd : Bool → Src → W64) : W64 :=
  (cvtEfVal sat td (rd false a) (rd false (.reg comp))).1

/-- Its new residue. -/
def efResidue (sat : Bool) (td : FTy) (a : Src) (comp : BitVec 8) (_ : BitVec 16)
    (rd : Bool → Src → W64) : W64 :=
  (cvtEfVal sat td (rd false a) (rd false (.reg comp))).2

/-- The state that `cvt.ef` has written: the values, then the residues, all found in `u`. -/
def efWritten (u : State) (r : Run) (g : Guard) (sat : Bool) (td : FTy) (d : Dst) (a : Src)
    (comp : BitVec 8) : State :=
  writeLanes (writeDst u r.core d (results u r g (efValue sat td a comp))) r.core comp.toNat 1
    (results u r g (efResidue sat td a comp))

section
variable (u : State) (r : Run) (g : Guard) (sat : Bool) (td : FTy) (d : Dst) (a : Src) (comp : BitVec 8)

theorem efWritten_keeps : (efWritten u r g sat td d a comp).runs = u.runs ∧
    SameBut r.core u (efWritten u r g sat td d a comp) := by
  obtain ⟨hr, hs⟩ := writeDst_keeps u r.core d (results u r g (efValue sat td a comp))
  exact ⟨(runs_writeLanes ..).trans hr, sameBut_trans hs (sameBut_writeLanes ..)⟩

/-- The register v of a lane after `cvt.ef`: its companion holds the residue, every other what the
value leaves. -/
def efAfter (slot : Nat) (k : Crew) (v lane : Nat) : W32 :=
  if v = comp.toNat ∧ activeIn r g slot k lane then
    (efResidue sat td a comp (predOf k lane) (srcVal k r lane)).setWidth 32
  else regAfter r g d false (efValue sat td a comp) slot k v lane

/-- What `cvt.ef` does to a crew in a slot. -/
def EfWrites (slot : Nat) (k k' : Crew) : Prop :=
  k'.calm = k.calm ∧ (slot ∉ r.slots → k' = k) ∧ ∀ v lane, v < 256 → lane < 64 →
    regGet k' v lane = efAfter r g sat td d a comp slot k v lane

theorem efWritten_spec (hp : r.Placed) (slot : Nat) :
    AtCrew u (efWritten u r g sat td d a comp) r.core slot (EfWrites r g sat td d a comp slot) := by
  refine atCrew_trans_eq ?_ (writeDst_spec hp u g (efValue sat td a comp) d slot)
    (writeResults_spec hp _ u g (efResidue sat td a comp) comp slot)
  rintro k k1 k2 hk - - ⟨hs1, hn1, hw1⟩ ⟨hs2, hn2, hw2⟩
  refine ⟨calm_of_sansRegs (hs2.trans hs1), fun hns => (hn2 hns).trans (hn1 hns), fun v lane _ hl => ?_⟩
  rw [hw2 k hk v lane hl, hw1 v lane hl]
  rfl

end

section
variable {r : Run} {g : Guard} {sat : Bool} {td : FTy} {d : Dst} {a : Src} {comp : BitVec 8} {slot : Nat}
  {k k' k'' : Crew}

/-- The issue before the writes changes nothing that they read. -/
theorem EfWrites.of_calmed (h : Calmed (slot ∈ r.slots) k k')
    (h' : EfWrites r g sat td d a comp slot k' k'') : EfWrites r g sat td d a comp slot k k'' := by
  obtain ⟨hc, hn, hw⟩ := h'
  obtain ⟨hc0, -, -, -, -, hn0⟩ := id h
  refine ⟨hc.trans hc0, fun hns => (hn hns).trans (hn0 hns), fun v lane hv hl => ?_⟩
  rw [hw v lane hv hl]
  simp only [efAfter, h.activeIn, h.predOf, h.srcVal, h.regAfter]

/-- The landing after the writes keeps them. -/
theorem EfWrites.calmed (h : EfWrites r g sat td d a comp slot k k')
    (h' : Calmed (slot ∈ r.slots) k' k'') : EfWrites r g sat td d a comp slot k k'' := by
  obtain ⟨hc, hn, hw⟩ := h
  obtain ⟨hc1, -, -, -, -, hn1⟩ := id h'
  exact ⟨hc1.trans hc, fun hns => (hn1 hns).trans (hn hns), fun v lane hv hl =>
    (h'.regGet v lane).trans (hw v lane hv hl)⟩

end

/-- What the fibres that write hand over, where each carries its result along. -/
theorem map_active_eq_results {α : Type} (s : State) (r : Run) (g : Guard)
    {f : BitVec 16 → (Bool → Src → W64) → W64} {F : LaneCtx → α} (h : α → Nat)
    (hF : ∀ x : LaneCtx, x.act = true → h (F x) = (f x.fib.pred (srcVal x.crew r x.lane)).toNat) :
    ((((lanesUnder s r g).map fun x => (x, F x)).filter fun p => p.1.act).map fun p => (p.1, h p.2)) =
      results s r g f := by
  rw [List.filter_map, List.map_map, results]
  refine List.map_congr_left fun x hx => ?_
  exact Prod.ext rfl (hF x (List.mem_filter.1 hx).2)

/-- The granule copies of one register take 4 cc at most (R102). -/
theorem renameCc_one_le (l : List LaneCtx) (v : Nat) : renameCc l v 1 ≤ 4 := by
  have := renameCc_le l v 1 (.inl rfl)
  omega

/-- The cycles of the granule copies of `cvt.ef`: those of the companion and, where it lies in another
granule, of the destination (R102, R149). -/
def efCopies (l : List LaneCtx) (d : Dst) (comp : BitVec 8) : Nat :=
  renameCc l comp.toNat 1 + match d with
    | .reg b => if b.toNat / 8 = comp.toNat / 8 then 0 else renameCc l b.toNat 1
    | _ => 0

theorem efCopies_le (l : List LaneCtx) (d : Dst) (comp : BitVec 8) : efCopies l d comp ≤ 8 := by
  refine Nat.add_le_add (b := 4) (d := 4) (renameCc_one_le ..) ?_
  split
  · split
    · exact Nat.zero_le 4
    · exact renameCc_one_le ..
  · exact Nat.zero_le 4

/-- `cvt.ef` where its batch issues: both writes, and the copies of at most two granules (R102, R149). -/
theorem exec_cvtEf {s : State} {r : Run} {g : Guard} {sat : Bool} {td : FTy} {d : Dst} {a : Src}
    {comp : BitVec 8} (hi : Issues s r (.cvtEf g sat td d a comp)) :
    ∃ (lat : Tab W64) (copies : Nat), copies ≤ 8 ∧ exec (.cvtEf g sat td d a comp) s =
      .next (finishLate (efWritten (touchRun s r) r g sat td d a comp) { r with lat := lat } (1 + copies)) := by
  obtain ⟨hhead, hfree⟩ := hi
  have he : exec (.cvtEf g sat td d a comp) s = execCvtEf g sat td d a comp s := rfl
  rw [he, execCvtEf, issue_eq hhead hfree]
  generalize touchRun s r = u
  dsimp only
  rw [map_active_eq_results (α := W64 × W64) (f := efValue sat td a comp) u r g
      (fun q => q.1.toNat) fun x hx => by simp [latchVal, hx, efValue, srcVal],
    map_active_eq_results (α := W64 × W64) (f := efResidue sat td a comp) u r g
      (fun q => q.2.toNat) fun _ _ => by rfl,
    Nat.add_assoc]
  exact ⟨_, efCopies _ d comp, efCopies_le .., rfl⟩

/-- The effect of `cvt.ef` (R83, R149). -/
theorem cvtEf_effect {s : State} {r : Run} {g : Guard} {sat : Bool} {td : FTy} {d : Dst} {a : Src}
    {comp : BitVec 8} (hi : Issues s r (.cvtEf g sat td d a comp)) (hp : r.Placed) :
    ∃ (t : State) (lat : Tab W64) (copies : Nat), exec (.cvtEf g sat td d a comp) s = .next t ∧
      copies ≤ 8 ∧ t.runs = s.runs.tail ++ [{ r.passed s (1 + copies) with lat := lat }] ∧
      SameBut r.core s t ∧ SameBytes s t ∧
      ∀ slot, AtCrew s t r.core slot (EfWrites r g sat td d a comp slot) := by
  obtain ⟨lat, copies, hc, he⟩ := exec_cvtEf hi
  obtain ⟨hwr, hws⟩ := efWritten_keeps (touchRun s r) r g sat td d a comp
  obtain ⟨hfr, hfs, hfc⟩ := finishLate_spec (efWritten (touchRun s r) r g sat td d a comp)
    { r with lat := lat } (1 + copies) hp.1
  have hw := sameBut_trans (sameBut_touchRun s r) hws
  have ht := sameBut_trans hw hfs
  refine ⟨_, lat, copies, he, hc, ?_, ht, sameBytes_sameBut ht, fun slot => ?_⟩
  · rw [hfr, hwr, runs_touchRun, passed_sameBut (r := { r with lat := lat }) hw]
    rfl
  · have hin : AtCrew s (efWritten (touchRun s r) r g sat td d a comp) r.core slot
        (EfWrites r g sat td d a comp slot) := by
      refine atCrew_trans ?_ (calmed_touchRun s r slot) (efWritten_spec _ r g sat td d a comp hp slot)
      exact fun _ _ _ => EfWrites.of_calmed
    refine atCrew_trans ?_ hin (hfc slot)
    exact fun _ _ _ => EfWrites.calmed

/-- Settles O8: the instructions of one result by the values that the model computes, and `cvt.ef` by its
effect above. -/
theorem conversionResults : Obligations.ConversionResults := by
  unfold Obligations.ConversionResults
  refine ⟨⟨?dp4, ?hfma2, ?sclq, ?cvt, ?cbenc, ?cbdec⟩,
    fun g sat td d a comp s r hi hp => cvtEf_effect hi hp⟩
  all_goals
    intros
    exact computes_of_compute fun _ => rfl

end Sys2Proof.Machine
end
